-- ==== Sys2Proof/Word.lean ====
section
/-!
DEFINITION. The word types of the machine (R3, R4): bytes, halves, words, doublewords.
-/
namespace Sys2Proof

/-- A byte, 8 bits (R3). -/
abbrev Byte := BitVec 8
/-- A half, 16 bits (R3). -/
abbrev Half := BitVec 16
/-- A doubleword, 64 bits (R3): the width of the registers w0–w31, mb0–mb7 and in0–in7 (R13). -/
abbrev Word := BitVec 64
/-- A 512-bit vector register (R13). -/
abbrev Vec := BitVec 512
/-- A 6-bit register slot (R33). -/
abbrev Reg := BitVec 6
/-- A 4-bit vector, mask or small-register slot of Formats V, V4 and VM (R34). -/
abbrev VReg := BitVec 4
/-- An element named by its coordinate word (R102): die × 2^13 + x × 2^6 + y. -/
abbrev EId := Nat

end Sys2Proof
end

