-- ==== Sys2Proof/Syntax.lean ====
section
/-!
DEFINITION. The instruction set as data: one constructor of `Instr` per row of spec/opcode_table.json
(R2, R40, R41), that is 207 instructions of 32 bits, 19 compact instructions of 16 bits and 70 operations and
events of the device. A slot carries its raw value; `WellFormed` says which values the entries allow.
-/
namespace Sys2Proof

/-- The operands of the mailbox command CREATE (R405). -/
structure CreateReq where
  ctx : Nat
  soruses : List Nat          -- package sorus indexes 0–511 (R12)
  memcores : List EId
  root : Nat                  -- translation root, a physical address
  allotBase : Nat
  allotSize : Nat
  sliceFirst : Nat
  sliceCount : Nat
  key : Word
  weights : List Nat          -- matrix weights W(m), m = 0–7 (R270)
  deriving DecidableEq, Repr, Inhabited

/-- One side of a cross-package transfer's end (R418). -/
inductive XferEnd where
  /-- the source package: the transfer of the context's oldest XFER record ends with a status (R414) -/
  | source (ctx : Nat) (status : Nat)
  /-- the peer package: granules of a transfer of a GROUP arrive for the context, the last one at a scale-out port, then the message
  in0 = 0x0060 -/
  | peer (ctx : Nat) (group : Word) (port : BitVec 4) (dst : Word) (bytes : List Byte) (msg : Word) (tag : Word)
  deriving DecidableEq, Repr, Inhabited

/-- Where an uncorrectable ECC error comes to stand (R157, R273). -/
inductive EccSite where
  | scratch (e : EId) (off : Nat)                 -- a scratchpad doubleword
  | hbm (pa : Nat)                                -- an HBM granule
  | slot (sorus : Nat) (slot : Nat) (byte : Nat)  -- a byte of an operand slot
  | tile (e : EId) (t : Nat) (elem : Nat)         -- a tile element
  deriving DecidableEq, Repr, Inhabited

/-- One constructor per row of the opcode table. -/
inductive Instr where
  /-- ADD: Integer add of registers a and b into d, modulo 2^64 (R106) -/
  | add (d : Reg) (a : Reg) (b : Reg)
  /-- SUB: Integer subtract of b from a into d (R106) -/
  | sub (d : Reg) (a : Reg) (b : Reg)
  /-- MUL: Low 64 bits of the product of a and b into d (R106) -/
  | mul (d : Reg) (a : Reg) (b : Reg)
  /-- MULH: High 64 bits of the signed or natural product of a and b into d (R106) -/
  | mulh (d : Reg) (a : Reg) (b : Reg) (n : Bool)
  /-- DIV: Truncating signed or natural division, faulting on a zero divisor (R106) -/
  | div (d : Reg) (a : Reg) (b : Reg) (n : Bool)
  /-- REM: Remainder with the sign of the dividend, faulting on a zero divisor (R106) -/
  | rem (d : Reg) (a : Reg) (b : Reg) (n : Bool)
  /-- AND: Bitwise AND of a and b into d (R106) -/
  | and (d : Reg) (a : Reg) (b : Reg)
  /-- OR: Bitwise OR of a and b into d; MOV is its alias with b = zr (R106) -/
  | or (d : Reg) (a : Reg) (b : Reg)
  /-- XOR: Bitwise XOR of a and b into d (R106) -/
  | xor (d : Reg) (a : Reg) (b : Reg)
  /-- SHL: Shift a left by b[5:0] into d (R106) -/
  | shl (d : Reg) (a : Reg) (b : Reg)
  /-- SHR: Logical shift right of a by b[5:0] (R106) -/
  | shr (d : Reg) (a : Reg) (b : Reg)
  /-- SRA: Arithmetic shift right of a by b[5:0] (R106) -/
  | sra (d : Reg) (a : Reg) (b : Reg)
  /-- ROTL: Rotate a left by b[5:0] (R106) -/
  | rotl (d : Reg) (a : Reg) (b : Reg)
  /-- MIN: Smaller of a and b as i64 or n64 (R106) -/
  | min (d : Reg) (a : Reg) (b : Reg) (n : Bool)
  /-- MAX: Larger of a and b as i64 or n64 (R106) -/
  | max (d : Reg) (a : Reg) (b : Reg) (n : Bool)
  /-- SEL: Select a when the old d is non-zero, otherwise b (R106) -/
  | sel (d : Reg) (a : Reg) (b : Reg)
  /-- ADDI: Add a sign-extended 8-bit immediate to a (R107) -/
  | addi (d : Reg) (a : Reg) (i : BitVec 8)
  /-- ANDI: Bitwise AND of a with a sign-extended immediate (R107) -/
  | andi (d : Reg) (a : Reg) (i : BitVec 8)
  /-- ORI: Bitwise OR of a with a sign-extended immediate (R107) -/
  | ori (d : Reg) (a : Reg) (i : BitVec 8)
  /-- XORI: Bitwise XOR of a with a sign-extended immediate (R107) -/
  | xori (d : Reg) (a : Reg) (i : BitVec 8)
  /-- SHL_IMM: Shift a left by an immediate amount 0-63 (R107) -/
  | shlImm (d : Reg) (a : Reg) (i : BitVec 6)
  /-- SHR_IMM: Logical shift right by an immediate amount (R107) -/
  | shrImm (d : Reg) (a : Reg) (i : BitVec 6)
  /-- SRA_IMM: Arithmetic shift right by an immediate amount (R107) -/
  | sraImm (d : Reg) (a : Reg) (i : BitVec 6)
  /-- ROTL_IMM: Rotate left by an immediate amount (R107) -/
  | rotlImm (d : Reg) (a : Reg) (i : BitVec 6)
  /-- SEQ_IMM: Set d to 1 when a equals the immediate (R107) -/
  | seqImm (d : Reg) (a : Reg) (i : BitVec 8)
  /-- SNE_IMM: Set d to 1 when a differs from the immediate (R107) -/
  | sneImm (d : Reg) (a : Reg) (i : BitVec 8)
  /-- SLT_IMM: Set d to 1 when a is signed-less than the immediate (R107) -/
  | sltImm (d : Reg) (a : Reg) (i : BitVec 8)
  /-- SLE_IMM: Set d to 1 when a is signed-less or equal to the immediate (R107) -/
  | sleImm (d : Reg) (a : Reg) (i : BitVec 8)
  /-- NOT: Bitwise complement of a into d (R108) -/
  | not (d : Reg) (a : Reg)
  /-- CLZ: Count leading zero bits of a (R108) -/
  | clz (d : Reg) (a : Reg)
  /-- CTZ: Count trailing zero bits of a (R108) -/
  | ctz (d : Reg) (a : Reg)
  /-- POPC: Count the one bits of a (R108) -/
  | popc (d : Reg) (a : Reg)
  /-- SEQ: Set d to 1 when a equals b (R108) -/
  | seq (d : Reg) (a : Reg) (b : Reg)
  /-- SNE: Set d to 1 when a differs from b (R108) -/
  | sne (d : Reg) (a : Reg) (b : Reg)
  /-- SLT: Set d to 1 when a is less than b, signed or natural (R108) -/
  | slt (d : Reg) (a : Reg) (b : Reg) (n : Bool)
  /-- SLE: Set d to 1 when a is less than or equal to b, signed or natural (R108) -/
  | sle (d : Reg) (a : Reg) (b : Reg) (n : Bool)
  /-- LI: Load a sign-extended 16-bit immediate into d (R108) -/
  | li (d : Reg) (i : BitVec 16)
  /-- LIH: Shift d left 16 bits and insert a natural 16-bit immediate (R108) -/
  | lih (d : Reg) (i : BitVec 16)
  /-- BR: PC-relative branch with a 22-bit offset (R110) -/
  | br (i : BitVec 22)
  /-- CALL: PC-relative call writing the link PC+4 into w31 (R110) -/
  | call (i : BitVec 22)
  /-- BRC: Conditional PC-relative branch comparing register a with zero (R111) -/
  | brc (a : Reg) (c : BitVec 3) (i : BitVec 14)
  /-- JMP: Jump to the address in a, optionally writing a link into d (R112) -/
  | jmp (d : Reg) (a : Reg)
  /-- RET: Return to the address held in w31 (R112) -/
  | ret
  /-- ENDT: End the activation: write back registers, fold the digest, free the channel and select the next activation (R89) -/
  | endt
  /-- YIELD: Arm a continuation slot from a descriptor and end the activation (R113) -/
  | yield (a : Reg) (b : Reg)
  /-- MKA: Build a generic address of the selected aperture from a coordinate word and an offset word (R114) -/
  | mka (d : Reg) (a : Reg) (b : Reg) (z : BitVec 2)
  /-- NOP: No operation (R112) -/
  | nop
  /-- LD: Zero-extending scratchpad or memory load of size b, h, w or d with a scaled offset (R161) -/
  | ld (d : Reg) (s : BitVec 2) (a : Reg) (i : BitVec 8)
  /-- LD_SIGNED: Sign-extending load of 1, 2 or 4 bytes (R161) -/
  | ldSigned (d : Reg) (s : BitVec 2) (a : Reg) (i : BitVec 8)
  /-- ST: Store the low bytes of d at a plus a scaled offset (R161) -/
  | st (d : Reg) (s : BitVec 2) (a : Reg) (i : BitVec 8)
  /-- LDX: Bounded array load, faulting when the index reaches the paired bound (R163) -/
  | ldx (d : Reg) (a : Reg) (b : Reg) (z : BitVec 2)
  /-- STX: Bounded array store, faulting when the index reaches the paired bound (R163) -/
  | stx (d : Reg) (a : Reg) (b : Reg) (z : BitVec 2)
  /-- LDM: Load count consecutive doublewords into consecutive registers, base last (R164) -/
  | ldm (d : Reg) (a : Reg) (b : Reg)
  /-- STM: Store count consecutive registers into consecutive doublewords (R164) -/
  | stm (d : Reg) (a : Reg) (b : Reg)
  /-- LTAG: Read the memory tag of the line or granule holding an address (R165) -/
  | ltag (d : Reg) (a : Reg)
  /-- STAG: Set the memory tag of the line or granule holding an address (R165) -/
  | stag (a : Reg) (b : Reg)
  /-- CVA: Convert an address to absolute, relative, sorus or local form, giving all ones when impossible (R166) -/
  | cva (d : Reg) (a : Reg) (z : BitVec 2)
  /-- TSTA: Test scope membership, reachability, identity and sorus of the element an address names (R167) -/
  | tsta (d : Reg) (a : Reg) (b : Reg)
  /-- REGION_RD: Read a region register (R168) -/
  | regionRd (d : Reg) (b : Reg)
  /-- REGION_WR: Privileged write of a region register, applying from the next instruction (R168) -/
  | regionWr (a : Reg) (b : Reg)
  /-- RLD: Remote load that stalls until the target scratchpad answers (R170) -/
  | rld (d : Reg) (a : Reg) (z : BitVec 2)
  /-- RST: Posted remote store of one piece using one allowance unit (R171) -/
  | rst (d : Reg) (a : Reg) (b : Reg) (z : BitVec 2)
  /-- RCOPY: Posted pull of up to 4 KiB from any scratchpad into the issuer's own, with a completion message (R172) -/
  | rcopy (d : Reg) (a : Reg) (b : Reg)
  /-- AMO: Atomic read-modify-write of one aligned doubleword returning the old value (R189) -/
  | amo (d : Reg) (o : BitVec 3) (a : Reg) (b : Reg) (z : BitVec 2)
  /-- RAMO: Posted remote atomic with an optional notification message (R190) -/
  | ramo (d : Reg) (o : BitVec 3) (a : Reg) (b : Reg) (z : BitVec 2)
  /-- FENCE: Stall until posted writes to scope members are applied and order later messages after earlier ones (R192) -/
  | fence (b : Reg)
  /-- BAR: Release, record a barrier arrival at a scope, arm a barrier continuation and end the activation (R193) -/
  | bar (a : Reg) (b : Reg)
  /-- SCW: Privileged write of a programmable scope entry to every element of the context (R194) -/
  | scw (a : Reg)
  /-- SCR: Read one doubleword of a scope entry (R194) -/
  | scr (d : Reg) (a : Reg) (b : Reg)
  /-- LD_ACQ: Naturally aligned load followed by an acquire (R195) -/
  | ldAcq (d : Reg) (a : Reg) (z : BitVec 2)
  /-- ST_REL: Release followed by a naturally aligned store (R195) -/
  | stRel (d : Reg) (a : Reg) (z : BitVec 2)
  /-- CAS: Compare-and-swap of one doubleword returning the old value (R196) -/
  | cas (d : Reg) (a : Reg) (b : Reg) (z : BitVec 2)
  /-- RCAS: Posted remote compare-and-swap with an optional notification (R196) -/
  | rcas (d : Reg) (a : Reg) (b : Reg) (z : BitVec 2)
  /-- SEND: Send mb0-mb7 as a short message to a channel, using one allowance unit (R128) -/
  | send (d : Reg) (a : Reg)
  /-- SENDB: Send a bulk message with a payload of up to 4 KiB captured at issue (R129) -/
  | sendb (d : Reg) (a : Reg) (b : Reg)
  /-- SENDW: Send mb0-mb7 as an item to a work queue of a scope (R130) -/
  | sendw (d : Reg) (a : Reg)
  /-- SENDK: Key-routed send of vector lanes as bin items to scope members (R140) -/
  | sendk (d : Reg) (a : Reg) (b : Reg)
  /-- SENDH: Send mb0-mb7 as a 64-byte record to the context's host queue (R131) -/
  | sendh (d : Reg)
  /-- ALLOW: Return AVAIL and arm or disarm the allowance notice (R132) -/
  | allow (d : Reg) (a : Reg)
  /-- BIND: Bind a channel with entry, workspace, priority, floor share and receive region (R133) -/
  | bind (a : Reg)
  /-- UNBIND: Unbind a channel and empty a non-event continuation slot (R134) -/
  | unbind (a : Reg)
  /-- PRIO: Change a bound channel's priority and floor share from the next start (R134) -/
  | prio (a : Reg)
  /-- BINCFG: Configure, initialise or unconfigure a bin set (R142) -/
  | bincfg (a : Reg) (b : Reg)
  /-- BINSEAL: Seal a bin set and return the number of items applied (R143) -/
  | binseal (d : Reg) (a : Reg)
  /-- BINRD: Read the count and value of one bin (R143) -/
  | binrd (d : Reg) (a : Reg) (b : Reg)
  /-- EVSET: Send a request setting an event's value (R136) -/
  | evset (a : Reg) (b : Reg)
  /-- EVCLR: Send a request clearing an event's value (R136) -/
  | evclr (a : Reg)
  /-- EVADD: Send a request adding to an event's value (R136) -/
  | evadd (a : Reg) (b : Reg)
  /-- EVARM: Arm an event continuation and send an arm request without ending the activation (R138) -/
  | evarm (a : Reg) (b : Reg)
  /-- FADD: Vector floating add, rounded once (R218) -/
  | fadd (d : VReg) (k : BitVec 3) (z : BitVec 3) (a : VReg) (b : VReg)
  /-- FSUB: Vector floating subtract (R218) -/
  | fsub (d : VReg) (k : BitVec 3) (z : BitVec 3) (a : VReg) (b : VReg)
  /-- FMUL: Vector floating multiply (R218) -/
  | fmul (d : VReg) (k : BitVec 3) (z : BitVec 3) (a : VReg) (b : VReg)
  /-- FMIN: Vector floating minimum (R218) -/
  | fmin (d : VReg) (k : BitVec 3) (z : BitVec 3) (a : VReg) (b : VReg)
  /-- FMAX: Vector floating maximum (R218) -/
  | fmax (d : VReg) (k : BitVec 3) (z : BitVec 3) (a : VReg) (b : VReg)
  /-- FABS: Clear the sign bit of each lane (R218) -/
  | fabs (d : VReg) (k : BitVec 3) (z : BitVec 3) (a : VReg)
  /-- FNEG: Invert the sign bit of each lane (R218) -/
  | fneg (d : VReg) (k : BitVec 3) (z : BitVec 3) (a : VReg)
  /-- FCPS: Copy the sign of b's lanes onto a's lanes (R218) -/
  | fcps (d : VReg) (k : BitVec 3) (z : BitVec 3) (a : VReg) (b : VReg)
  /-- FCMP: Floating compare writing a mask register (R219) -/
  | fcmp (d : VReg) (k : BitVec 3) (z : BitVec 3) (a : VReg) (b : VReg) (c : BitVec 2)
  /-- FCLASS: Classify each lane into a one-hot class number (R220) -/
  | fclass (d : VReg) (k : BitVec 3) (z : BitVec 3) (a : VReg)
  /-- FMA: Fused multiply-add x*y+w, rounded once (R218) -/
  | fma (d : VReg) (k : BitVec 3) (z : BitVec 3) (a : VReg) (b : VReg) (c : VReg)
  /-- FMS: Fused multiply-subtract x*y-w (R218) -/
  | fms (d : VReg) (k : BitVec 3) (z : BitVec 3) (a : VReg) (b : VReg) (c : VReg)
  /-- FNMA: Fused negated multiply-add w-x*y (R218) -/
  | fnma (d : VReg) (k : BitVec 3) (z : BitVec 3) (a : VReg) (b : VReg) (c : VReg)
  /-- VADD: Vector integer add modulo the lane width (R221) -/
  | vadd (d : VReg) (k : BitVec 3) (z : BitVec 3) (a : VReg) (b : VReg)
  /-- VSUB: Vector integer subtract (R221) -/
  | vsub (d : VReg) (k : BitVec 3) (z : BitVec 3) (a : VReg) (b : VReg)
  /-- VMUL: Vector integer multiply, low bits (R221) -/
  | vmul (d : VReg) (k : BitVec 3) (z : BitVec 3) (a : VReg) (b : VReg)
  /-- VAND: Vector bitwise AND (R221) -/
  | vand (d : VReg) (k : BitVec 3) (z : BitVec 3) (a : VReg) (b : VReg)
  /-- VOR: Vector bitwise OR (R221) -/
  | vor (d : VReg) (k : BitVec 3) (z : BitVec 3) (a : VReg) (b : VReg)
  /-- VXOR: Vector bitwise XOR (R221) -/
  | vxor (d : VReg) (k : BitVec 3) (z : BitVec 3) (a : VReg) (b : VReg)
  /-- VSHL: Vector shift left (R221) -/
  | vshl (d : VReg) (k : BitVec 3) (z : BitVec 3) (a : VReg) (b : VReg)
  /-- VSHR: Vector logical shift right (R221) -/
  | vshr (d : VReg) (k : BitVec 3) (z : BitVec 3) (a : VReg) (b : VReg)
  /-- VSRA: Vector arithmetic shift right (R221) -/
  | vsra (d : VReg) (k : BitVec 3) (z : BitVec 3) (a : VReg) (b : VReg)
  /-- VSEL: Vector select by the old destination lane (R221) -/
  | vsel (d : VReg) (k : BitVec 3) (z : BitVec 3) (a : VReg) (b : VReg)
  /-- VMIN_I: Vector signed minimum (R221) -/
  | vminI (d : VReg) (k : BitVec 3) (z : BitVec 3) (a : VReg) (b : VReg)
  /-- VMIN_N: Vector natural minimum (R221) -/
  | vminN (d : VReg) (k : BitVec 3) (z : BitVec 3) (a : VReg) (b : VReg)
  /-- VMAX_I: Vector signed maximum (R221) -/
  | vmaxI (d : VReg) (k : BitVec 3) (z : BitVec 3) (a : VReg) (b : VReg)
  /-- VMAX_N: Vector natural maximum (R221) -/
  | vmaxN (d : VReg) (k : BitVec 3) (z : BitVec 3) (a : VReg) (b : VReg)
  /-- VCMP: Vector integer compare writing a mask register (R221) -/
  | vcmp (d : VReg) (k : BitVec 3) (z : BitVec 3) (a : VReg) (b : VReg) (c : BitVec 3)
  /-- VMAD: Vector integer multiply-add, low bits (R221) -/
  | vmad (d : VReg) (k : BitVec 3) (z : BitVec 3) (a : VReg) (b : VReg) (c : VReg)
  /-- VBCAST: Broadcast a workspace register into every active lane (R222) -/
  | vbcast (d : VReg) (k : BitVec 3) (z : BitVec 3) (a : VReg)
  /-- VPERM: Permute lanes of a by indices in b (R222) -/
  | vperm (d : VReg) (k : BitVec 3) (z : BitVec 3) (a : VReg) (b : VReg)
  /-- VMAXI: Maximum and its lowest lane index, floating or signed integer order (R223) -/
  | vmaxi (d : VReg) (k : BitVec 3) (z : BitVec 3) (a : VReg)
  /-- VMAXI_N: Maximum and its lowest lane index, natural integer order (R223) -/
  | vmaxiN (d : VReg) (k : BitVec 3) (z : BitVec 3) (a : VReg)
  /-- KAND: AND of two mask registers (R222) -/
  | kand (d : VReg) (a : VReg) (b : VReg)
  /-- KOR: OR of two mask registers (R222) -/
  | kor (d : VReg) (a : VReg) (b : VReg)
  /-- KNOT: Complement of a mask register (R222) -/
  | knot (d : VReg) (a : VReg)
  /-- KMOV: Move between mask registers and workspace registers (R222) -/
  | kmov (d : VReg) (a : VReg) (b : VReg)
  /-- VRED: Reduce active lanes by the fixed pairwise tree into lane 0 (R224) -/
  | vred (d : VReg) (k : BitVec 3) (z : BitVec 3) (a : VReg) (o : BitVec 4)
  /-- VSCAN: Left-to-right inclusive scan of the lanes (R224) -/
  | vscan (d : VReg) (k : BitVec 3) (z : BitVec 3) (a : VReg) (o : BitVec 4)
  /-- FCVT: Convert lanes between element types (R225) -/
  | fcvt (d : VReg) (k : BitVec 3) (z : BitVec 3) (a : VReg) (b : VReg)
  /-- FRND: Round lanes to integral values under a chosen mode (R226) -/
  | frnd (d : VReg) (k : BitVec 3) (z : BitVec 3) (a : VReg) (b : VReg)
  /-- FSEED: Reciprocal or reciprocal-square-root seed from fixed tables (R213) -/
  | fseed (d : VReg) (k : BitVec 3) (z : BitVec 3) (a : VReg) (b : VReg)
  /-- FRED: Range-reduction helper operations (R214) -/
  | fred (d : VReg) (k : BitVec 3) (z : BitVec 3) (a : VReg) (b : VReg)
  /-- FSCALE: Scale lanes by a power of two (R226) -/
  | fscale (d : VReg) (k : BitVec 3) (z : BitVec 3) (a : VReg) (b : VReg)
  /-- FEXPO: Exponent of each lane as a value (R226) -/
  | fexpo (d : VReg) (k : BitVec 3) (z : BitVec 3) (a : VReg)
  /-- FMANT: Mantissa of each lane in [1, 2) (R226) -/
  | fmant (d : VReg) (k : BitVec 3) (z : BitVec 3) (a : VReg)
  /-- VLD: Vector load through a window, decoding elements into active lanes (R227) -/
  | vld (d : VReg) (k : BitVec 3) (a : Reg) (i : BitVec 8)
  /-- VST: Vector store through a window, encoding active lanes into elements (R227) -/
  | vst (d : VReg) (k : BitVec 3) (a : Reg) (i : BitVec 8)
  /-- MCFG: Configure an accumulator tile's shape, zero it and clear KCNT (R280) -/
  | mcfg (a : Reg) (t : BitVec 2)
  /-- MCFG_GANG: Write the gang register (R280) -/
  | mcfgGang (a : Reg)
  /-- MZERO: Zero a configured tile and its KCNT (R281) -/
  | mzero (t : BitVec 2)
  /-- OCLAIM: Claim a run of free operand slots (R282) -/
  | oclaim (d : BitVec 5) (a : Reg)
  /-- ORELEASE: Release owned operand slots once no started command uses them (R282) -/
  | orelease (a : Reg)
  /-- OFILL: Push a fill of operand slots from scratchpad or the weight store (R283) -/
  | ofill (a : Reg) (b : Reg)
  /-- MRDR: Read 16 elements of a tile row into a vector register (R285) -/
  | mrdr (d : BitVec 5) (a : Reg) (t : BitVec 2)
  /-- MRDC: Read 16 elements of a tile column into a vector register (R285) -/
  | mrdc (d : BitVec 5) (a : Reg) (t : BitVec 2)
  /-- MWRR: Write 16 elements of a tile row from a vector register (R285) -/
  | mwrr (d : BitVec 5) (a : Reg) (t : BitVec 2)
  /-- MWRC: Write 16 elements of a tile column from a vector register (R285) -/
  | mwrc (d : BitVec 5) (a : Reg) (t : BitVec 2)
  /-- MSTAT: Return the matrix queue and tile status word (R286) -/
  | mstat (d : BitVec 5)
  /-- MERR: Read an error-log entry and optionally clear the log (R287) -/
  | merr (d : BitVec 5) (a : Reg)
  /-- MLEN_HOLD: Arm a hold so the next MMA or MMAG enters the queue held (R288) -/
  | mlenHold
  /-- MLEN_SET: Patch the held command's ROWS from a sealed bin count and release it (R288) -/
  | mlenSet (a : Reg)
  /-- MFLUSH: End every unstarted command of the queue with STATUS 6 (R289) -/
  | mflush
  /-- MMA: Push a tile product command of the issuer (R284) -/
  | mma (t : BitVec 2) (k : BitVec 2) (q : BitVec 4) (o : BitVec 7) (p : BitVec 7)
  /-- MMAG: Push a ganged product with one share per gang member (R274) -/
  | mmag (t : BitVec 2) (k : BitVec 2) (q : BitVec 4) (o : BitVec 7) (p : BitVec 7)
  /-- CDEF: Define a cell from a cell record (R254) -/
  | cdef (d : Reg) (a : Reg)
  /-- CBIND: Bind an input cell to a formula and precedents, applied or queued (R256) -/
  | cbind (d : Reg) (a : Reg) (b : Reg)
  /-- CREBIND: Rebind a defined cell of any kind, applied or queued (R256) -/
  | crebind (d : Reg) (a : Reg) (b : Reg)
  /-- CDROP: Drop a cell, applied or queued (R255) -/
  | cdrop (d : Reg) (a : Reg) (b : Reg)
  /-- CRD: Request a read of up to eight cells from one committed generation (R257) -/
  | crd (d : Reg) (a : Reg) (b : Reg)
  /-- CWR: Capture bytes and send a write to an input cell (R258) -/
  | cwr (d : Reg) (a : Reg) (b : Reg)
  /-- CDONE: Report the end of an evaluation with a status, releasing prior stores (R259) -/
  | cdone (a : Reg) (b : Reg)
  /-- CWAVE: Request a wave or abandon the wave in flight (R260) -/
  | cwave (a : Reg)
  /-- CWAIT: Arm a continuation that fires when a sheet reaches a generation (R262) -/
  | cwait (a : Reg) (b : Reg)
  /-- CRUN: Start a wave program with a budget (R261) -/
  | crun (a : Reg) (b : Reg)
  /-- CSTAT: Return the state of a cell or of a sheet (R263) -/
  | cstat (d : Reg) (a : Reg) (b : Reg)
  /-- SOPEN: Open a stream from a template and request its opening wave (R333) -/
  | sopen (d : Reg) (a : Reg)
  /-- SCLOSE: Close an idle or refeeding stream (R334) -/
  | sclose (d : Reg) (a : Reg)
  /-- SGEN: Open a step and return position g and the sampling mode (R335) -/
  | sgen (d : Reg) (a : Reg)
  /-- SPOST: Present a step's tokens and request its wave, or discard it (R336) -/
  | spost (d : Reg) (a : Reg) (b : Reg)
  /-- STRUNC: Truncate an idle stream to a position (R337) -/
  | strunc (d : Reg) (a : Reg) (b : Reg)
  /-- SCKPT: Copy STATE into the next checkpoint cell as a pending write (R339) -/
  | sckpt (d : Reg) (a : Reg)
  /-- SREFEED: Report a refeed chunk and request its wave (R338) -/
  | srefeed (d : Reg) (a : Reg) (b : Reg)
  /-- SMASK: Arm a grammar mask for the next SGEN (R340) -/
  | smask (d : Reg) (a : Reg) (b : Reg)
  /-- SFRAME: Queue an input frame, applying it at once when the stream is idle (R341) -/
  | sframe (d : Reg) (a : Reg) (b : Reg)
  /-- SSTAT: Return a stream status word, word 4 also clearing OVF (R342) -/
  | sstat (d : Reg) (a : Reg) (b : Reg)
  /-- SFLOOR: Raise the stream's floor cursor (R343) -/
  | sfloor (d : Reg) (a : Reg) (b : Reg)
  /-- COMPOSE: Request composition of a frond and end the issuing activation on success (R362) -/
  | compose (d : Reg) (a : Reg) (b : Reg)
  /-- RELEASE: End a frond, writing registers back to the leader and restoring members (R363) -/
  | release (d : Reg) (a : Reg)
  /-- FRSTAT: Report the frond state of the core an address names (R364) -/
  | frstat (d : Reg) (a : Reg)
  /-- MCLD: Block transfer from device or host memory into staging, granule by granule (R299) -/
  | mcld (a : Reg) (b : Reg)
  /-- MCST: Block transfer from staging to device or host memory (R299) -/
  | mcst (a : Reg) (b : Reg)
  /-- MCPUSH: Push up to 4 KiB of staging into another scratchpad with a token (R302) -/
  | mcpush (d : Reg) (a : Reg) (b : Reg)
  /-- TLBINV: Drop translations of a range from every memory core of the context (R304) -/
  | tlbinv (a : Reg) (b : Reg)
  /-- PGREL_Q: Offer a freed frame to the quarantine queue (R305) -/
  | pgrelQ (d : Reg) (a : Reg) (b : Reg)
  /-- PGREL_R: Take the head quarantine entry once the quiescence stamp passes it (R305) -/
  | pgrelR (d : Reg)
  /-- QCNT: Read the quiescence stamp (R305) -/
  | qcnt (d : Reg)
  /-- WSWR: Write the weight store from staging unless a wave of the named sheet is in flight (R307) -/
  | wswr (d : Reg) (a : Reg) (b : Reg)
  /-- WSREF: Return the start of a bank's current or next refresh window (R308) -/
  | wsref (d : Reg) (a : Reg)
  /-- SRD: Read a special register (R115) -/
  | srd (d : Reg) (i : BitVec 8)
  /-- SWR: Write a special register, checking reserved bits then read-only (R115) -/
  | swr (a : Reg) (i : BitVec 8)
  /-- TRAP: Fault with code 0x71 to call the supervisor, resuming after the TRAP (R390) -/
  | trap (a : Reg) (b : Reg)
  /-- DBGRD: Read a doubleword of a target's debug window (R391) -/
  | dbgrd (d : Reg) (a : Reg) (b : Reg)
  /-- DBGWR: Write a doubleword of a target's debug window (R391) -/
  | dbgwr (d : Reg) (a : Reg) (b : Reg)
  /-- THAW: Resume a frozen or stopped element, optionally for one step (R392) -/
  | thaw (a : Reg) (b : Reg)
  /-- RETIRE: Drop a frozen or stopped activation without write-back (R392) -/
  | retire (a : Reg) (b : Reg)
  /-- TIME: Read the package clock (R393) -/
  | time (d : Reg)
  /-- TIME_AR: Stall as FENCE 3, then read the clock with acquire-release ordering (R393) -/
  | timeAr (d : Reg)
  /-- SWSCHED: Schedule or cancel the context's own yield at a timestamp (R394) -/
  | swsched (d : Reg) (a : Reg) (b : Reg)
  /-- FENCEC: Fence an element and raise report 0x75 (R395) -/
  | fencec (d : Reg) (a : Reg)
  /-- REMAP: Move a fenced core's sorus to a spare sorus and restart it (R374) -/
  | remap (d : Reg) (a : Reg)
  /-- DGRD: Read DIGEST, COMBO or the last activation's digest (R396) -/
  | dgrd (d : Reg) (b : Reg)
  /-- DGCHK: Compare COMBO with a value and return the result (R396) -/
  | dgchk (d : Reg) (a : Reg)
  /-- DGCHK_FLT: Compare COMBO with a value, faulting with 0x72 on a difference (R396) -/
  | dgchkFlt (d : Reg) (a : Reg)
  /-- TRON: Open a trace session on a buffer (R397) -/
  | tron (d : Reg) (a : Reg) (b : Reg)
  /-- TROFF: Close the trace session and return the bytes written (R397) -/
  | troff (d : Reg)
  /-- BKPT: Set or clear a breakpoint register, or resume a halted sheet (R398) -/
  | bkpt (d : Reg) (a : Reg)
  /-- HALT: Request a debug stop of a target after its running activation (R399) -/
  | halt (d : Reg) (a : Reg)
  /-- MOV_C: Compact register move (R38) -/
  | movC (d : BitVec 5) (a : BitVec 5)
  /-- ADD_C: Compact add d := d + a (R38) -/
  | addC (d : BitVec 5) (a : BitVec 5)
  /-- SUB_C: Compact subtract d := d - a (R38) -/
  | subC (d : BitVec 5) (a : BitVec 5)
  /-- AND_C: Compact AND (R38) -/
  | andC (d : BitVec 5) (a : BitVec 5)
  /-- OR_C: Compact OR (R38) -/
  | orC (d : BitVec 5) (a : BitVec 5)
  /-- XOR_C: Compact XOR (R38) -/
  | xorC (d : BitVec 5) (a : BitVec 5)
  /-- ADDI_C: Compact add of a 6-bit signed immediate (R38) -/
  | addiC (d : BitVec 5) (i : BitVec 6)
  /-- LI_C: Compact load of a 6-bit signed immediate (R38) -/
  | liC (d : BitVec 5) (i : BitVec 6)
  /-- SHL_C: Compact shift left by an immediate (R38) -/
  | shlC (d : BitVec 5) (i : BitVec 6)
  /-- SHR_C: Compact logical shift right by an immediate (R38) -/
  | shrC (d : BitVec 5) (i : BitVec 6)
  /-- SRA_C: Compact arithmetic shift right by an immediate (R38) -/
  | sraC (d : BitVec 5) (i : BitVec 6)
  /-- LD_D_C: Compact doubleword load with a base in w0-w7 (R38) -/
  | ldDC (d : BitVec 5) (a : BitVec 3) (i : BitVec 3)
  /-- ST_D_C: Compact doubleword store with a base in w0-w7 (R38) -/
  | stDC (d : BitVec 5) (a : BitVec 3) (i : BitVec 3)
  /-- BR_C: Compact PC-relative branch (R38) -/
  | brC (i : BitVec 11)
  /-- BRC_NZ_C: Compact branch when a register is non-zero (R38) -/
  | brcNzC (a : BitVec 5) (i : BitVec 6)
  /-- BRC_Z_C: Compact branch when a register is zero (R38) -/
  | brcZC (a : BitVec 5) (i : BitVec 6)
  /-- NOP_C: Compact no operation (R38) -/
  | nopC
  /-- RET_C: Compact return (R38) -/
  | retC
  /-- ENDT_C: Compact end of activation (R38) -/
  | endtC
  /-- PACKAGE_RESET: Package reset runs ROM check, power-on test, remap, zeroing and enables the host mailbox (R422) -/
  | packageReset (sigOk : Bool) (counter : Nat)
  /-- PACKAGE_POWER_LIMIT: Power control gates idle soruses and delays issue as package power nears 1.6 kW (R422) -/
  | packagePowerLimit
  /-- TIMING_REPLAY: A shadow latch detects a timing error and the instruction is replayed, counting EVC0 (R23) -/
  | timingReplay (e : EId)
  /-- CREATE: Mailbox command creating a context with its partition, root, allotment, slice and key (R405) -/
  | create (r : CreateReq)
  /-- DESTROY: Mailbox command resetting a context, zeroing its memories and freeing its resources (R405) -/
  | destroy (ctx : Nat)
  /-- SCHED: Mailbox command setting the scheduler's share and priority for a context (R405) -/
  | sched (ctx : Nat) (share : Nat) (prio : BitVec 7)
  /-- IDENT: Mailbox command returning the package identity (R405) -/
  | ident
  /-- DOORBELL: Write of the record count posting records for consumption, or refusing a bad value (R406) -/
  | doorbell (ctx : Nat) (v : Word)
  /-- HQCTL: Host-queue control write setting LOG2N and EN, storing W := 0 on enable (R407) -/
  | hqctl (ctx : Nat) (v : Word)
  /-- CQCTL: Completion-queue control write setting LOG2N and EN, storing W := 0 on enable (R407) -/
  | cqctl (ctx : Nat) (v : Word)
  /-- LAUNCH_WINDOW_WRITE: Write to a record slot, HQBASE or CQBASE, dropped when its rules are broken (R406) -/
  | launchWindowWrite (ctx : Nat) (off : Nat) (v : Word)
  /-- LAUNCH: LAUNCH record: copy the image into HBM and load it by the loading sequence (R409) -/
  | launch (ctx : Nat)
  /-- LOAD_CHUNK: A load port writes a received chunk into scratchpad and forwards it to children (R81) -/
  | loadChunk (ctx : Nat) (e : EId)
  /-- LOAD_COMPLETE: After END and all children complete, an element writes regions, binds channels and reports complete (R81) -/
  | loadComplete (ctx : Nat) (e : EId)
  /-- POST_LAUNCH: When every root has reported complete, the launch is posted and argument messages sent to q0 (R80) -/
  | postLaunch (ctx : Nat)
  /-- LAUNCH_COMPLETE: When the context is quiescent, a completion with the launch digest is written (R410) -/
  | launchComplete (ctx : Nat)
  /-- WORK: WORK record delivering a message to a channel or a work queue (R411) -/
  | work (ctx : Nat)
  /-- FRAME: FRAME record posting an input frame to a stream as SFRAME does (R412) -/
  | frame (ctx : Nat)
  /-- RESET: RESET record stopping and clearing the partition, then writing a reset-done completion (R415) -/
  | reset (ctx : Nat)
  /-- FUNCTION_RESET: A reset issued by the physical function, acting as a RESET record (R415) -/
  | functionReset (ctx : Nat)
  /-- XFER: XFER record moving bytes to a peer package of the group (R418) -/
  | xfer (ctx : Nat)
  /-- XFER_COMPLETE: When the last granule is performed, the peer channel receives its message and the source a completion (R418) -/
  | xferComplete (x : XferEnd)
  /-- SCALE_OUT_FLIT: A scale-out link flit is received, checked by CRC, and replayed or the port taken down (R417) -/
  | scaleOutFlit (port : BitVec 4) (flit : List Byte)
  /-- COMPLETION_PUBLISH: Held completions are published to the completion queue as room returns (R407) -/
  | completionPublish (ctx : Nat)
  /-- ACTIVATION_START: An idle core selects a ready channel and starts its activation with the binding's state (R86) -/
  | activationStart (e : EId)
  /-- CONTINUATION_TIME: A TIME continuation becomes ready when TIME reaches its value (R98) -/
  | continuationTime (e : EId) (q : BitVec 4)
  /-- WATCHDOG: WDCNT reaches WDLIM and the core freezes with code 0x70 (R96) -/
  | watchdog (e : EId)
  /-- MESSAGE_ACCEPT: A short class-C message is accepted into a channel's holding queue (R120) -/
  | messageAccept (k : Nat)
  /-- BULK_MESSAGE_ACCEPT: A bulk message payload is written into the receive region and its header queued (R122) -/
  | bulkMessageAccept (k : Nat)
  /-- UNDELIVERABLE_NOTICE: An undeliverable notice arrives, counts in UNDEL and enters the notice buffer or sets OVF (R125) -/
  | undeliverableNotice (k : Nat)
  /-- NOTICE_DELIVER: A notice in the notice buffer is delivered into the channel's holding queue as room allows (R125) -/
  | noticeDeliver (e : EId)
  /-- ALLOWANCE_RETURN: A returned allowance unit raises AVAIL (R123) -/
  | allowanceReturn (k : Nat)
  /-- WORK_ITEM_ACCEPT: A work-queue unit accepts a SENDW item into its queue (R130) -/
  | workItemAccept (k : Nat)
  /-- WORK_ITEM_DELIVER: A queued work item is delivered to the first idle member of the scope (R130) -/
  | workItemDeliver (ctx : Nat) (die : Nat)
  /-- HOST_RECORD_WRITE: A SENDH record is written into the host queue and W published (R131) -/
  | hostRecordWrite (k : Nat)
  /-- EVENT_REQUEST: The event table applies a set, clear or add request and tests the waiters (R136) -/
  | eventRequest (k : Nat)
  /-- EVENT_ARM: The event table adds a waiter and tests it at once (R138) -/
  | eventArm (k : Nat)
  /-- BIN_ITEMS: The receive-and-accumulate unit applies a class-K item message to a bin set or refuses it (R141) -/
  | binItems (k : Nat)
  /-- REMOTE_READ: A target serves a remote read request in arrival order, or refuses when fenced (R170) -/
  | remoteRead (e : EId)
  /-- REMOTE_STORE: A posted remote store is applied at the target or refused with a notice (R171) -/
  | remoteStore (k : Nat)
  /-- REMOTE_ATOMIC: A posted RAMO is applied at the target and may send a notification (R190) -/
  | remoteAtomic (k : Nat)
  /-- REMOTE_CAS: A posted RCAS is applied at the target and may send a notification (R196) -/
  | remoteCas (k : Nat)
  /-- RCOPY_COMPLETE: After the copied bytes are written, the completion is sent to the issuer's channel (R172) -/
  | rcopyComplete (k : Nat)
  /-- BARRIER_ARRIVAL: The barrier state counts an arrival and completes the episode when every member has arrived (R193) -/
  | barrierArrival (k : Nat)
  /-- WAVE_START: A wave starts, taking pending writes and fixing its set of stale cells (R236) -/
  | waveStart (ctx : Nat) (sheet : Nat)
  /-- EVAL_DISPATCH: A ready cell of the set is dispatched and its evaluation message sent (R237) -/
  | evalDispatch (ctx : Nat) (sheet : Nat)
  /-- CDONE_REPORT: The engine receives a CDONE and makes the cell fresh, fails it, discards it or reports 0x44 (R259) -/
  | cdoneReport (k : Nat)
  /-- WAVE_COMMIT: When every cell of the set is fresh, the wave commits in one step and raises G (R241) -/
  | waveCommit (ctx : Nat) (sheet : Nat)
  /-- WAVE_ABANDON: A wave is abandoned after a failure or by CWAVE OP 1, leaving G unchanged (R242) -/
  | waveAbandon (ctx : Nat) (sheet : Nat)
  /-- CRD_SERVE: The engine serves a cell read from one generation and sends its completion (R257) -/
  | crdServe (k : Nat)
  /-- CELL_WRITE_APPLY: The engine applies or holds a CWR to an input cell's next buffer (R244) -/
  | cellWriteApply (k : Nat)
  /-- WAVE_NODE: A running wave program executes its next node (R248) -/
  | waveNode (ctx : Nat) (sheet : Nat)
  /-- MATRIX_COMMAND_START: A command at the head of a matrix queue starts, checking its slots (R269) -/
  | matrixCommandStart (e : EId) (seq : Nat)
  /-- MATRIX_STEP: The matrix unit performs one k-block step of a command or share (R270) -/
  | matrixStep (e : EId) (seq : Nat) (share : Nat)
  /-- MATRIX_COMMAND_END: A fill or product ends and its completion is sent to the issuer or gang members (R271) -/
  | matrixCommandEnd (e : EId) (seq : Nat)
  /-- SLOT_RELEASE_EFFECT: A released slot becomes FREE once no started command reads or fills it (R282) -/
  | slotReleaseEffect (sorus : Nat) (slot : Nat)
  /-- TILE_PUSH_ACCEPT: A destination accepts a pushed tile, writes it and queues its token (R303) -/
  | tilePushAccept (k : Nat)
  /-- HOST_COMPLETION_TIMEOUT: A host access completion times out, faulting with code 0x1C (R295) -/
  | hostCompletionTimeout (e : EId)
  /-- REFRESH_WINDOW: A weight-store bank enters its 256-clock refresh window on the fixed schedule (R308) -/
  | refreshWindow (die : Nat) (bank : Nat)
  /-- FRAME_APPLY: A queued input frame is applied at a boundary, moving p, refusing or truncating (R316) -/
  | frameApply (sn : Nat)
  /-- MASK_RESOLUTION_APPLY: A queued mask violation releases allowed tokens and truncates at the first violation (R323) -/
  | maskResolutionApply (sn : Nat)
  /-- FROND_COMPOSED: When every member has joined, the frond is composed and its first activation starts (R354) -/
  | frondComposed (leader : EId)
  /-- GANG_SWITCH: At timestamp T the partition stops at instruction boundaries and its flits park (R375) -/
  | gangSwitch (ctx : Nat)
  /-- SWITCH_SAVE: When SENT minus RCVD sums to zero, the context's state is saved to its save area (R377) -/
  | switchSave (ctx : Nat)
  /-- SWITCH_RESUME: Resume writes back records, re-injects parked flits and restarts elements together (R379) -/
  | switchResume (ctx : Nat)
  /-- DEVICE_FENCE: The device fences a core whose control logic errs and sends report 0x75 (R369) -/
  | deviceFence (e : EId)
  /-- DEBUG_STOP: A requested stop takes effect after the running activation ends, raising 0x77 (R399) -/
  | debugStop (e : EId)
  /-- ENGINE_REPORT_DELIVER: Queued or spilled engine reports are delivered to the supervisor as room returns (R368) -/
  | engineReportDeliver (ctx : Nat)
  /-- UNCORRECTABLE_DATA_ERROR: A scratchpad doubleword, operand slot, tile element or HBM granule comes to hold an uncorrectable ECC error (R157) -/
  | uncorrectableDataError (site : EccSite)
  /-- TRACE_COLLECTOR_WRITE: The trace collector writes the records it holds to the session buffer in arrival order and stores the buffer's W, emitting a KIND 7 record once room returns (R386) -/
  | traceCollectorWrite (die : Nat)
  deriving DecidableEq, Repr, Inhabited

end Sys2Proof
end

