-- ==== Sys2Proof/WellFormed.lean ====
section
/-!
DEFINITION. Which slot values an instruction may carry: the register numbers of R33 (reason 0x04 of R46), and the
ranges the entries state (R31, R34, R35, and each chapter's Fate rows; reason 0x05).
-/
namespace Sys2Proof

/-- The element named by a coordinate word is a core or a memory core of the mesh (R9). -/
def isElem (e : EId) : Bool := decide (e / 8192 < 2) && decide (e / 64 % 128 < 68) && decide (e % 64 < 32)

/-- A register slot that is read: 48–62 are reserved (R33). -/
def rdOk (r : Reg) : Bool := decide (r.toNat < 48) || decide (r.toNat = 63)

/-- A register slot that is written: in0–in7 and 48–62 are refused (R33). -/
def wrOk (r : Reg) : Bool := decide (r.toNat < 40) || decide (r.toNat = 63)

/-- The special-register numbers of R100. -/
def sprOk (i : BitVec 8) : Bool :=
  decide (i.toNat ≤ 11) || (decide (16 ≤ i.toNat) && decide (i.toNat ≤ 31))

/-- The operations of VRED and VSCAN (R224): 0–2 for every type, 3–7 for integer types only. -/
def redOk (z : BitVec 3) (o : BitVec 4) : Bool :=
  decide (o.toNat ≤ 2) || (decide (4 ≤ z.toNat) && decide (o.toNat ≤ 7))

/-- Every register slot names a register its entry may use (R33). -/
def regsOk : Instr → Bool
  | .add d a b => rdOk a && rdOk b && wrOk d
  | .sub d a b => rdOk a && rdOk b && wrOk d
  | .mul d a b => rdOk a && rdOk b && wrOk d
  | .mulh d a b _ => rdOk a && rdOk b && wrOk d
  | .div d a b _ => rdOk a && rdOk b && wrOk d
  | .rem d a b _ => rdOk a && rdOk b && wrOk d
  | .and d a b => rdOk a && rdOk b && wrOk d
  | .or d a b => rdOk a && rdOk b && wrOk d
  | .xor d a b => rdOk a && rdOk b && wrOk d
  | .shl d a b => rdOk a && rdOk b && wrOk d
  | .shr d a b => rdOk a && rdOk b && wrOk d
  | .sra d a b => rdOk a && rdOk b && wrOk d
  | .rotl d a b => rdOk a && rdOk b && wrOk d
  | .min d a b _ => rdOk a && rdOk b && wrOk d
  | .max d a b _ => rdOk a && rdOk b && wrOk d
  | .sel d a b => rdOk a && rdOk b && wrOk d
  | .addi d a _ => rdOk a && wrOk d
  | .andi d a _ => rdOk a && wrOk d
  | .ori d a _ => rdOk a && wrOk d
  | .xori d a _ => rdOk a && wrOk d
  | .shlImm d a _ => rdOk a && wrOk d
  | .shrImm d a _ => rdOk a && wrOk d
  | .sraImm d a _ => rdOk a && wrOk d
  | .rotlImm d a _ => rdOk a && wrOk d
  | .seqImm d a _ => rdOk a && wrOk d
  | .sneImm d a _ => rdOk a && wrOk d
  | .sltImm d a _ => rdOk a && wrOk d
  | .sleImm d a _ => rdOk a && wrOk d
  | .not d a => rdOk a && wrOk d
  | .clz d a => rdOk a && wrOk d
  | .ctz d a => rdOk a && wrOk d
  | .popc d a => rdOk a && wrOk d
  | .seq d a b => rdOk a && rdOk b && wrOk d
  | .sne d a b => rdOk a && rdOk b && wrOk d
  | .slt d a b _ => rdOk a && rdOk b && wrOk d
  | .sle d a b _ => rdOk a && rdOk b && wrOk d
  | .li d _ => wrOk d
  | .lih d _ => wrOk d
  | .br _ => true
  | .call _ => true
  | .brc a _ _ => rdOk a
  | .jmp d a => rdOk a && wrOk d
  | .ret => true
  | .endt => true
  | .yield a b => rdOk a && rdOk b
  | .mka d a b _ => rdOk a && rdOk b && wrOk d
  | .nop => true
  | .ld d _ a _ => rdOk a && wrOk d
  | .ldSigned d _ a _ => rdOk a && wrOk d
  | .st d _ a _ => rdOk d && rdOk a
  | .ldx d a b _ => rdOk a && rdOk b && wrOk d
  | .stx d a b _ => rdOk d && rdOk a && rdOk b
  | .ldm d a _ => rdOk a && wrOk d
  | .stm d a _ => rdOk d && rdOk a
  | .ltag d a => rdOk a && wrOk d
  | .stag a b => rdOk a && rdOk b
  | .cva d a _ => rdOk a && wrOk d
  | .tsta d a _ => rdOk a && wrOk d
  | .regionRd d _ => wrOk d
  | .regionWr a _ => rdOk a
  | .rld d a _ => rdOk a && wrOk d
  | .rst d a b _ => rdOk a && rdOk b && wrOk d
  | .rcopy d a b => rdOk a && rdOk b && wrOk d
  | .amo d _ a b _ => rdOk a && rdOk b && wrOk d
  | .ramo d _ a b _ => rdOk a && rdOk b && wrOk d
  | .fence _ => true
  | .bar a _ => rdOk a
  | .scw a => rdOk a
  | .scr d a b => rdOk a && rdOk b && wrOk d
  | .ldAcq d a _ => rdOk a && wrOk d
  | .stRel d a _ => rdOk d && rdOk a
  | .cas d a b _ => rdOk a && rdOk b && wrOk d
  | .rcas d a b _ => rdOk a && rdOk b && wrOk d
  | .send d a => rdOk a && wrOk d
  | .sendb d a b => rdOk a && rdOk b && wrOk d
  | .sendw d a => rdOk a && wrOk d
  | .sendk d _ _ => wrOk d
  | .sendh d => wrOk d
  | .allow d a => rdOk a && wrOk d
  | .bind a => rdOk a
  | .unbind a => rdOk a
  | .prio a => rdOk a
  | .bincfg a b => rdOk a && rdOk b
  | .binseal d a => rdOk a && wrOk d
  | .binrd d a b => rdOk a && rdOk b && wrOk d
  | .evset a b => rdOk a && rdOk b
  | .evclr a => rdOk a
  | .evadd a b => rdOk a && rdOk b
  | .evarm a b => rdOk a && rdOk b
  | .fadd _ _ _ _ _ => true
  | .fsub _ _ _ _ _ => true
  | .fmul _ _ _ _ _ => true
  | .fmin _ _ _ _ _ => true
  | .fmax _ _ _ _ _ => true
  | .fabs _ _ _ _ => true
  | .fneg _ _ _ _ => true
  | .fcps _ _ _ _ _ => true
  | .fcmp _ _ _ _ _ _ => true
  | .fclass _ _ _ _ => true
  | .fma _ _ _ _ _ _ => true
  | .fms _ _ _ _ _ _ => true
  | .fnma _ _ _ _ _ _ => true
  | .vadd _ _ _ _ _ => true
  | .vsub _ _ _ _ _ => true
  | .vmul _ _ _ _ _ => true
  | .vand _ _ _ _ _ => true
  | .vor _ _ _ _ _ => true
  | .vxor _ _ _ _ _ => true
  | .vshl _ _ _ _ _ => true
  | .vshr _ _ _ _ _ => true
  | .vsra _ _ _ _ _ => true
  | .vsel _ _ _ _ _ => true
  | .vminI _ _ _ _ _ => true
  | .vminN _ _ _ _ _ => true
  | .vmaxI _ _ _ _ _ => true
  | .vmaxN _ _ _ _ _ => true
  | .vcmp _ _ _ _ _ _ => true
  | .vmad _ _ _ _ _ _ => true
  | .vbcast _ _ _ _ => true
  | .vperm _ _ _ _ _ => true
  | .vmaxi _ _ _ _ => true
  | .vmaxiN _ _ _ _ => true
  | .kand _ _ _ => true
  | .kor _ _ _ => true
  | .knot _ _ => true
  | .kmov _ _ _ => true
  | .vred _ _ _ _ _ => true
  | .vscan _ _ _ _ _ => true
  | .fcvt _ _ _ _ _ => true
  | .frnd _ _ _ _ _ => true
  | .fseed _ _ _ _ _ => true
  | .fred _ _ _ _ _ => true
  | .fscale _ _ _ _ _ => true
  | .fexpo _ _ _ _ => true
  | .fmant _ _ _ _ => true
  | .vld _ _ a _ => rdOk a
  | .vst _ _ a _ => rdOk a
  | .mcfg a _ => rdOk a
  | .mcfgGang a => rdOk a
  | .mzero _ => true
  | .oclaim _ a => rdOk a
  | .orelease a => rdOk a
  | .ofill a b => rdOk a && rdOk b
  | .mrdr _ a _ => rdOk a
  | .mrdc _ a _ => rdOk a
  | .mwrr _ a _ => rdOk a
  | .mwrc _ a _ => rdOk a
  | .mstat _ => true
  | .merr _ a => rdOk a
  | .mlenHold => true
  | .mlenSet a => rdOk a
  | .mflush => true
  | .mma _ _ _ _ _ => true
  | .mmag _ _ _ _ _ => true
  | .cdef d a => rdOk a && wrOk d
  | .cbind d a b => rdOk a && rdOk b && wrOk d
  | .crebind d a b => rdOk a && rdOk b && wrOk d
  | .cdrop d a b => rdOk a && rdOk b && wrOk d
  | .crd d a b => rdOk a && rdOk b && wrOk d
  | .cwr d a b => rdOk a && rdOk b && wrOk d
  | .cdone a b => rdOk a && rdOk b
  | .cwave a => rdOk a
  | .cwait a b => rdOk a && rdOk b
  | .crun a b => rdOk a && rdOk b
  | .cstat d a _ => rdOk a && wrOk d
  | .sopen d a => rdOk a && wrOk d
  | .sclose d a => rdOk a && wrOk d
  | .sgen d a => rdOk a && wrOk d
  | .spost d a b => rdOk a && rdOk b && wrOk d
  | .strunc d a b => rdOk a && rdOk b && wrOk d
  | .sckpt d a => rdOk a && wrOk d
  | .srefeed d a b => rdOk a && rdOk b && wrOk d
  | .smask d a b => rdOk a && rdOk b && wrOk d
  | .sframe d a b => rdOk a && rdOk b && wrOk d
  | .sstat d a _ => rdOk a && wrOk d
  | .sfloor d a b => rdOk a && rdOk b && wrOk d
  | .compose d a _ => rdOk a && wrOk d
  | .release d a => rdOk a && wrOk d
  | .frstat d a => rdOk a && wrOk d
  | .mcld a b => rdOk a && rdOk b
  | .mcst a b => rdOk a && rdOk b
  | .mcpush d a b => rdOk a && rdOk b && wrOk d
  | .tlbinv a b => rdOk a && rdOk b
  | .pgrelQ d a b => rdOk a && rdOk b && wrOk d
  | .pgrelR d => wrOk d
  | .qcnt d => wrOk d
  | .wswr d a b => rdOk a && rdOk b && wrOk d
  | .wsref d a => rdOk a && wrOk d
  | .srd d _ => wrOk d
  | .swr a _ => rdOk a
  | .trap a b => rdOk a && rdOk b
  | .dbgrd d a b => rdOk a && rdOk b && wrOk d
  | .dbgwr d a b => rdOk d && rdOk a && rdOk b
  | .thaw a b => rdOk a && rdOk b
  | .retire a b => rdOk a && rdOk b
  | .time d => wrOk d
  | .timeAr d => wrOk d
  | .swsched d a b => rdOk a && rdOk b && wrOk d
  | .fencec d a => rdOk a && wrOk d
  | .remap d a => rdOk a && wrOk d
  | .dgrd d _ => wrOk d
  | .dgchk d a => rdOk a && wrOk d
  | .dgchkFlt d a => rdOk a && wrOk d
  | .tron d a b => rdOk a && rdOk b && wrOk d
  | .troff d => wrOk d
  | .bkpt d a => rdOk a && wrOk d
  | .halt d a => rdOk a && wrOk d
  | .movC _ _ => true
  | .addC _ _ => true
  | .subC _ _ => true
  | .andC _ _ => true
  | .orC _ _ => true
  | .xorC _ _ => true
  | .addiC _ _ => true
  | .liC _ _ => true
  | .shlC _ _ => true
  | .shrC _ _ => true
  | .sraC _ _ => true
  | .ldDC _ _ _ => true
  | .stDC _ _ _ => true
  | .brC _ => true
  | .brcNzC _ _ => true
  | .brcZC _ _ => true
  | .nopC => true
  | .retC => true
  | .endtC => true
  | .packageReset _ _ => true
  | .packagePowerLimit => true
  | .timingReplay _ => true
  | .create _ => true
  | .destroy _ => true
  | .sched _ _ _ => true
  | .ident => true
  | .doorbell _ _ => true
  | .hqctl _ _ => true
  | .cqctl _ _ => true
  | .launchWindowWrite _ _ _ => true
  | .launch _ => true
  | .loadChunk _ _ => true
  | .loadComplete _ _ => true
  | .postLaunch _ => true
  | .launchComplete _ => true
  | .work _ => true
  | .frame _ => true
  | .reset _ => true
  | .functionReset _ => true
  | .xfer _ => true
  | .xferComplete _ => true
  | .scaleOutFlit _ _ => true
  | .completionPublish _ => true
  | .activationStart _ => true
  | .continuationTime _ _ => true
  | .watchdog _ => true
  | .messageAccept _ => true
  | .bulkMessageAccept _ => true
  | .undeliverableNotice _ => true
  | .noticeDeliver _ => true
  | .allowanceReturn _ => true
  | .workItemAccept _ => true
  | .workItemDeliver _ _ => true
  | .hostRecordWrite _ => true
  | .eventRequest _ => true
  | .eventArm _ => true
  | .binItems _ => true
  | .remoteRead _ => true
  | .remoteStore _ => true
  | .remoteAtomic _ => true
  | .remoteCas _ => true
  | .rcopyComplete _ => true
  | .barrierArrival _ => true
  | .waveStart _ _ => true
  | .evalDispatch _ _ => true
  | .cdoneReport _ => true
  | .waveCommit _ _ => true
  | .waveAbandon _ _ => true
  | .crdServe _ => true
  | .cellWriteApply _ => true
  | .waveNode _ _ => true
  | .matrixCommandStart _ _ => true
  | .matrixStep _ _ _ => true
  | .matrixCommandEnd _ _ => true
  | .slotReleaseEffect _ _ => true
  | .tilePushAccept _ => true
  | .hostCompletionTimeout _ => true
  | .refreshWindow _ _ => true
  | .frameApply _ => true
  | .maskResolutionApply _ => true
  | .frondComposed _ => true
  | .gangSwitch _ => true
  | .switchSave _ => true
  | .switchResume _ => true
  | .deviceFence _ => true
  | .debugStop _ => true
  | .engineReportDeliver _ => true
  | .uncorrectableDataError _ => true
  | .traceCollectorWrite _ => true

/-- Every value slot lies in its entry's range (R31, R34, R35). -/
def rangesOk : Instr → Bool
  | .add _ _ _ => true
  | .sub _ _ _ => true
  | .mul _ _ _ => true
  | .mulh _ _ _ _ => true
  | .div _ _ _ _ => true
  | .rem _ _ _ _ => true
  | .and _ _ _ => true
  | .or _ _ _ => true
  | .xor _ _ _ => true
  | .shl _ _ _ => true
  | .shr _ _ _ => true
  | .sra _ _ _ => true
  | .rotl _ _ _ => true
  | .min _ _ _ _ => true
  | .max _ _ _ _ => true
  | .sel _ _ _ => true
  | .addi _ _ _ => true
  | .andi _ _ _ => true
  | .ori _ _ _ => true
  | .xori _ _ _ => true
  | .shlImm _ _ _ => true
  | .shrImm _ _ _ => true
  | .sraImm _ _ _ => true
  | .rotlImm _ _ _ => true
  | .seqImm _ _ _ => true
  | .sneImm _ _ _ => true
  | .sltImm _ _ _ => true
  | .sleImm _ _ _ => true
  | .not _ _ => true
  | .clz _ _ => true
  | .ctz _ _ => true
  | .popc _ _ => true
  | .seq _ _ _ => true
  | .sne _ _ _ => true
  | .slt _ _ _ _ => true
  | .sle _ _ _ _ => true
  | .li _ _ => true
  | .lih _ _ => true
  | .br _ => true
  | .call _ => true
  | .brc _ c _ => decide (c.toNat ≤ 5)
  | .jmp _ _ => true
  | .ret => true
  | .endt => true
  | .yield _ _ => true
  | .mka _ _ _ _ => true
  | .nop => true
  | .ld _ _ _ _ => true
  | .ldSigned _ s _ _ => decide (s.toNat ≤ 2)
  | .st _ _ _ _ => true
  | .ldx _ a _ _ => decide (a.toNat ≤ 30)
  | .stx _ a _ _ => decide (a.toNat ≤ 30)
  | .ldm d _ b => decide (d.toNat ≤ 31 ∧ 1 ≤ b.toNat ∧ b.toNat ≤ 32 ∧ d.toNat + b.toNat ≤ 32)
  | .stm d _ b => decide (d.toNat ≤ 31 ∧ 1 ≤ b.toNat ∧ b.toNat ≤ 32 ∧ d.toNat + b.toNat ≤ 32)
  | .ltag _ _ => true
  | .stag _ _ => true
  | .cva _ _ _ => true
  | .tsta _ _ b => decide (b.toNat ≤ 31)
  | .regionRd _ b => decide (b.toNat ≤ 7)
  | .regionWr _ b => decide (b.toNat ≤ 7)
  | .rld _ _ _ => true
  | .rst _ _ _ _ => true
  | .rcopy _ _ _ => true
  | .amo _ _ _ _ _ => true
  | .ramo _ _ _ _ _ => true
  | .fence b => decide (b.toNat ≤ 31)
  | .bar _ b => decide (b.toNat ≤ 31)
  | .scw _ => true
  | .scr _ _ _ => true
  | .ldAcq _ _ _ => true
  | .stRel _ _ _ => true
  | .cas _ _ _ _ => true
  | .rcas _ _ b _ => decide (b.toNat ≤ 30)
  | .send _ _ => true
  | .sendb _ _ _ => true
  | .sendw _ _ => true
  | .sendk _ a b => decide (a.toNat ≤ 15 ∧ b.toNat ≤ 15)
  | .sendh _ => true
  | .allow _ _ => true
  | .bind _ => true
  | .unbind _ => true
  | .prio _ => true
  | .bincfg _ _ => true
  | .binseal _ _ => true
  | .binrd _ _ _ => true
  | .evset _ _ => true
  | .evclr _ => true
  | .evadd _ _ => true
  | .evarm _ _ => true
  | .fadd _ _ z _ _ => decide (z.toNat ≤ 3)
  | .fsub _ _ z _ _ => decide (z.toNat ≤ 3)
  | .fmul _ _ z _ _ => decide (z.toNat ≤ 3)
  | .fmin _ _ z _ _ => decide (z.toNat ≤ 3)
  | .fmax _ _ z _ _ => decide (z.toNat ≤ 3)
  | .fabs _ _ z _ => decide (z.toNat ≤ 3)
  | .fneg _ _ z _ => decide (z.toNat ≤ 3)
  | .fcps _ _ z _ _ => decide (z.toNat ≤ 3)
  | .fcmp d _ z _ _ _ => decide (z.toNat ≤ 3 ∧ d.toNat ≤ 7)
  | .fclass _ _ z _ => decide (z.toNat ≤ 3)
  | .fma _ _ z _ _ _ => decide (z.toNat ≤ 3)
  | .fms _ _ z _ _ _ => decide (z.toNat ≤ 3)
  | .fnma _ _ z _ _ _ => decide (z.toNat ≤ 3)
  | .vadd _ _ z _ _ => decide (4 ≤ z.toNat)
  | .vsub _ _ z _ _ => decide (4 ≤ z.toNat)
  | .vmul _ _ z _ _ => decide (4 ≤ z.toNat)
  | .vand _ _ z _ _ => decide (4 ≤ z.toNat)
  | .vor _ _ z _ _ => decide (4 ≤ z.toNat)
  | .vxor _ _ z _ _ => decide (4 ≤ z.toNat)
  | .vshl _ _ z _ _ => decide (4 ≤ z.toNat)
  | .vshr _ _ z _ _ => decide (4 ≤ z.toNat)
  | .vsra _ _ z _ _ => decide (4 ≤ z.toNat)
  | .vsel _ _ z _ _ => decide (4 ≤ z.toNat)
  | .vminI _ _ z _ _ => decide (4 ≤ z.toNat)
  | .vminN _ _ z _ _ => decide (4 ≤ z.toNat)
  | .vmaxI _ _ z _ _ => decide (4 ≤ z.toNat)
  | .vmaxN _ _ z _ _ => decide (4 ≤ z.toNat)
  | .vcmp d _ z _ _ c => decide (4 ≤ z.toNat ∧ c.toNat ≤ 5 ∧ d.toNat ≤ 7)
  | .vmad _ _ z _ _ _ => decide (4 ≤ z.toNat)
  | .vbcast _ _ _ _ => true
  | .vperm _ _ _ _ _ => true
  | .vmaxi _ _ _ _ => true
  | .vmaxiN _ _ z _ => decide (4 ≤ z.toNat)
  | .kand d a b => decide (d.toNat ≤ 7 ∧ a.toNat ≤ 7 ∧ b.toNat ≤ 7)
  | .kor d a b => decide (d.toNat ≤ 7 ∧ a.toNat ≤ 7 ∧ b.toNat ≤ 7)
  | .knot d a => decide (d.toNat ≤ 7 ∧ a.toNat ≤ 7)
  | .kmov d a b => decide (b.toNat ≤ 2 ∧ (b.toNat = 2 ∨ d.toNat ≤ 7) ∧ (b.toNat = 1 ∨ a.toNat ≤ 7))
  | .vred _ _ z _ o => redOk z o
  | .vscan _ _ z _ o => redOk z o
  | .fcvt _ _ _ _ _ => true
  | .frnd _ _ z _ b => decide (z.toNat ≤ 3 ∧ b.toNat ≤ 3)
  | .fseed _ _ z _ b => decide (z.toNat ≤ 1 ∧ b.toNat ≤ 1)
  | .fred _ _ z _ b => decide (z.toNat ≤ 1 ∧ b.toNat ≤ 5)
  | .fscale _ _ z _ _ => decide (z.toNat ≤ 3)
  | .fexpo _ _ z _ => decide (z.toNat ≤ 3)
  | .fmant _ _ z _ => decide (z.toNat ≤ 3)
  | .vld _ _ _ _ => true
  | .vst _ _ _ _ => true
  | .mcfg _ _ => true
  | .mcfgGang _ => true
  | .mzero _ => true
  | .oclaim _ _ => true
  | .orelease _ => true
  | .ofill _ _ => true
  | .mrdr d _ _ => decide (d.toNat ≤ 15)
  | .mrdc d _ _ => decide (d.toNat ≤ 15)
  | .mwrr d _ _ => decide (d.toNat ≤ 15)
  | .mwrc d _ _ => decide (d.toNat ≤ 15)
  | .mstat _ => true
  | .merr _ _ => true
  | .mlenHold => true
  | .mlenSet _ => true
  | .mflush => true
  | .mma _ _ _ _ _ => true
  | .mmag _ _ _ _ _ => true
  | .cdef _ _ => true
  | .cbind _ _ _ => true
  | .crebind _ _ _ => true
  | .cdrop _ _ _ => true
  | .crd _ _ _ => true
  | .cwr _ _ _ => true
  | .cdone _ _ => true
  | .cwave _ => true
  | .cwait _ _ => true
  | .crun _ _ => true
  | .cstat _ _ b => decide (b.toNat ≤ 1)
  | .sopen _ _ => true
  | .sclose _ _ => true
  | .sgen _ _ => true
  | .spost _ _ _ => true
  | .strunc _ _ _ => true
  | .sckpt _ _ => true
  | .srefeed _ _ _ => true
  | .smask _ _ _ => true
  | .sframe _ _ _ => true
  | .sstat _ _ b => decide (b.toNat ≤ 4)
  | .sfloor _ _ _ => true
  | .compose _ _ b => decide (b.toNat ≤ 31)
  | .release _ _ => true
  | .frstat _ _ => true
  | .mcld _ _ => true
  | .mcst _ _ => true
  | .mcpush _ _ _ => true
  | .tlbinv _ _ => true
  | .pgrelQ _ _ _ => true
  | .pgrelR _ => true
  | .qcnt _ => true
  | .wswr _ _ _ => true
  | .wsref _ _ => true
  | .srd _ i => sprOk i
  | .swr _ i => sprOk i
  | .trap _ _ => true
  | .dbgrd _ _ _ => true
  | .dbgwr _ _ _ => true
  | .thaw _ _ => true
  | .retire _ _ => true
  | .time _ => true
  | .timeAr _ => true
  | .swsched _ _ _ => true
  | .fencec _ _ => true
  | .remap _ _ => true
  | .dgrd _ b => decide (b.toNat ≤ 2)
  | .dgchk _ _ => true
  | .dgchkFlt _ _ => true
  | .tron _ _ _ => true
  | .troff _ => true
  | .bkpt _ _ => true
  | .halt _ _ => true
  | .movC _ _ => true
  | .addC _ _ => true
  | .subC _ _ => true
  | .andC _ _ => true
  | .orC _ _ => true
  | .xorC _ _ => true
  | .addiC _ _ => true
  | .liC _ _ => true
  | .shlC _ _ => true
  | .shrC _ _ => true
  | .sraC _ _ => true
  | .ldDC _ _ _ => true
  | .stDC _ _ _ => true
  | .brC _ => true
  | .brcNzC _ _ => true
  | .brcZC _ _ => true
  | .nopC => true
  | .retC => true
  | .endtC => true
  | .packageReset _ _ => true
  | .packagePowerLimit => true
  | .timingReplay e => decide (isElem e)
  | .create _ => true
  | .destroy ctx => decide (ctx < 64)
  | .sched ctx _ _ => decide (ctx < 64)
  | .ident => true
  | .doorbell ctx _ => decide (ctx < 64)
  | .hqctl ctx _ => decide (ctx < 64)
  | .cqctl ctx _ => decide (ctx < 64)
  | .launchWindowWrite ctx _ _ => decide (ctx < 64)
  | .launch ctx => decide (ctx < 64)
  | .loadChunk ctx e => decide (ctx < 64 ∧ isElem e)
  | .loadComplete ctx e => decide (ctx < 64 ∧ isElem e)
  | .postLaunch ctx => decide (ctx < 64)
  | .launchComplete ctx => decide (ctx < 64)
  | .work ctx => decide (ctx < 64)
  | .frame ctx => decide (ctx < 64)
  | .reset ctx => decide (ctx < 64)
  | .functionReset ctx => decide (ctx < 64)
  | .xfer ctx => decide (ctx < 64)
  | .xferComplete _ => true
  | .scaleOutFlit _ _ => true
  | .completionPublish ctx => decide (ctx < 64)
  | .activationStart e => decide (isElem e)
  | .continuationTime e _ => decide (isElem e)
  | .watchdog e => decide (isElem e)
  | .messageAccept _ => true
  | .bulkMessageAccept _ => true
  | .undeliverableNotice _ => true
  | .noticeDeliver e => decide (isElem e)
  | .allowanceReturn _ => true
  | .workItemAccept _ => true
  | .workItemDeliver ctx die => decide (ctx < 64 ∧ die < 2)
  | .hostRecordWrite _ => true
  | .eventRequest _ => true
  | .eventArm _ => true
  | .binItems _ => true
  | .remoteRead e => decide (isElem e)
  | .remoteStore _ => true
  | .remoteAtomic _ => true
  | .remoteCas _ => true
  | .rcopyComplete _ => true
  | .barrierArrival _ => true
  | .waveStart ctx sheet => decide (ctx < 64 ∧ sheet < 64)
  | .evalDispatch ctx sheet => decide (ctx < 64 ∧ sheet < 64)
  | .cdoneReport _ => true
  | .waveCommit ctx sheet => decide (ctx < 64 ∧ sheet < 64)
  | .waveAbandon ctx sheet => decide (ctx < 64 ∧ sheet < 64)
  | .crdServe _ => true
  | .cellWriteApply _ => true
  | .waveNode ctx sheet => decide (ctx < 64 ∧ sheet < 64)
  | .matrixCommandStart e _ => decide (isElem e)
  | .matrixStep e _ _ => decide (isElem e)
  | .matrixCommandEnd e _ => decide (isElem e)
  | .slotReleaseEffect sorus slot => decide (sorus < 512 ∧ slot < 128)
  | .tilePushAccept _ => true
  | .hostCompletionTimeout e => decide (isElem e)
  | .refreshWindow die bank => decide (die < 2 ∧ bank < 256)
  | .frameApply sn => decide (sn < 8192)
  | .maskResolutionApply sn => decide (sn < 8192)
  | .frondComposed leader => decide (isElem leader)
  | .gangSwitch ctx => decide (ctx < 64)
  | .switchSave ctx => decide (ctx < 64)
  | .switchResume ctx => decide (ctx < 64)
  | .deviceFence e => decide (isElem e)
  | .debugStop e => decide (isElem e)
  | .engineReportDeliver ctx => decide (ctx < 64)
  | .uncorrectableDataError _ => true
  | .traceCollectorWrite die => decide (die < 2)

/-- The reason of R46 that the slot values of an instruction raise, lowest first (R47); 0 for none. -/
def wfReason (i : Instr) : Nat := if !regsOk i then 4 else if !rangesOk i then 5 else 0

/-- A well-formed instruction: no slot value that R33 or its entry refuses. -/
abbrev WellFormed (i : Instr) : Prop := wfReason i = 0

end Sys2Proof
end

