-- ==== Sys2Proof/Decode.lean ====
section
/-!
DEFINITION. The decoder, total on any bits and rejecting by reason (R26, R30, R37, R41, R46), and the encoder,
both written from the formats of R30 and R37 and the function values of R41.
-/
namespace Sys2Proof

/-! ### Formats of 32 bits (R30) and 16 bits (R37) -/

/-- Format R: major, d, f, 11, a, b, z. -/
def encR (maj : BitVec 6) (d : Reg) (f : BitVec 4) (a b : Reg) (z : BitVec 2) : BitVec 32 :=
  maj ++ d ++ f ++ 3#2 ++ a ++ b ++ z
/-- Format I: major, d, f, 11, a, i. -/
def encI (maj : BitVec 6) (d : Reg) (f : BitVec 4) (a : Reg) (i : BitVec 8) : BitVec 32 :=
  maj ++ d ++ f ++ 3#2 ++ a ++ i
/-- Format L, major 0x02: d, 1, f, i[15:14], 11, i[13:0]. -/
def encL (d : Reg) (f : BitVec 1) (i : BitVec 16) : BitVec 32 :=
  2#6 ++ d ++ 1#1 ++ f ++ i.extractLsb' 14 2 ++ 3#2 ++ i.extractLsb' 0 14
/-- Format J, major 0x04: a, f, 11, i. -/
def encJ (a : Reg) (f : BitVec 4) (i : BitVec 14) : BitVec 32 :=
  4#6 ++ a ++ f ++ 3#2 ++ i
/-- Format B, major 0x03: f, i[21:14], 11, i[13:0]. -/
def encB (f : BitVec 2) (i : BitVec 22) : BitVec 32 :=
  3#6 ++ f ++ i.extractLsb' 14 8 ++ 3#2 ++ i.extractLsb' 0 14
/-- Format V: major, d, k, z, 11, a, b, f. Format V4 has f[5:4] and c in place of f. -/
def encV (maj : BitVec 6) (d : VReg) (k z : BitVec 3) (a b : VReg) (f : BitVec 6) : BitVec 32 :=
  maj ++ d ++ k ++ z ++ 3#2 ++ a ++ b ++ f
/-- Format VM, major 0x10: d, k, f, 11, a, i. -/
def encVM (d : VReg) (k f : BitVec 3) (a : Reg) (i : BitVec 8) : BitVec 32 :=
  16#6 ++ d ++ k ++ f ++ 3#2 ++ a ++ i
/-- Format M, major 0x11: 1, g, t, k, q, 11, o, o. -/
def encM (g : BitVec 1) (t k : BitVec 2) (q : BitVec 4) (o p : BitVec 7) : BitVec 32 :=
  17#6 ++ 1#1 ++ g ++ t ++ k ++ q ++ 3#2 ++ o ++ p
/-- C-RR: op, d, a, 0. -/
def encRR (op d a : BitVec 5) : BitVec 16 := op ++ d ++ a ++ 0#1
/-- C-RI: op, d, i. -/
def encRI (op d : BitVec 5) (i : BitVec 6) : BitVec 16 := op ++ d ++ i
/-- C-M: op, d, a, i. -/
def encCM (op d : BitVec 5) (a i : BitVec 3) : BitVec 16 := op ++ d ++ a ++ i
/-- C-J: op 0x0E, i. -/
def encCJ (i : BitVec 11) : BitVec 16 := 14#5 ++ i
/-- C-Z: op 0x11, f. -/
def encCZ (f : BitVec 11) : BitVec 16 := 17#5 ++ f

/-- The slot z that selects the natural variant by its bit 0 (R42). -/
def bit01 (n : Bool) : BitVec 2 := if n then 1#2 else 0#2

/-- A 32-bit instruction is the little-endian word whose lower halfword comes first (R26). -/
def halves (w : BitVec 32) : List Half := [w.extractLsb' 0 16, w.extractLsb' 16 16]

/-- The halfwords of an instruction, in address order. An operation or event of the device has none. -/
def encode : Instr → List Half
  | .add d a b => halves (encR 0x00 d 0 a b 0)
  | .sub d a b => halves (encR 0x00 d 1 a b 0)
  | .mul d a b => halves (encR 0x00 d 2 a b 0)
  | .mulh d a b n => halves (encR 0x00 d 3 a b (bit01 n))
  | .div d a b n => halves (encR 0x00 d 4 a b (bit01 n))
  | .rem d a b n => halves (encR 0x00 d 5 a b (bit01 n))
  | .and d a b => halves (encR 0x00 d 6 a b 0)
  | .or d a b => halves (encR 0x00 d 7 a b 0)
  | .xor d a b => halves (encR 0x00 d 8 a b 0)
  | .shl d a b => halves (encR 0x00 d 9 a b 0)
  | .shr d a b => halves (encR 0x00 d 10 a b 0)
  | .sra d a b => halves (encR 0x00 d 11 a b 0)
  | .rotl d a b => halves (encR 0x00 d 12 a b 0)
  | .min d a b n => halves (encR 0x00 d 13 a b (bit01 n))
  | .max d a b n => halves (encR 0x00 d 14 a b (bit01 n))
  | .sel d a b => halves (encR 0x00 d 15 a b 0)
  | .addi d a i => halves (encI 0x01 d 0 a i)
  | .andi d a i => halves (encI 0x01 d 1 a i)
  | .ori d a i => halves (encI 0x01 d 2 a i)
  | .xori d a i => halves (encI 0x01 d 3 a i)
  | .shlImm d a i => halves (encI 0x01 d 4 a (0#2 ++ i))
  | .shrImm d a i => halves (encI 0x01 d 5 a (0#2 ++ i))
  | .sraImm d a i => halves (encI 0x01 d 6 a (0#2 ++ i))
  | .rotlImm d a i => halves (encI 0x01 d 7 a (0#2 ++ i))
  | .seqImm d a i => halves (encI 0x01 d 8 a i)
  | .sneImm d a i => halves (encI 0x01 d 9 a i)
  | .sltImm d a i => halves (encI 0x01 d 10 a i)
  | .sleImm d a i => halves (encI 0x01 d 11 a i)
  | .not d a => halves (encR 0x02 d 0 a 0 0)
  | .clz d a => halves (encR 0x02 d 1 a 0 0)
  | .ctz d a => halves (encR 0x02 d 2 a 0 0)
  | .popc d a => halves (encR 0x02 d 3 a 0 0)
  | .seq d a b => halves (encR 0x02 d 4 a b 0)
  | .sne d a b => halves (encR 0x02 d 5 a b 0)
  | .slt d a b n => halves (encR 0x02 d 6 a b (bit01 n))
  | .sle d a b n => halves (encR 0x02 d 7 a b (bit01 n))
  | .li d i => halves (encL d 0 i)
  | .lih d i => halves (encL d 1 i)
  | .br i => halves (encB 0 i)
  | .call i => halves (encB 1 i)
  | .brc a c i => halves (encJ a (0#1 ++ c) i)
  | .jmp d a => halves (encR 0x04 d 8 a 0 0)
  | .ret => halves (encR 0x04 0 9 0 0 0)
  | .endt => halves (encR 0x04 0 10 0 0 0)
  | .yield a b => halves (encR 0x04 0 11 a b 0)
  | .mka d a b z => halves (encR 0x04 d 12 a b z)
  | .nop => halves (encR 0x04 0 13 0 0 0)
  | .ld d s a i => halves (encI 0x05 d (0#2 ++ s) a i)
  | .ldSigned d s a i => halves (encI 0x05 d (1#2 ++ s) a i)
  | .st d s a i => halves (encI 0x05 d (2#2 ++ s) a i)
  | .ldx d a b z => halves (encR 0x06 d 0 a b z)
  | .stx d a b z => halves (encR 0x06 d 1 a b z)
  | .ldm d a b => halves (encR 0x06 d 2 a b 0)
  | .stm d a b => halves (encR 0x06 d 3 a b 0)
  | .ltag d a => halves (encR 0x06 d 4 a 0 0)
  | .stag a b => halves (encR 0x06 0 5 a b 0)
  | .cva d a z => halves (encR 0x06 d 6 a 0 z)
  | .tsta d a b => halves (encR 0x06 d 7 a b 0)
  | .regionRd d b => halves (encR 0x06 d 8 0 b 0)
  | .regionWr a b => halves (encR 0x06 0 8 a b 1)
  | .rld d a z => halves (encR 0x07 d 0 a 0 z)
  | .rst d a b z => halves (encR 0x07 d 1 a b z)
  | .rcopy d a b => halves (encR 0x07 d 2 a b 0)
  | .amo d o a b z => halves (encR 0x08 d (0#1 ++ o) a b z)
  | .ramo d o a b z => halves (encR 0x08 d (1#1 ++ o) a b z)
  | .fence b => halves (encR 0x09 0 0 0 b 0)
  | .bar a b => halves (encR 0x09 0 1 a b 0)
  | .scw a => halves (encR 0x09 0 2 a 0 0)
  | .scr d a b => halves (encR 0x09 d 3 a b 0)
  | .ldAcq d a z => halves (encR 0x09 d 4 a 0 z)
  | .stRel d a z => halves (encR 0x09 d 5 a 0 z)
  | .cas d a b z => halves (encR 0x09 d 6 a b z)
  | .rcas d a b z => halves (encR 0x09 d 7 a b z)
  | .send d a => halves (encR 0x0A d 0 a 0 0)
  | .sendb d a b => halves (encR 0x0A d 1 a b 0)
  | .sendw d a => halves (encR 0x0A d 2 a 0 0)
  | .sendk d a b => halves (encR 0x0A d 3 a b 0)
  | .sendh d => halves (encR 0x0A d 4 0 0 0)
  | .allow d a => halves (encR 0x0A d 5 a 0 0)
  | .bind a => halves (encR 0x0A 0 6 a 0 0)
  | .unbind a => halves (encR 0x0A 0 7 a 0 0)
  | .prio a => halves (encR 0x0A 0 8 a 0 0)
  | .bincfg a b => halves (encR 0x0B 0 0 a b 0)
  | .binseal d a => halves (encR 0x0B d 1 a 0 0)
  | .binrd d a b => halves (encR 0x0B d 2 a b 0)
  | .evset a b => halves (encR 0x0B 0 3 a b 0)
  | .evclr a => halves (encR 0x0B 0 4 a 0 0)
  | .evadd a b => halves (encR 0x0B 0 5 a b 0)
  | .evarm a b => halves (encR 0x0B 0 6 a b 0)
  | .fadd d k z a b => halves (encV 0x0C d k z a b 0)
  | .fsub d k z a b => halves (encV 0x0C d k z a b 1)
  | .fmul d k z a b => halves (encV 0x0C d k z a b 2)
  | .fmin d k z a b => halves (encV 0x0C d k z a b 3)
  | .fmax d k z a b => halves (encV 0x0C d k z a b 4)
  | .fabs d k z a => halves (encV 0x0C d k z a 0 5)
  | .fneg d k z a => halves (encV 0x0C d k z a 0 6)
  | .fcps d k z a b => halves (encV 0x0C d k z a b 7)
  | .fcmp d k z a b c => halves (encV 0x0C d k z a b (2#4 ++ c))
  | .fclass d k z a => halves (encV 0x0C d k z a 0 12)
  | .fma d k z a b c => halves (encV 0x0C d k z a b (1#2 ++ c))
  | .fms d k z a b c => halves (encV 0x0C d k z a b (2#2 ++ c))
  | .fnma d k z a b c => halves (encV 0x0C d k z a b (3#2 ++ c))
  | .vadd d k z a b => halves (encV 0x0D d k z a b 0)
  | .vsub d k z a b => halves (encV 0x0D d k z a b 1)
  | .vmul d k z a b => halves (encV 0x0D d k z a b 2)
  | .vand d k z a b => halves (encV 0x0D d k z a b 3)
  | .vor d k z a b => halves (encV 0x0D d k z a b 4)
  | .vxor d k z a b => halves (encV 0x0D d k z a b 5)
  | .vshl d k z a b => halves (encV 0x0D d k z a b 6)
  | .vshr d k z a b => halves (encV 0x0D d k z a b 7)
  | .vsra d k z a b => halves (encV 0x0D d k z a b 8)
  | .vsel d k z a b => halves (encV 0x0D d k z a b 9)
  | .vminI d k z a b => halves (encV 0x0D d k z a b 10)
  | .vminN d k z a b => halves (encV 0x0D d k z a b 11)
  | .vmaxI d k z a b => halves (encV 0x0D d k z a b 12)
  | .vmaxN d k z a b => halves (encV 0x0D d k z a b 13)
  | .vcmp d k z a b c => halves (encV 0x0D d k z a b (2#3 ++ c))
  | .vmad d k z a b c => halves (encV 0x0D d k z a b (3#2 ++ c))
  | .vbcast d k z a => halves (encV 0x0E d k z a 0 0)
  | .vperm d k z a b => halves (encV 0x0E d k z a b 1)
  | .vmaxi d k z a => halves (encV 0x0E d k z a 0 2)
  | .vmaxiN d k z a => halves (encV 0x0E d k z a 0 7)
  | .kand d a b => halves (encV 0x0E d 0 0 a b 3)
  | .kor d a b => halves (encV 0x0E d 0 0 a b 4)
  | .knot d a => halves (encV 0x0E d 0 0 a 0 5)
  | .kmov d a b => halves (encV 0x0E d 0 0 a b 6)
  | .vred d k z a o => halves (encV 0x0E d k z a 0 (1#2 ++ o))
  | .vscan d k z a o => halves (encV 0x0E d k z a 0 (2#2 ++ o))
  | .fcvt d k z a b => halves (encV 0x0F d k z a b 0)
  | .frnd d k z a b => halves (encV 0x0F d k z a b 1)
  | .fseed d k z a b => halves (encV 0x0F d k z a b 2)
  | .fred d k z a b => halves (encV 0x0F d k z a b 3)
  | .fscale d k z a b => halves (encV 0x0F d k z a b 4)
  | .fexpo d k z a => halves (encV 0x0F d k z a 0 5)
  | .fmant d k z a => halves (encV 0x0F d k z a 0 6)
  | .vld d k a i => halves (encVM d k 0 a i)
  | .vst d k a i => halves (encVM d k 1 a i)
  | .mcfg a t => halves (encR 0x11 0 0 a 0 t)
  | .mcfgGang a => halves (encR 0x11 1 0 a 0 0)
  | .mzero t => halves (encR 0x11 0 1 0 0 t)
  | .oclaim d a => halves (encR 0x11 (0#1 ++ d) 2 a 0 0)
  | .orelease a => halves (encR 0x11 0 3 a 0 0)
  | .ofill a b => halves (encR 0x11 0 4 a b 0)
  | .mrdr d a t => halves (encR 0x11 (0#1 ++ d) 5 a 0 t)
  | .mrdc d a t => halves (encR 0x11 (0#1 ++ d) 6 a 0 t)
  | .mwrr d a t => halves (encR 0x11 (0#1 ++ d) 7 a 0 t)
  | .mwrc d a t => halves (encR 0x11 (0#1 ++ d) 8 a 0 t)
  | .mstat d => halves (encR 0x11 (0#1 ++ d) 9 0 0 0)
  | .merr d a => halves (encR 0x11 (0#1 ++ d) 10 a 0 0)
  | .mlenHold => halves (encR 0x11 0 11 0 0 0)
  | .mlenSet a => halves (encR 0x11 0 11 a 0 1)
  | .mflush => halves (encR 0x11 0 12 0 0 0)
  | .mma t k q o p => halves (encM 0 t k q o p)
  | .mmag t k q o p => halves (encM 1 t k q o p)
  | .cdef d a => halves (encR 0x12 d 0 a 0 0)
  | .cbind d a b => halves (encR 0x12 d 1 a b 0)
  | .crebind d a b => halves (encR 0x12 d 2 a b 0)
  | .cdrop d a b => halves (encR 0x12 d 3 a b 0)
  | .crd d a b => halves (encR 0x12 d 4 a b 0)
  | .cwr d a b => halves (encR 0x12 d 5 a b 0)
  | .cdone a b => halves (encR 0x12 0 6 a b 0)
  | .cwave a => halves (encR 0x12 0 7 a 0 0)
  | .cwait a b => halves (encR 0x12 0 8 a b 0)
  | .crun a b => halves (encR 0x12 0 9 a b 0)
  | .cstat d a b => halves (encR 0x12 d 10 a b 0)
  | .sopen d a => halves (encR 0x13 d 0 a 0 0)
  | .sclose d a => halves (encR 0x13 d 1 a 0 0)
  | .sgen d a => halves (encR 0x13 d 2 a 0 0)
  | .spost d a b => halves (encR 0x13 d 3 a b 0)
  | .strunc d a b => halves (encR 0x13 d 4 a b 0)
  | .sckpt d a => halves (encR 0x13 d 5 a 0 0)
  | .srefeed d a b => halves (encR 0x13 d 6 a b 0)
  | .smask d a b => halves (encR 0x13 d 7 a b 0)
  | .sframe d a b => halves (encR 0x13 d 8 a b 0)
  | .sstat d a b => halves (encR 0x13 d 9 a b 0)
  | .sfloor d a b => halves (encR 0x13 d 10 a b 0)
  | .compose d a b => halves (encR 0x14 d 0 a b 0)
  | .release d a => halves (encR 0x14 d 1 a 0 0)
  | .frstat d a => halves (encR 0x14 d 2 a 0 0)
  | .mcld a b => halves (encR 0x15 0 0 a b 0)
  | .mcst a b => halves (encR 0x15 0 1 a b 0)
  | .mcpush d a b => halves (encR 0x15 d 2 a b 0)
  | .tlbinv a b => halves (encR 0x15 0 3 a b 0)
  | .pgrelQ d a b => halves (encR 0x15 d 4 a b 0)
  | .pgrelR d => halves (encR 0x15 d 4 0 0 1)
  | .qcnt d => halves (encR 0x15 d 5 0 0 0)
  | .wswr d a b => halves (encR 0x15 d 6 a b 0)
  | .wsref d a => halves (encR 0x15 d 7 a 0 0)
  | .srd d i => halves (encI 0x16 d 0 0 i)
  | .swr a i => halves (encI 0x16 0 1 a i)
  | .trap a b => halves (encR 0x17 0 0 a b 0)
  | .dbgrd d a b => halves (encR 0x17 d 1 a b 0)
  | .dbgwr d a b => halves (encR 0x17 d 2 a b 0)
  | .thaw a b => halves (encR 0x17 0 3 a b 0)
  | .retire a b => halves (encR 0x17 0 4 a b 0)
  | .time d => halves (encR 0x17 d 5 0 0 0)
  | .timeAr d => halves (encR 0x17 d 5 0 0 3)
  | .swsched d a b => halves (encR 0x17 d 6 a b 0)
  | .fencec d a => halves (encR 0x17 d 7 a 0 0)
  | .remap d a => halves (encR 0x17 d 8 a 0 0)
  | .dgrd d b => halves (encR 0x17 d 9 0 b 0)
  | .dgchk d a => halves (encR 0x17 d 10 a 0 0)
  | .dgchkFlt d a => halves (encR 0x17 d 10 a 0 1)
  | .tron d a b => halves (encR 0x17 d 11 a b 0)
  | .troff d => halves (encR 0x17 d 12 0 0 0)
  | .bkpt d a => halves (encR 0x17 d 13 a 0 0)
  | .halt d a => halves (encR 0x17 d 14 a 0 0)
  | .movC d a => [encRR 0x01 d a]
  | .addC d a => [encRR 0x02 d a]
  | .subC d a => [encRR 0x03 d a]
  | .andC d a => [encRR 0x04 d a]
  | .orC d a => [encRR 0x05 d a]
  | .xorC d a => [encRR 0x06 d a]
  | .addiC d i => [encRI 0x07 d i]
  | .liC d i => [encRI 0x08 d i]
  | .shlC d i => [encRI 0x09 d i]
  | .shrC d i => [encRI 0x0A d i]
  | .sraC d i => [encRI 0x0B d i]
  | .ldDC d a i => [encCM 0x0C d a i]
  | .stDC d a i => [encCM 0x0D d a i]
  | .brC i => [encCJ i]
  | .brcNzC a i => [encRI 0x0F a i]
  | .brcZC a i => [encRI 0x10 a i]
  | .nopC => [encCZ 0]
  | .retC => [encCZ 1]
  | .endtC => [encCZ 2]
  | .packageReset _ _ => []
  | .packagePowerLimit => []
  | .timingReplay _ => []
  | .create _ => []
  | .destroy _ => []
  | .sched _ _ _ => []
  | .ident => []
  | .doorbell _ _ => []
  | .hqctl _ _ => []
  | .cqctl _ _ => []
  | .launchWindowWrite _ _ _ => []
  | .launch _ => []
  | .loadChunk _ _ => []
  | .loadComplete _ _ => []
  | .postLaunch _ => []
  | .launchComplete _ => []
  | .work _ => []
  | .frame _ => []
  | .reset _ => []
  | .functionReset _ => []
  | .xfer _ => []
  | .xferComplete _ => []
  | .scaleOutFlit _ _ => []
  | .completionPublish _ => []
  | .activationStart _ => []
  | .continuationTime _ _ => []
  | .watchdog _ => []
  | .messageAccept _ => []
  | .bulkMessageAccept _ => []
  | .undeliverableNotice _ => []
  | .noticeDeliver _ => []
  | .allowanceReturn _ => []
  | .workItemAccept _ => []
  | .workItemDeliver _ _ => []
  | .hostRecordWrite _ => []
  | .eventRequest _ => []
  | .eventArm _ => []
  | .binItems _ => []
  | .remoteRead _ => []
  | .remoteStore _ => []
  | .remoteAtomic _ => []
  | .remoteCas _ => []
  | .rcopyComplete _ => []
  | .barrierArrival _ => []
  | .waveStart _ _ => []
  | .evalDispatch _ _ => []
  | .cdoneReport _ => []
  | .waveCommit _ _ => []
  | .waveAbandon _ _ => []
  | .crdServe _ => []
  | .cellWriteApply _ => []
  | .waveNode _ _ => []
  | .matrixCommandStart _ _ => []
  | .matrixStep _ _ _ => []
  | .matrixCommandEnd _ _ => []
  | .slotReleaseEffect _ _ => []
  | .tilePushAccept _ => []
  | .hostCompletionTimeout _ => []
  | .refreshWindow _ _ => []
  | .frameApply _ => []
  | .maskResolutionApply _ => []
  | .frondComposed _ => []
  | .gangSwitch _ => []
  | .switchSave _ => []
  | .switchResume _ => []
  | .deviceFence _ => []
  | .debugStop _ => []
  | .engineReportDeliver _ => []
  | .uncorrectableDataError _ => []
  | .traceCollectorWrite _ => []

/-! ### Slots of a 32-bit word (R30) -/

def sMaj (w : BitVec 32) : BitVec 6 := w.extractLsb' 26 6
def sD (w : BitVec 32) : Reg := w.extractLsb' 20 6
def sF (w : BitVec 32) : BitVec 4 := w.extractLsb' 16 4
def sA (w : BitVec 32) : Reg := w.extractLsb' 8 6
def sB (w : BitVec 32) : Reg := w.extractLsb' 2 6
def sZ (w : BitVec 32) : BitVec 2 := w.extractLsb' 0 2
def sN (w : BitVec 32) : Bool := w.getLsbD 0
def sOp3 (w : BitVec 32) : BitVec 3 := w.extractLsb' 16 3
def sF2 (w : BitVec 32) : BitVec 2 := w.extractLsb' 16 2
def sI8 (w : BitVec 32) : BitVec 8 := w.extractLsb' 0 8
def sI6 (w : BitVec 32) : BitVec 6 := w.extractLsb' 0 6
def lI (w : BitVec 32) : BitVec 16 := w.extractLsb' 16 2 ++ w.extractLsb' 0 14
def jC (w : BitVec 32) : BitVec 3 := w.extractLsb' 16 3
def jI (w : BitVec 32) : BitVec 14 := w.extractLsb' 0 14
def bF (w : BitVec 32) : BitVec 2 := w.extractLsb' 24 2
def bI (w : BitVec 32) : BitVec 22 := w.extractLsb' 16 8 ++ w.extractLsb' 0 14
def vD (w : BitVec 32) : VReg := w.extractLsb' 22 4
def vK (w : BitVec 32) : BitVec 3 := w.extractLsb' 19 3
def vZ (w : BitVec 32) : BitVec 3 := w.extractLsb' 16 3
def vA (w : BitVec 32) : VReg := w.extractLsb' 10 4
def vB (w : BitVec 32) : VReg := w.extractLsb' 6 4
def vF (w : BitVec 32) : BitVec 6 := w.extractLsb' 0 6
def vFh (w : BitVec 32) : BitVec 2 := w.extractLsb' 4 2
def vC (w : BitVec 32) : VReg := w.extractLsb' 0 4
def vF2 (w : BitVec 32) : BitVec 2 := w.extractLsb' 0 2
def vF3 (w : BitVec 32) : BitVec 3 := w.extractLsb' 0 3
def mD (w : BitVec 32) : BitVec 5 := w.extractLsb' 20 5
def mT (w : BitVec 32) : BitVec 2 := w.extractLsb' 22 2
def mK (w : BitVec 32) : BitVec 2 := w.extractLsb' 20 2
def mQ (w : BitVec 32) : BitVec 4 := w.extractLsb' 16 4
def mO (w : BitVec 32) : BitVec 7 := w.extractLsb' 7 7
def mP (w : BitVec 32) : BitVec 7 := w.extractLsb' 0 7

/-! ### The opcode map (R40, R41) -/

/-- Major 0x00 (R41): the instruction its function value names, and the word with an unlisted selector replaced. -/
def cand00 (w : BitVec 32) : Option (Instr × BitVec 32) :=
  match (sF w).toNat with
  | 0 => some (.add (sD w) (sA w) (sB w), w)
  | 1 => some (.sub (sD w) (sA w) (sB w), w)
  | 2 => some (.mul (sD w) (sA w) (sB w), w)
  | 3 => some (.mulh (sD w) (sA w) (sB w) (sN w), w)
  | 4 => some (.div (sD w) (sA w) (sB w) (sN w), w)
  | 5 => some (.rem (sD w) (sA w) (sB w) (sN w), w)
  | 6 => some (.and (sD w) (sA w) (sB w), w)
  | 7 => some (.or (sD w) (sA w) (sB w), w)
  | 8 => some (.xor (sD w) (sA w) (sB w), w)
  | 9 => some (.shl (sD w) (sA w) (sB w), w)
  | 10 => some (.shr (sD w) (sA w) (sB w), w)
  | 11 => some (.sra (sD w) (sA w) (sB w), w)
  | 12 => some (.rotl (sD w) (sA w) (sB w), w)
  | 13 => some (.min (sD w) (sA w) (sB w) (sN w), w)
  | 14 => some (.max (sD w) (sA w) (sB w) (sN w), w)
  | 15 => some (.sel (sD w) (sA w) (sB w), w)
  | _ => none

/-- Major 0x01 (R41): the instruction its function value names, and the word with an unlisted selector replaced. -/
def cand01 (w : BitVec 32) : Option (Instr × BitVec 32) :=
  match (sF w).toNat with
  | 0 => some (.addi (sD w) (sA w) (sI8 w), w)
  | 1 => some (.andi (sD w) (sA w) (sI8 w), w)
  | 2 => some (.ori (sD w) (sA w) (sI8 w), w)
  | 3 => some (.xori (sD w) (sA w) (sI8 w), w)
  | 4 => some (.shlImm (sD w) (sA w) (sI6 w), w)
  | 5 => some (.shrImm (sD w) (sA w) (sI6 w), w)
  | 6 => some (.sraImm (sD w) (sA w) (sI6 w), w)
  | 7 => some (.rotlImm (sD w) (sA w) (sI6 w), w)
  | 8 => some (.seqImm (sD w) (sA w) (sI8 w), w)
  | 9 => some (.sneImm (sD w) (sA w) (sI8 w), w)
  | 10 => some (.sltImm (sD w) (sA w) (sI8 w), w)
  | 11 => some (.sleImm (sD w) (sA w) (sI8 w), w)
  | _ => none

/-- Major 0x02 (R41): the instruction its function value names, and the word with an unlisted selector replaced. -/
def cand02 (w : BitVec 32) : Option (Instr × BitVec 32) :=
  if w.getLsbD 19 then
    if w.getLsbD 18 then some (.lih (sD w) (lI w), w) else some (.li (sD w) (lI w), w)
  else match (sF w).toNat with
    | 0 => some (.not (sD w) (sA w), w)
    | 1 => some (.clz (sD w) (sA w), w)
    | 2 => some (.ctz (sD w) (sA w), w)
    | 3 => some (.popc (sD w) (sA w), w)
    | 4 => some (.seq (sD w) (sA w) (sB w), w)
    | 5 => some (.sne (sD w) (sA w) (sB w), w)
    | 6 => some (.slt (sD w) (sA w) (sB w) (sN w), w)
    | 7 => some (.sle (sD w) (sA w) (sB w) (sN w), w)
    | _ => none

/-- Major 0x03 (R41): the instruction its function value names, and the word with an unlisted selector replaced. -/
def cand03 (w : BitVec 32) : Option (Instr × BitVec 32) :=
  match (bF w).toNat with
  | 0 => some (.br (bI w), w)
  | 1 => some (.call (bI w), w)
  | _ => none

/-- Major 0x04 (R41): the instruction its function value names, and the word with an unlisted selector replaced. -/
def cand04 (w : BitVec 32) : Option (Instr × BitVec 32) :=
  match (sF w).toNat with
  | 0 => some (.brc (sD w) (jC w) (jI w), w)
  | 1 => some (.brc (sD w) (jC w) (jI w), w)
  | 2 => some (.brc (sD w) (jC w) (jI w), w)
  | 3 => some (.brc (sD w) (jC w) (jI w), w)
  | 4 => some (.brc (sD w) (jC w) (jI w), w)
  | 5 => some (.brc (sD w) (jC w) (jI w), w)
  | 8 => some (.jmp (sD w) (sA w), w)
  | 9 => some (.ret, w)
  | 10 => some (.endt, w)
  | 11 => some (.yield (sA w) (sB w), w)
  | 12 => some (.mka (sD w) (sA w) (sB w) (sZ w), w)
  | 13 => some (.nop, w)
  | _ => none

/-- Major 0x05 (R41): the instruction its function value names, and the word with an unlisted selector replaced. -/
def cand05 (w : BitVec 32) : Option (Instr × BitVec 32) :=
  match (sF w).toNat with
  | 0 => some (.ld (sD w) (sF2 w) (sA w) (sI8 w), w)
  | 1 => some (.ld (sD w) (sF2 w) (sA w) (sI8 w), w)
  | 2 => some (.ld (sD w) (sF2 w) (sA w) (sI8 w), w)
  | 3 => some (.ld (sD w) (sF2 w) (sA w) (sI8 w), w)
  | 4 => some (.ldSigned (sD w) (sF2 w) (sA w) (sI8 w), w)
  | 5 => some (.ldSigned (sD w) (sF2 w) (sA w) (sI8 w), w)
  | 6 => some (.ldSigned (sD w) (sF2 w) (sA w) (sI8 w), w)
  | 8 => some (.st (sD w) (sF2 w) (sA w) (sI8 w), w)
  | 9 => some (.st (sD w) (sF2 w) (sA w) (sI8 w), w)
  | 10 => some (.st (sD w) (sF2 w) (sA w) (sI8 w), w)
  | 11 => some (.st (sD w) (sF2 w) (sA w) (sI8 w), w)
  | _ => none

/-- Major 0x06 (R41): the instruction its function value names, and the word with an unlisted selector replaced. -/
def cand06 (w : BitVec 32) : Option (Instr × BitVec 32) :=
  match (sF w).toNat with
  | 0 => some (.ldx (sD w) (sA w) (sB w) (sZ w), w)
  | 1 => some (.stx (sD w) (sA w) (sB w) (sZ w), w)
  | 2 => some (.ldm (sD w) (sA w) (sB w), w)
  | 3 => some (.stm (sD w) (sA w) (sB w), w)
  | 4 => some (.ltag (sD w) (sA w), w)
  | 5 => some (.stag (sA w) (sB w), w)
  | 6 => some (.cva (sD w) (sA w) (sZ w), w)
  | 7 => some (.tsta (sD w) (sA w) (sB w), w)
  | 8 => match (sZ w).toNat with
    | 0 => some (.regionRd (sD w) (sB w), w)
    | 1 => some (.regionWr (sA w) (sB w), w)
    | _ => some (.regionRd 0 (sB w), (w &&& ~~~0x03F03F03#32))
  | _ => none

/-- Major 0x07 (R41): the instruction its function value names, and the word with an unlisted selector replaced. -/
def cand07 (w : BitVec 32) : Option (Instr × BitVec 32) :=
  match (sF w).toNat with
  | 0 => some (.rld (sD w) (sA w) (sZ w), w)
  | 1 => some (.rst (sD w) (sA w) (sB w) (sZ w), w)
  | 2 => some (.rcopy (sD w) (sA w) (sB w), w)
  | _ => none

/-- Major 0x08 (R41): the instruction its function value names, and the word with an unlisted selector replaced. -/
def cand08 (w : BitVec 32) : Option (Instr × BitVec 32) :=
  match (sF w).toNat with
  | 0 => some (.amo (sD w) (sOp3 w) (sA w) (sB w) (sZ w), w)
  | 1 => some (.amo (sD w) (sOp3 w) (sA w) (sB w) (sZ w), w)
  | 2 => some (.amo (sD w) (sOp3 w) (sA w) (sB w) (sZ w), w)
  | 3 => some (.amo (sD w) (sOp3 w) (sA w) (sB w) (sZ w), w)
  | 4 => some (.amo (sD w) (sOp3 w) (sA w) (sB w) (sZ w), w)
  | 5 => some (.amo (sD w) (sOp3 w) (sA w) (sB w) (sZ w), w)
  | 6 => some (.amo (sD w) (sOp3 w) (sA w) (sB w) (sZ w), w)
  | 7 => some (.amo (sD w) (sOp3 w) (sA w) (sB w) (sZ w), w)
  | 8 => some (.ramo (sD w) (sOp3 w) (sA w) (sB w) (sZ w), w)
  | 9 => some (.ramo (sD w) (sOp3 w) (sA w) (sB w) (sZ w), w)
  | 10 => some (.ramo (sD w) (sOp3 w) (sA w) (sB w) (sZ w), w)
  | 11 => some (.ramo (sD w) (sOp3 w) (sA w) (sB w) (sZ w), w)
  | 12 => some (.ramo (sD w) (sOp3 w) (sA w) (sB w) (sZ w), w)
  | 13 => some (.ramo (sD w) (sOp3 w) (sA w) (sB w) (sZ w), w)
  | 14 => some (.ramo (sD w) (sOp3 w) (sA w) (sB w) (sZ w), w)
  | 15 => some (.ramo (sD w) (sOp3 w) (sA w) (sB w) (sZ w), w)
  | _ => none

/-- Major 0x09 (R41): the instruction its function value names, and the word with an unlisted selector replaced. -/
def cand09 (w : BitVec 32) : Option (Instr × BitVec 32) :=
  match (sF w).toNat with
  | 0 => some (.fence (sB w), w)
  | 1 => some (.bar (sA w) (sB w), w)
  | 2 => some (.scw (sA w), w)
  | 3 => some (.scr (sD w) (sA w) (sB w), w)
  | 4 => some (.ldAcq (sD w) (sA w) (sZ w), w)
  | 5 => some (.stRel (sD w) (sA w) (sZ w), w)
  | 6 => some (.cas (sD w) (sA w) (sB w) (sZ w), w)
  | 7 => some (.rcas (sD w) (sA w) (sB w) (sZ w), w)
  | _ => none

/-- Major 0x0A (R41): the instruction its function value names, and the word with an unlisted selector replaced. -/
def cand0A (w : BitVec 32) : Option (Instr × BitVec 32) :=
  match (sF w).toNat with
  | 0 => some (.send (sD w) (sA w), w)
  | 1 => some (.sendb (sD w) (sA w) (sB w), w)
  | 2 => some (.sendw (sD w) (sA w), w)
  | 3 => some (.sendk (sD w) (sA w) (sB w), w)
  | 4 => some (.sendh (sD w), w)
  | 5 => some (.allow (sD w) (sA w), w)
  | 6 => some (.bind (sA w), w)
  | 7 => some (.unbind (sA w), w)
  | 8 => some (.prio (sA w), w)
  | _ => none

/-- Major 0x0B (R41): the instruction its function value names, and the word with an unlisted selector replaced. -/
def cand0B (w : BitVec 32) : Option (Instr × BitVec 32) :=
  match (sF w).toNat with
  | 0 => some (.bincfg (sA w) (sB w), w)
  | 1 => some (.binseal (sD w) (sA w), w)
  | 2 => some (.binrd (sD w) (sA w) (sB w), w)
  | 3 => some (.evset (sA w) (sB w), w)
  | 4 => some (.evclr (sA w), w)
  | 5 => some (.evadd (sA w) (sB w), w)
  | 6 => some (.evarm (sA w) (sB w), w)
  | _ => none

/-- Major 0x0C (R41): the instruction its function value names, and the word with an unlisted selector replaced. -/
def cand0C (w : BitVec 32) : Option (Instr × BitVec 32) :=
  match (vFh w).toNat with
  | 1 => some (.fma (vD w) (vK w) (vZ w) (vA w) (vB w) (vC w), w)
  | 2 => some (.fms (vD w) (vK w) (vZ w) (vA w) (vB w) (vC w), w)
  | 3 => some (.fnma (vD w) (vK w) (vZ w) (vA w) (vB w) (vC w), w)
  | _ => match (vC w).toNat with
    | 0 => some (.fadd (vD w) (vK w) (vZ w) (vA w) (vB w), w)
    | 1 => some (.fsub (vD w) (vK w) (vZ w) (vA w) (vB w), w)
    | 2 => some (.fmul (vD w) (vK w) (vZ w) (vA w) (vB w), w)
    | 3 => some (.fmin (vD w) (vK w) (vZ w) (vA w) (vB w), w)
    | 4 => some (.fmax (vD w) (vK w) (vZ w) (vA w) (vB w), w)
    | 5 => some (.fabs (vD w) (vK w) (vZ w) (vA w), w)
    | 6 => some (.fneg (vD w) (vK w) (vZ w) (vA w), w)
    | 7 => some (.fcps (vD w) (vK w) (vZ w) (vA w) (vB w), w)
    | 8 => some (.fcmp (vD w) (vK w) (vZ w) (vA w) (vB w) (vF2 w), w)
    | 9 => some (.fcmp (vD w) (vK w) (vZ w) (vA w) (vB w) (vF2 w), w)
    | 10 => some (.fcmp (vD w) (vK w) (vZ w) (vA w) (vB w) (vF2 w), w)
    | 11 => some (.fcmp (vD w) (vK w) (vZ w) (vA w) (vB w) (vF2 w), w)
    | 12 => some (.fclass (vD w) (vK w) (vZ w) (vA w), w)
    | _ => none

/-- Major 0x0D (R41): the instruction its function value names, and the word with an unlisted selector replaced. -/
def cand0D (w : BitVec 32) : Option (Instr × BitVec 32) :=
  match (vFh w).toNat with
  | 3 => some (.vmad (vD w) (vK w) (vZ w) (vA w) (vB w) (vC w), w)
  | 2 => none
  | 1 => if (vC w).getLsbD 3 then none else some (.vcmp (vD w) (vK w) (vZ w) (vA w) (vB w) (vF3 w), w)
  | _ => match (vC w).toNat with
    | 0 => some (.vadd (vD w) (vK w) (vZ w) (vA w) (vB w), w)
    | 1 => some (.vsub (vD w) (vK w) (vZ w) (vA w) (vB w), w)
    | 2 => some (.vmul (vD w) (vK w) (vZ w) (vA w) (vB w), w)
    | 3 => some (.vand (vD w) (vK w) (vZ w) (vA w) (vB w), w)
    | 4 => some (.vor (vD w) (vK w) (vZ w) (vA w) (vB w), w)
    | 5 => some (.vxor (vD w) (vK w) (vZ w) (vA w) (vB w), w)
    | 6 => some (.vshl (vD w) (vK w) (vZ w) (vA w) (vB w), w)
    | 7 => some (.vshr (vD w) (vK w) (vZ w) (vA w) (vB w), w)
    | 8 => some (.vsra (vD w) (vK w) (vZ w) (vA w) (vB w), w)
    | 9 => some (.vsel (vD w) (vK w) (vZ w) (vA w) (vB w), w)
    | 10 => some (.vminI (vD w) (vK w) (vZ w) (vA w) (vB w), w)
    | 11 => some (.vminN (vD w) (vK w) (vZ w) (vA w) (vB w), w)
    | 12 => some (.vmaxI (vD w) (vK w) (vZ w) (vA w) (vB w), w)
    | 13 => some (.vmaxN (vD w) (vK w) (vZ w) (vA w) (vB w), w)
    | _ => none

/-- Major 0x0E (R41): the instruction its function value names, and the word with an unlisted selector replaced. -/
def cand0E (w : BitVec 32) : Option (Instr × BitVec 32) :=
  match (vFh w).toNat with
  | 1 => some (.vred (vD w) (vK w) (vZ w) (vA w) (vC w), w)
  | 2 => some (.vscan (vD w) (vK w) (vZ w) (vA w) (vC w), w)
  | 3 => none
  | _ => match (vC w).toNat with
    | 0 => some (.vbcast (vD w) (vK w) (vZ w) (vA w), w)
    | 1 => some (.vperm (vD w) (vK w) (vZ w) (vA w) (vB w), w)
    | 2 => some (.vmaxi (vD w) (vK w) (vZ w) (vA w), w)
    | 7 => some (.vmaxiN (vD w) (vK w) (vZ w) (vA w), w)
    | 3 => some (.kand (vD w) (vA w) (vB w), w)
    | 4 => some (.kor (vD w) (vA w) (vB w), w)
    | 5 => some (.knot (vD w) (vA w), w)
    | 6 => some (.kmov (vD w) (vA w) (vB w), w)
    | _ => none

/-- Major 0x0F (R41): the instruction its function value names, and the word with an unlisted selector replaced. -/
def cand0F (w : BitVec 32) : Option (Instr × BitVec 32) :=
  match (vF w).toNat with
  | 0 => some (.fcvt (vD w) (vK w) (vZ w) (vA w) (vB w), w)
  | 1 => some (.frnd (vD w) (vK w) (vZ w) (vA w) (vB w), w)
  | 2 => some (.fseed (vD w) (vK w) (vZ w) (vA w) (vB w), w)
  | 3 => some (.fred (vD w) (vK w) (vZ w) (vA w) (vB w), w)
  | 4 => some (.fscale (vD w) (vK w) (vZ w) (vA w) (vB w), w)
  | 5 => some (.fexpo (vD w) (vK w) (vZ w) (vA w), w)
  | 6 => some (.fmant (vD w) (vK w) (vZ w) (vA w), w)
  | _ => none

/-- Major 0x10 (R41): the instruction its function value names, and the word with an unlisted selector replaced. -/
def cand10 (w : BitVec 32) : Option (Instr × BitVec 32) :=
  match (vZ w).toNat with
  | 0 => some (.vld (vD w) (vK w) (sA w) (sI8 w), w)
  | 1 => some (.vst (vD w) (vK w) (sA w) (sI8 w), w)
  | _ => none

/-- Major 0x11 (R41): the instruction its function value names, and the word with an unlisted selector replaced. Slot a of an MLEN whose z
names no form is judged as the register of MLEN.set; slot z of a word of MCFG with a reserved d counts as its tile, not as unused (log 60). -/
def cand11 (w : BitVec 32) : Option (Instr × BitVec 32) :=
  if w.getLsbD 25 then
    if w.getLsbD 24 then some (.mmag (mT w) (mK w) (mQ w) (mO w) (mP w), w)
    else some (.mma (mT w) (mK w) (mQ w) (mO w) (mP w), w)
  else match (sF w).toNat with
    | 0 => match (mD w).toNat with
      | 0 => some (.mcfg (sA w) (sZ w), w)
      | 1 => some (.mcfgGang (sA w), w)
      | _ => some (.mcfg (sA w) (sZ w), w &&& ~~~0x01F00000#32)
    | 1 => some (.mzero (sZ w), w)
    | 2 => some (.oclaim (mD w) (sA w), w)
    | 3 => some (.orelease (sA w), w)
    | 4 => some (.ofill (sA w) (sB w), w)
    | 5 => some (.mrdr (mD w) (sA w) (sZ w), w)
    | 6 => some (.mrdc (mD w) (sA w) (sZ w), w)
    | 7 => some (.mwrr (mD w) (sA w) (sZ w), w)
    | 8 => some (.mwrc (mD w) (sA w) (sZ w), w)
    | 9 => some (.mstat (mD w), w)
    | 10 => some (.merr (mD w) (sA w), w)
    | 11 => match (sZ w).toNat with
      | 0 => some (.mlenHold, w)
      | 1 => some (.mlenSet (sA w), w)
      | _ => some (.mlenSet (sA w), (w &&& ~~~3#32) ||| 1#32)
    | 12 => some (.mflush, w)
    | _ => none

/-- Major 0x12 (R41): the instruction its function value names, and the word with an unlisted selector replaced. -/
def cand12 (w : BitVec 32) : Option (Instr × BitVec 32) :=
  match (sF w).toNat with
  | 0 => some (.cdef (sD w) (sA w), w)
  | 1 => some (.cbind (sD w) (sA w) (sB w), w)
  | 2 => some (.crebind (sD w) (sA w) (sB w), w)
  | 3 => some (.cdrop (sD w) (sA w) (sB w), w)
  | 4 => some (.crd (sD w) (sA w) (sB w), w)
  | 5 => some (.cwr (sD w) (sA w) (sB w), w)
  | 6 => some (.cdone (sA w) (sB w), w)
  | 7 => some (.cwave (sA w), w)
  | 8 => some (.cwait (sA w) (sB w), w)
  | 9 => some (.crun (sA w) (sB w), w)
  | 10 => some (.cstat (sD w) (sA w) (sB w), w)
  | _ => none

/-- Major 0x13 (R41): the instruction its function value names, and the word with an unlisted selector replaced. -/
def cand13 (w : BitVec 32) : Option (Instr × BitVec 32) :=
  match (sF w).toNat with
  | 0 => some (.sopen (sD w) (sA w), w)
  | 1 => some (.sclose (sD w) (sA w), w)
  | 2 => some (.sgen (sD w) (sA w), w)
  | 3 => some (.spost (sD w) (sA w) (sB w), w)
  | 4 => some (.strunc (sD w) (sA w) (sB w), w)
  | 5 => some (.sckpt (sD w) (sA w), w)
  | 6 => some (.srefeed (sD w) (sA w) (sB w), w)
  | 7 => some (.smask (sD w) (sA w) (sB w), w)
  | 8 => some (.sframe (sD w) (sA w) (sB w), w)
  | 9 => some (.sstat (sD w) (sA w) (sB w), w)
  | 10 => some (.sfloor (sD w) (sA w) (sB w), w)
  | _ => none

/-- Major 0x14 (R41): the instruction its function value names, and the word with an unlisted selector replaced. -/
def cand14 (w : BitVec 32) : Option (Instr × BitVec 32) :=
  match (sF w).toNat with
  | 0 => some (.compose (sD w) (sA w) (sB w), w)
  | 1 => some (.release (sD w) (sA w), w)
  | 2 => some (.frstat (sD w) (sA w), w)
  | _ => none

/-- Major 0x15 (R41): the instruction its function value names, and the word with an unlisted selector replaced. -/
def cand15 (w : BitVec 32) : Option (Instr × BitVec 32) :=
  match (sF w).toNat with
  | 0 => some (.mcld (sA w) (sB w), w)
  | 1 => some (.mcst (sA w) (sB w), w)
  | 2 => some (.mcpush (sD w) (sA w) (sB w), w)
  | 3 => some (.tlbinv (sA w) (sB w), w)
  | 4 => if sZ w = 1 then some (.pgrelR (sD w), w) else some (.pgrelQ (sD w) (sA w) (sB w), w)
  | 5 => some (.qcnt (sD w), w)
  | 6 => some (.wswr (sD w) (sA w) (sB w), w)
  | 7 => some (.wsref (sD w) (sA w), w)
  | _ => none

/-- Major 0x16 (R41): the instruction its function value names, and the word with an unlisted selector replaced. -/
def cand16 (w : BitVec 32) : Option (Instr × BitVec 32) :=
  match (sF w).toNat with
  | 0 => some (.srd (sD w) (sI8 w), w)
  | 1 => some (.swr (sA w) (sI8 w), w)
  | _ => none

/-- Major 0x17 (R41): the instruction its function value names, and the word with an unlisted selector replaced. -/
def cand17 (w : BitVec 32) : Option (Instr × BitVec 32) :=
  match (sF w).toNat with
  | 0 => some (.trap (sA w) (sB w), w)
  | 1 => some (.dbgrd (sD w) (sA w) (sB w), w)
  | 2 => some (.dbgwr (sD w) (sA w) (sB w), w)
  | 3 => some (.thaw (sA w) (sB w), w)
  | 4 => some (.retire (sA w) (sB w), w)
  | 5 => match (sZ w).toNat with
    | 0 => some (.time (sD w), w)
    | 3 => some (.timeAr (sD w), w)
    | _ => some (.time (sD w), w &&& ~~~3#32)
  | 6 => some (.swsched (sD w) (sA w) (sB w), w)
  | 7 => some (.fencec (sD w) (sA w), w)
  | 8 => some (.remap (sD w) (sA w), w)
  | 9 => some (.dgrd (sD w) (sB w), w)
  | 10 => match (sZ w).toNat with
    | 0 => some (.dgchk (sD w) (sA w), w)
    | 1 => some (.dgchkFlt (sD w) (sA w), w)
    | _ => some (.dgchk (sD w) (sA w), w &&& ~~~3#32)
  | 11 => some (.tron (sD w) (sA w) (sB w), w)
  | 12 => some (.troff (sD w), w)
  | 13 => some (.bkpt (sD w) (sA w), w)
  | 14 => some (.halt (sD w) (sA w), w)
  | _ => none

/-- The instruction that the major and function of a word name: `.error 1` for an unassigned major, `.error 2` for an
unassigned function (R40, R41). -/
def cand (w : BitVec 32) : Except Nat (Instr × BitVec 32) :=
  if 0x18 ≤ (sMaj w).toNat then .error 1
  else match candOf (sMaj w).toNat w with
    | some c => .ok c
    | none => .error 2
where
  candOf (m : Nat) (w : BitVec 32) : Option (Instr × BitVec 32) :=
  match m with
  | 0 => cand00 w
  | 1 => cand01 w
  | 2 => cand02 w
  | 3 => cand03 w
  | 4 => cand04 w
  | 5 => cand05 w
  | 6 => cand06 w
  | 7 => cand07 w
  | 8 => cand08 w
  | 9 => cand09 w
  | 10 => cand0A w
  | 11 => cand0B w
  | 12 => cand0C w
  | 13 => cand0D w
  | 14 => cand0E w
  | 15 => cand0F w
  | 16 => cand10 w
  | 17 => cand11 w
  | 18 => cand12 w
  | 19 => cand13 w
  | 20 => cand14 w
  | 21 => cand15 w
  | 22 => cand16 w
  | 23 => cand17 w
  | _ => none

/-- Decode a 32-bit instruction: the lowest reason that applies (R47), or the instruction. -/
def decode32 (w : BitVec 32) : Except Nat Instr :=
  match cand w with
  | .error r => .error r
  | .ok (i, w') =>
    if encode i ≠ halves w' then .error 3
    else if wfReason i ≠ 0 then .error (wfReason i)
    else if w' ≠ w then .error 5
    else .ok i

def cOp (h : Half) : BitVec 5 := h.extractLsb' 11 5
def cD (h : Half) : BitVec 5 := h.extractLsb' 6 5
def cA (h : Half) : BitVec 5 := h.extractLsb' 1 5
def cM (h : Half) : BitVec 3 := h.extractLsb' 3 3
def cI3 (h : Half) : BitVec 3 := h.extractLsb' 0 3
def cI6 (h : Half) : BitVec 6 := h.extractLsb' 0 6
def cI11 (h : Half) : BitVec 11 := h.extractLsb' 0 11

/-- The compact instruction that the opcode of a halfword names (R38). -/
def candC (h : Half) : Except Nat Instr :=
  match (cOp h).toNat with
  | 0 => .error 6
  | 1 => .ok (.movC (cD h) (cA h))
  | 2 => .ok (.addC (cD h) (cA h))
  | 3 => .ok (.subC (cD h) (cA h))
  | 4 => .ok (.andC (cD h) (cA h))
  | 5 => .ok (.orC (cD h) (cA h))
  | 6 => .ok (.xorC (cD h) (cA h))
  | 7 => .ok (.addiC (cD h) (cI6 h))
  | 8 => .ok (.liC (cD h) (cI6 h))
  | 9 => .ok (.shlC (cD h) (cI6 h))
  | 10 => .ok (.shrC (cD h) (cI6 h))
  | 11 => .ok (.sraC (cD h) (cI6 h))
  | 12 => .ok (.ldDC (cD h) (cM h) (cI3 h))
  | 13 => .ok (.stDC (cD h) (cM h) (cI3 h))
  | 14 => .ok (.brC (cI11 h))
  | 15 => .ok (.brcNzC (cD h) (cI6 h))
  | 16 => .ok (.brcZC (cD h) (cI6 h))
  | 17 => match (cI11 h).toNat with
    | 0 => .ok .nopC
    | 1 => .ok .retC
    | 2 => .ok .endtC
    | _ => .error 7
  | _ => .error 7

/-- Decode a 16-bit instruction (R37, R38). -/
def decode16 (h : Half) : Except Nat Instr :=
  match candC h with
  | .error r => .error r
  | .ok i => if encode i ≠ [h] then .error 3 else .ok i

/-- Bits [15:14] of the first halfword give the length (R26). -/
def isLong (h : Half) : Bool := h.extractLsb' 14 2 = 3#2

/-- Decode the instruction that begins with halfword h, and whose second halfword, if it has one, is h2. -/
def decode (h h2 : Half) : Except Nat Instr :=
  if isLong h then decode32 (h2 ++ h) else decode16 h

/-- Length in bytes of an instruction (R26). -/
def instrLen (i : Instr) : Nat := 2 * (encode i).length

/-- The BITS field of R46: the instruction's bits, a 16-bit instruction in [15:0]. -/
def bitsOf (hs : List Half) : BitVec 32 :=
  match hs with
  | [h] => h.setWidth 32
  | h :: h2 :: _ => h2 ++ h
  | [] => 0

/-- The instruction this decoder reads from nbits bits numbered as the opcode table numbers them. -/
def decodeTableWord (nbits w : Nat) : Option Instr :=
  let v := if nbits = 16 then w % 2 ^ 16 else w % 2 ^ 32
  match decode (BitVec.ofNat 16 v) (BitVec.ofNat 16 (v / 2 ^ 16)) with
  | .ok i => some i
  | .error _ => none

end Sys2Proof
end

