-- ==== Sys2Proof/Config.lean ====
section
/-!
DEFINITION. What the spec leaves open: the free values, constants without a body, and the inputs that say which agent
of the package acts next.
-/
namespace Sys2Proof

/-- One move of one agent (log 1). The opcode table's events are moves too; a few moves have no row of their own. -/
inductive Turn where
  /-- the core or memory core e issues its next instruction, if it runs an activation -/
  | core (e : EId)
  /-- an operation or event of the device happens (a row of the table without an encoding) -/
  | event (i : Instr)
  /-- an engine port serves the request k in flight (CWAVE, CRUN, CWAIT; R231, R260–R262) -/
  | serve (k : Nat)
  /-- the host writes bytes of its own memory, at an IOVA of a PCIe function (R404) -/
  | hostWrite (fn iova : Nat) (bytes : List Byte)
  /-- the host completes accesses to [base, base + len) of a function's IOVAs with an error, or stops doing so (R295) -/
  | hostError (fn base len : Nat) (on : Bool)
  /-- the debug window of an element stops answering, until the element is remapped, or answers again (R391) -/
  | silence (e : EId) (on : Bool)
  /-- a logical position of a sorus fails the power-on test from the next package reset on, or passes it again (R25, R422) -/
  | damage (sorus : Nat) (on : Bool)
  /-- a transfer's next granule is read and leaves in a flit of the port to its peer (R417, R418) -/
  | xferSend (ctx : Nat)
  /-- a port replays its link from the first unacknowledged flit (R417) -/
  | replay (port : BitVec 4)
  /-- the management core signs an attestation report over a host nonce (R420) -/
  | attest (nonce : List (BitVec 64))
  /-- a corrected ECC error: kind 1 scratchpad or HBM, kind 2 slot or tile (R157, R273, R385) -/
  | corrected (e : EId) (kind : Nat)
  /-- the scheduler schedules a gang switch of a context at T, or lets it resume (R375, R394) -/
  | schedule (ctx : Nat) (t : Nat)
  deriving DecidableEq, Repr, Inhabited

/-- Which agent acts at step n when the state lists none (free: any order of agents; log 1). -/
opaque Config.turn : Nat → Turn
/-- How many clocks beyond one step n takes (free: no rule of correctness depends on latency, R84, R116; log 2). -/
opaque Config.elapsed : Nat → Nat
/-- Whether a TLB still holds, at step n, an entry it may hold (free: R294; log 3). -/
opaque Config.tlbHolds : Nat → Bool
/-- The serial number of this package, bits [47:0] of its identity (fixed at manufacture, R421; log 8). -/
opaque Config.serial : BitVec 48
/-- The signature of an attestation report by the package's identity key (R420). -/
opaque Config.sign : List Word → List Word
/-- A value the spec does not state, at step n (free; log 4). -/
opaque Config.freeWord : Nat → Word
/-- SIZE of a fault on a piece whose bytes are no power of two: R160 states it as a log2 (free; log 68). -/
opaque Config.oddSize : Nat → BitVec 3

end Sys2Proof
end

