-- ==== Sys2Proof/Machine/State.lean ====
section
/-!
DEFINITION. The state of the package as plain data, and its value after a package reset (R25, R422).
-/
namespace Sys2Proof.Machine

/-- Reasons a step stops. The spec's own faults freeze an element and are next states (R7, R366). -/
inductive Fault where
  /-- raised by the meaning of an instruction when the executing element runs no activation: an instruction is
  executed only within an activation (R13, R85). `step` never raises it. Safe: no effect is claimed. -/
  | noActivation
  deriving DecidableEq, Repr

/-- Reasons an instruction is refused. -/
inductive Refusal where
  /-- raised by `exec` for an instruction that has no meaning yet, by name. Safe: nothing is claimed about it. -/
  | notModelled (mnemonic : String)
  deriving DecidableEq, Repr

/-- A table by number: keys strictly rising. -/
abbrev Tbl (α : Type) := List (Nat × α)

/-- All bytes of the package and of host memory, by key, in canonical form: keys strictly rising and no byte zero;
an unlisted key reads zero (R422 zeroes the package's memories; host memory by log 5).
Keys: scratchpad byte o of element e is e × 2^16 + o; HBM byte at physical address p is 2^60 + p; host byte at IOVA i
of PCIe function f is 2^70 + f × 2^64 + i; weight-store byte o of die d is 2^62 + d × 2^32 + o; byte o of operand slot n of package sorus s is
2^63 + (s × 128 + n) × 2^11 + o; byte o of tile t of core e is 2^63 + 2^62 + (e × 4 + t) × 2^12 + o. -/
abbrev Memory := List Host.Cell

/-- The eight words a message carries (R121). -/
abbrev Words8 := Vector Word 8

/-! ### Channels, messages and activations (R85–R98, R118–R138) -/

/-- What a held message is, where it matters after delivery. -/
inductive MsgKind where
  /-- a message, notice, completion or token -/
  | plain
  /-- a fault packet, which its sender sends before anything else of its class (R366) -/
  | packet
  /-- an evaluation message of a cell of a sheet (R240), for the wave that makes generation gen (R392) -/
  | eval (ctx sheet cell gen : Nat)
  /-- the firing of an armed continuation of a frond's member, for its set-aside holding queue (R356) -/
  | firing
  deriving DecidableEq, Repr

structure Msg where
  kind : MsgKind
  words : Words8
  region : Bool             -- a bulk message: it holds the channel's receive region (R122)
  deriving DecidableEq, Repr

/-- The binding of a channel (R133). -/
structure Binding where
  prio : BitVec 7
  floor : Bool
  entry : BitVec 16
  wp : BitVec 16
  rsize : BitVec 8
  deriving DecidableEq, Repr

/-- The kind of an armed continuation (R97, R98, R193, R262). -/
inductive ContKind where
  | now
  | time (t : Word)
  | event (cond : Word)
  | message
  /-- armed by BAR (R193) -/
  | barrier
  /-- armed by CWAIT (R262) -/
  | cwait (sheet gen : Word)
  deriving DecidableEq, Repr

/-- An armed continuation slot; `fired` holds the words of R121 once a table, barrier or engine has fired it. -/
structure Cont where
  entry : BitVec 16
  kind : ContKind
  fired : Option Words8
  deriving DecidableEq, Repr

/-- One channel of an element or of a frond (R85, R97, R120, R122). -/
structure Chan where
  bind : Option Binding
  cont : Option Cont
  queue : List Msg          -- at most four, oldest first (R120)
  wait : Nat                -- the wait count of R86
  regionBusy : Bool         -- the receive region is not free (R122)
  deriving DecidableEq, Repr

/-- The running (or frozen) activation of an element: its registers (R13, R88, R103). -/
structure Act where
  chan : BitVec 4
  cont : Bool               -- CHAN.CONT
  frond : Bool              -- an activation of a frond channel (R355)
  prio : BitVec 7
  floor : Bool
  entry : Word              -- the entry it started at
  pc : Word                 -- the PC, or the resume PC while frozen
  wp : Word
  w : Vector Word 32
  mb : Words8
  inn : Words8              -- in0–in7
  dead : BitVec 32          -- DEADMASK
  begun : Bool              -- the first instruction has issued: WDCNT counts (R88, R96)
  wdStart : Int             -- TIME at which WDCNT was zero (R96)
  wdHeld : Option Nat       -- the clocks of WDCNT while a stop holds them
  digest : Word             -- DIGEST (R382)
  msg : Option Msg          -- the message that started it
  deriving DecidableEq, Repr

/-- An entry of the notice buffer (R125). -/
structure Notice where
  q : BitVec 4
  words : Words8
  deriving DecidableEq, Repr

/-- A configured bin set (R141–R143). -/
structure BinSet where
  kind : BitVec 3
  capl : BitVec 3
  count : Nat
  base : Nat
  applied : Nat
  isSealed : Bool
  deriving DecidableEq, Repr

/-- The state of an element other than having an activation or not (R369). -/
inductive Mode where
  | normal
  | frozen
  | stoppedBetween
  | stoppedIn
  | fenced
  deriving DecidableEq, Repr

/-- One translation a TLB may hold (R291–R294). -/
structure TlbEntry where
  va : Nat                  -- page base
  log2 : Nat                -- log2 of the page size
  pa : Nat
  ro : Bool
  xn : Bool
  tc : Bool
  deriving DecidableEq, Repr

/-- What a FENCE left to order: messages to the members that its scope had when it issued, and with scope 3 those of classes H and E,
wait for these flights (R192, R194). -/
structure FenceMark where
  members : List EId
  all : Bool
  ids : List Nat
  deriving DecidableEq, Repr

/-- A block transfer stopped by a fault: its instruction and PC, the granules done, and the digest with their stores folded in
(R300). -/
structure Transfer where
  insn : Instr
  pc : Word
  granules : Nat
  digest : Word
  deriving DecidableEq, Repr

/-! ### Matrix commands (R266–R289) -/

/-- The state of an operand slot (R266). -/
inductive SlotState where
  | free | empty | filling | full
  deriving DecidableEq, Repr

/-- An operand slot; its bytes stand in `Memory`. -/
structure Slot where
  state : SlotState
  owner : Option EId
  fmt : BitVec 8
  releasing : Bool          -- a release has not taken effect yet (R282)
  deriving DecidableEq, Repr

/-- An accumulator tile; its elements stand in `Memory` (R268). -/
structure Tile where
  shape : BitVec 3          -- 0 unconfigured
  kcnt : BitVec 32
  /-- the tile before each step of the command that writes it, with the elements that held an uncorrectable error (R273, R276) -/
  hist : List (List Byte × List Nat)
  doomed : Bool             -- its core was fenced: unconfigured as soon as the started command that writes it ends (R278)
  deriving DecidableEq, Repr

/-- An unconfigured tile. -/
def Tile.blank : Tile := { shape := 0, kcnt := 0, hist := [], doomed := false }

/-- The state of a share: waiting, running its next k-block, done, failed with a reason of R274. -/
inductive ShareState where
  | waiting
  | running (step : Nat)
  | done
  | failed (reason : Nat)
  deriving DecidableEq, Repr

/-- One share of a product: position p, the member's core, and its A operand's first slot (R274). An MMA has one. -/
structure Share where
  pos : Nat
  elem : EId
  aslot : Nat
  state : ShareState
  bA : Nat                  -- slots of one block of A, fixed at the share's start (R267, R272)
  fA : BitVec 8             -- format of A, fixed there too
  deriving DecidableEq, Repr

/-- What a command of a matrix queue does. -/
inductive CmdKind where
  /-- OFILL: source, descriptor; `pooled`: its own offsets were pooled at the push (R283, R348) -/
  | fill (source desc : Word) (pooled : Bool)
  /-- MMA or MMAG: tile, k-blocks, B's first slot, shape, ROWS, ganged; bB, the slots of one block of B and its format, is fixed
  once the B slots are checked -/
  | product (t : BitVec 2) (blocks : Nat) (oB : Nat) (shape : BitVec 3) (rows : Nat) (gang : Bool) (bB : Option (Nat × BitVec 8))
  deriving DecidableEq, Repr

/-- An entry of a matrix queue (R269). -/
structure Cmd where
  seq : BitVec 32
  bits : BitVec 32          -- the instruction's bits (R271)
  q : BitVec 4
  kind : CmdKind
  held : Bool
  after : List Nat          -- posted writes that the push released: the unit starts the command after them (R178)
  started : Bool
  startedAt : Nat           -- the step at which it started: fills run in the order in which they started (R270)
  filled : Nat              -- slots that a fill has copied (R283)
  ended : Bool              -- ended; the entry waits for its completions to be accepted
  shares : List Share
  replaced : Nat            -- elements replaced by zero (R273)
  comps : List Nat          -- completions of this command still in flight
  deriving DecidableEq, Repr

/-- One core or memory core (R13, R369, R370). -/
structure Elem where
  act : Option Act
  mode : Mode
  haltReq : Bool            -- a debug stop is pending (R399)
  stepReq : Bool            -- THAW with STEP: stop after one instruction (R392)
  stalled : Bool            -- the instruction at PC waits for an answer (R170, R192)
  insn : Option Instr       -- the instruction that was issued last; while stalled, the one that waits
  v : Vector Vec 16
  k : Vector Word 8
  regions : Vector Word 8
  pregions : Vector Word 8  -- pooled region set (R350)
  wcfg : Vector Word 8      -- WCFG0–WCFG7 (R149, R150)
  wdlim : BitVec 32
  avail : Nat               -- AVAIL (R124)
  nq : BitVec 4
  nen : Bool
  ovf : Bool
  undel : BitVec 16
  allowArm : Option (Nat × BitVec 4 × Bool)   -- armed allowance notice: THRESH, Q, and whether it has become due (R132)
  notices : List Notice     -- notice buffer, at most four (R125)
  chans : Vector Chan 16
  lastStart : Tbl Nat       -- last channel started at a priority; 15 where unlisted (R86)
  bins : Vector (Option BinSet) 8
  combo : Word              -- COMBO (R382)
  lastD : Word              -- digest of the last ended activation (R396)
  pseq : BitVec 32          -- packets raised since launch (R367)
  lastFault : BitVec 8      -- LAST (R370)
  evc : Words8              -- EVC0–EVC7 (R385)
  banks : List Nat          -- the four most recently used workspaces (R91)
  tlb : List (Nat × TlbEntry)   -- translations, each with the root that it was walked from (R384)
  fences : List FenceMark
  transfer : Option Transfer
  tokens : Option (List Byte)   -- the tokens that the SPOST which waits captured at its issue (R336)
  issued : Option Nat       -- a posted atomic with acquire that was issued and is awaited (R190)
  hostTimeout : Bool        -- the next completion of a host access times out (R295, R409)
  traced : Nat              -- TIME of this element's latest trace record (R386)
  /-- halfwords of the own scratchpad that other elements overwrote while the activation runs: offset and old value; a fetch
  may still see one (R28) -/
  olds : List (Nat × Half)
  silent : Bool             -- the debug window does not answer (R391)
  since : Nat               -- TIME at which the instruction that was issued last was first issued (R391)
  tstate : Nat              -- STATE of this element's latest trace record (R386)
  tiles : Vector Tile 4
  mq : List Cmd             -- the matrix queue, oldest first
  mseq : BitVec 32          -- next sequence number (R269)
  gang : Word               -- gang register (R280)
  holdArm : Bool            -- MLEN.hold armed (R288)
  merrLog : List Word       -- error log, at most eight entries (R287)
  lost : Nat
  merr : Bool               -- ERR of MSTAT (R286)
  weight : BitVec 5         -- W(m) (R270)
  deriving DecidableEq, Repr

/-! ### Traffic in flight (R116–R126, R169–R172, R252) -/

/-- The words an undeliverable notice carries beyond its reason: in1, in2 without its reason, in3–in7 (R121, R171). -/
structure NoticeInfo where
  in1 : Word
  in2 : Word
  rest : List Word
  deriving DecidableEq, Repr

/-- What the acceptance or refusal of a message returns: the allowance unit, the notice, the matrix entry. -/
structure Ret where
  credit : Option EId
  notice : Option NoticeInfo
  cmd : Option (EId × BitVec 32)
  record : Option (BitVec 32) := none   -- the TAG of the WORK record that sent the message (R411)
  deriving DecidableEq, Repr

/-- What a report names of the instruction that issued a request (R253, R367). -/
structure Origin where
  chan : Nat
  cont : Bool
  frond : Option (Nat × Nat)
  pc : Word
  wp : Word
  entry : Word
  wd : Nat
  deriving DecidableEq, Repr

/-- What travels. -/
inductive Body where
  /-- a short class-C message to channel q (R120) -/
  | msg (q : BitVec 4) (m : Msg) (ret : Ret)
  /-- a bulk message (R122) -/
  | bulk (q : BitVec 4) (m : Msg) (payload : List Byte) (ret : Ret)
  /-- a tile push with its token (R303) -/
  | push (q : BitVec 4) (m : Msg) (dst : Nat) (payload : List Byte) (ret : Ret)
  /-- a work-queue item: scope and its members, channel (R130, R194) -/
  | work (scope : Nat) (members : List EId) (q : BitVec 4) (m : Msg) (ret : Ret)
  /-- a host record (R131) -/
  | hostRec (words : List Word) (ret : Ret)
  /-- SENDK items for a bin set (R140, R141) -/
  | items (set : BitVec 3) (items : List (BitVec 32 × BitVec 32)) (ret : Ret)
  /-- an event request: 0 set, 1 clear, 2 add (R136) -/
  | evReq (op : Nat) (name : BitVec 16) (v : Word)
  /-- an arm request of channel q's slot, own or of the frond (R138) -/
  | evArm (cond : Word) (frond : Bool) (q : BitVec 4)
  | rst (addr : Word) (off size : Nat) (data : Word)
  | ramo (addr : Word) (off : Nat) (op : BitVec 3) (b desc : Word)
  | rcas (addr : Word) (off : Nat) (want new desc : Word)
  /-- RCOPY of the source at off; `pooled`: the issuer was a frond, and its offsets are pooled (R349) -/
  | rcopy (addr : Word) (off : Nat) (desc : Word) (pooled : Bool)
  /-- an allowance unit on its way back (R123) -/
  | credit
  /-- an undeliverable notice on its way back (R125) -/
  | notice (words : Words8)
  /-- a barrier arrival at a scope, of the slot of channel q (R193) -/
  | barrier (scope : Nat) (frond : Bool) (q : BitVec 4)
  | crd (head : Word) (cells : List Nat) (desc : Word)
  | cwr (cell : Word) (doff : Nat) (bytes : List Byte) (org : Origin)
  | cdone (word status : Word) (org : Origin)
  /-- an evaluation was lost: its word, with the reason and value of report 0x45 (R253) -/
  | evalLost (word : Word) (reason value : Nat)
  | cwave (desc : Word)
  | crun (desc budget : Word)
  | cwait (wait : Word) (frond : Bool) (q : BitVec 4)
  deriving DecidableEq, Repr

structure Flight where
  id : Nat
  ctx : Nat
  src : EId
  dst : Option EId          -- none: coordinates that no position has (R10)
  body : Body
  after : List Nat          -- flights that must end before this one may (R126, R180, R181, R192)
  deriving DecidableEq, Repr

/-! ### Events, barriers and work queues (R130, R135–R138, R193) -/

structure Waiter where
  elem : EId
  frond : Bool              -- the arming is of a frond channel's slot (R354)
  q : BitVec 4
  cond : Word
  deriving DecidableEq, Repr

structure Event where
  value : Word
  waiters : List Waiter     -- in the order added
  deriving DecidableEq, Repr

/-- The barrier state of one scope at one place: arrivals made by each member, and the arrivals not yet completed. -/
structure Barrier where
  scope : Nat
  place : Nat               -- entry 1: the sorus or memory core; entry 2: the die; else 0
  episode : Nat             -- completed episodes
  counts : Tbl Nat          -- arrivals made, by element
  /-- element, whether the slot is a frond channel's, channel, its arrival number -/
  waiting : List (EId × Bool × BitVec 4 × Nat)
  deriving DecidableEq, Repr

structure WorkItem where
  die : Nat
  scope : Nat
  members : List EId
  q : BitVec 4
  msg : Msg
  deriving DecidableEq, Repr

/-- A programmable scope entry: MEM and its rectangles (die, x0, y0, w, h) in absolute coordinates (R187, R69). -/
structure Rect where
  die : Nat
  x0 : Nat
  y0 : Nat
  w : Nat
  h : Nat
  deriving DecidableEq, Repr

structure Scope where
  mem : Bool
  rects : List Rect
  deriving DecidableEq, Repr

/-! ### Sheets (R229–R263) -/

inductive CellState where
  | fresh | stale | evaluating | faulted
  deriving DecidableEq, Repr

structure CellEntry where
  rows : Nat
  cols : Nat
  fmt : BitVec 8
  home : EId
  buf0 : Word
  buf1 : Word
  q : BitVec 4
  entry : BitVec 16
  lag : BitVec 8
  prec : List Nat
  state : CellState
  inWave : Bool
  next : Bool
  wpend : Bool
  wtaken : Bool
  cur : Bool                -- CUR: the committed buffer is BUF1
  flipGen : Nat
  deriving DecidableEq, Repr

/-- What a wave request asks for, and who is told (R260, R317, R333, R336, R338). -/
inductive WaveReq where
  | core (src : EId) (q : BitVec 4)
  | program
  | stream (sn : Nat)
  | truncation (sn : Nat)
  deriving DecidableEq, Repr

structure Wave where
  req : WaveReq
  set : List Nat
  failed : List (Nat × Nat)           -- failed cells, with their ranks
  deriving DecidableEq, Repr

/-- A pending or held edit (R245–R247, R255, R256). -/
structure Edit where
  src : EId
  op : Nat                            -- 1 CBIND, 2 CREBIND, 3 CDROP
  cell : Nat
  q : BitVec 4
  entry : BitVec 16
  lag : BitVec 8
  prec : List Nat
  desc : Word                         -- the report descriptor (R247)
  org : Origin
  deriving DecidableEq, Repr

structure HeldWrite where
  cell : Nat
  doff : Nat
  bytes : List Byte
  checkpoint : Option (Nat × Nat)     -- stream and slot, for a checkpoint copy (R320)
  deriving DecidableEq, Repr

structure HeldRead where
  src : EId
  head : Word
  cells : List Nat
  desc : Word
  deriving DecidableEq, Repr

/-- A running wave program (R248). -/
structure ProgRun where
  prog : Nat
  src : EId
  q : BitVec 4
  budget : Option Nat
  node : Nat
  waves : Nat
  waiting : Bool                      -- a WAVE node's wave has not ended
  deriving DecidableEq, Repr

/-- What a breakpoint is compared with: the evaluation of a cell, or a node of the running program (R388). -/
inductive BreakItem where
  | cell (e : Nat)
  | node (i : Nat)
  /-- an item whose wave or program has ended while its sheet stands halted -/
  | ended
  deriving DecidableEq, Repr

structure Sheet where
  gen : Nat
  cells : Tbl CellEntry
  reqs : List WaveReq
  wave : Option Wave
  edits : List Edit
  writes : List HeldWrite
  reads : List HeldRead
  progs : List (List Word)            -- wave programs, nodes as words (R71)
  run : Option ProgRun
  halted : Option BreakItem           -- halted at a breakpoint that this item matched (R388)
  passed : List BreakItem             -- matched items that proceed without being matched again
  deriving DecidableEq, Repr

structure GenWait where
  src : EId
  frond : Bool
  q : BitVec 4
  sheet : Nat
  gen : Nat
  deriving DecidableEq, Repr

/-! ### Streams (R309–R343) -/

inductive Phase where
  | closed | opening | idle | step | committing | truncating | refeed
  deriving DecidableEq, Repr

inductive StreamEventKind where
  | frame (stamp : Nat) (play : Bool) (toks : List (BitVec 32))
  | violation (u : Nat)
  deriving DecidableEq, Repr

structure StreamEvent where
  seq : Nat
  kind : StreamEventKind
  deriving DecidableEq, Repr

/-- A stream template (R72). -/
structure Template where
  sheet : Nat
  kve : Nat
  kvn : Nat
  stateCell : Nat
  cke : Nat
  ckn : Nat
  kint : Nat
  ring : Nat
  fq : Nat
  deriving DecidableEq, Repr

structure MaskArm where
  sheet : Nat
  cell : Nat
  gen : Nat
  deadline : Word
  deriving DecidableEq, Repr

/-- The provisional record: start v, count n, and whether the provisional step has committed (R322, R323). -/
structure Provisional where
  v : Nat
  n : Nat
  committed : Bool
  found : Bool              -- a violation was found and its event queued
  mask : MaskArm
  deriving DecidableEq, Repr

/-- A truncation in flight (R317). -/
structure Truncation where
  s : Nat
  toks : List (BitVec 32)
  cause : Nat
  slot : Nat
  ck : Nat
  disc : Bool
  deriving DecidableEq, Repr

structure Stream where
  ctx : Nat
  tmpl : Template
  owner : EId
  q : BitVec 4
  base : Nat                          -- ring base IOVA
  g : Nat
  p : Nat
  f : Nat
  c : Nat
  r : Nat
  seq : Nat
  cgen : Nat
  phase : Phase
  ck : Tbl Nat                        -- valid checkpoint slots, with CKPOS
  ckPend : Tbl Nat                    -- slots whose copy is not yet committed
  queue : List StreamEvent
  mask : Option MaskArm
  prov : Option Provisional
  stepMode : Nat                      -- mode of the open step
  posted : List (BitVec 32)           -- tokens of the committing step
  fed : Nat                           -- count of the committing refeed chunk
  isFeed : Bool
  kept : List (BitVec 32)             -- withheld tokens of [c, g)
  trunc : Option Truncation
  w : Nat                             -- ring write index
  ovf : Bool
  deriving DecidableEq, Repr

/-! ### Fronds (R346–R364) -/

structure Frond where
  leader : EId
  scope : Nat
  origin : EId
  w : Nat
  h : Nat
  composed : Bool                     -- false: joining, or releasing
  releasing : Bool                    -- from the acceptance of a RELEASE until every member has resumed selection (R364)
  restart : Option Act                -- an activation that a fence interrupted and that is to start again (R359)
  binding : Word                      -- the binding word of COMPOSE
  regs : Vector Word 32               -- w0–w31 for the first activation
  starts : Nat                        -- 0 no activation has started, 1 the first is the latest, 2 a later one is
  chans : Vector Chan 16
  lastStart : Tbl Nat
  deriving DecidableEq, Repr

/-! ### Contexts (R21, R366–R398, R404–R418) -/

structure Ring where
  base : Nat
  log2n : Nat
  en : Bool
  w : Nat
  deriving DecidableEq, Repr

/-- One copy of the image in HBM, its COORD fields rewritten, and the translation it was loaded with (R56, R74). -/
structure LoadCopy where
  image : List Byte
  dieOff : Nat
  ox : Nat
  oy : Nat
  deriving DecidableEq, Repr

/-- What a process-group table says of this package (R416): SHARE, rank, NRANK, the GROUP number, and the peer rank of each of
ports 0–15, 0xFFFF for an unused port. -/
structure ProcGroup where
  share : Nat
  rank : Nat
  nrank : Nat
  group : Word
  peers : List Nat
  deriving DecidableEq, Repr

/-- Which run of a launch is loaded or runs (R383, R384). -/
inductive RunPhase where
  | first
  /-- the serial run of a replaying launch: how many elements differed in the first run, and its launch digest -/
  | serial (bad : Nat) (digest : Word)
  /-- the third copy of a twin launch, with the digests of copies A and B -/
  | third (a b : Word)
  deriving DecidableEq, Repr

/-- A launch being loaded, loaded or completed (R80, R81, R409, R410). -/
structure Load where
  tag : BitVec 32
  flags : BitVec 8
  args : Words8
  digtab : Option Nat                 -- the VA of the digest table, if there is one
  group : Option ProcGroup            -- (R416)
  sup : EId
  copies : List LoadCopy              -- one, or the two of a twin launch (R384)
  /-- scope entries 4–31 of the context, and their barriers, before the launch (R80, R187) -/
  scopes : Tbl Scope
  barriers : List Barrier
  sheets : List Nat                   -- sheets and templates that the launch made
  templates : List Nat
  /-- load chunks that placed elements have still to receive, as (role, offset), in order; END is the last (R80, R81) -/
  pending : Tbl (List (Nat × Nat))
  chunks : Tbl (List (Nat × Nat))     -- all that each placed element is sent, for a reload (R82)
  complete : List EId                 -- elements that have reported complete
  /-- their region registers and the memory tags of their scratchpads before the launch -/
  saved : Tbl (Vector Word 8 × Vector Word 8 × Tbl (BitVec 4))
  posted : Bool
  completed : Bool
  phase : RunPhase
  deriving DecidableEq, Repr

structure TraceSession where
  base : Nat                          -- the buffer's VA
  log2 : Nat
  wrap : Bool
  scope : Nat
  opener : EId                        -- the element whose user scopes are meant
  w : Nat
  deriving DecidableEq, Repr

/-- A transfer in progress (R418): the tag and doublewords 1–5 of its record, and how far it has come. -/
structure XferRun where
  tag : BitVec 32
  words : List Word
  sent : Nat                          -- granules that have left
  deriving DecidableEq, Repr

inductive SwitchState where
  | running
  /-- stopped at T, not yet saved (R375–R377) -/
  | stopping
  /-- switched out (R377, R378) -/
  | out
  deriving DecidableEq, Repr

/-- A report of an engine that waits to be delivered (R368): the engine's port, the packet, and whether it was raised while the
supervisor was fenced, so that it goes to the host. -/
structure Report where
  engine : EId
  toHost : Bool
  words : Words8
  deriving DecidableEq, Repr

structure Ctx where
  soruses : List Nat
  memcores : List EId
  root : Nat
  allotBase : Nat
  allotSize : Nat
  sliceFirst : Nat
  sliceCount : Nat
  key : Word
  weights : List Nat
  share : Nat
  prio : BitVec 7
  switch : SwitchState
  switchAt : Option Nat               -- T of a scheduled switch
  switchYield : Bool                  -- that switch was scheduled by SWSCHED (R394)
  sup : Option EId                    -- supervisor core
  scopes : Tbl Scope
  templates : Tbl Template
  sheets : Tbl Sheet
  /-- cells of abandoned waves: sheet, cell and the low 32 bits of G + 1; a sheet that is gone keeps its own (R242, R259) -/
  abandoned : List (Nat × Nat × Nat)
  waits : List GenWait                -- CWAIT continuations not yet fired
  events : Tbl Event
  barriers : List Barrier
  work : List WorkItem                -- both units' items, in the order accepted
  window : Memory                     -- record slots of the launch window
  doorbell : Nat
  consumed : Nat
  hq : Ring
  cq : Ring
  held : List (List Word)             -- completions not yet published
  load : Option Load
  twin : List (List EId)              -- the elements of copies A and B of a twin launch (R384)
  shadow : Nat                        -- the translation root of copy B's memory cores
  parkedFrames : List (BitVec 32 × Nat × List Byte)  -- tag, SN and frame posted while switched out (R330)
  quarantine : List (Nat × Nat × Nat) -- frame, size code, tf
  trace : Option TraceSession
  bkpts : Vector Word 4
  reports : List Report               -- report queue and its spill, oldest first (R368)
  xfers : List XferRun
  counts : Tbl (Nat × Nat)            -- SENT and RCVD of each element and port (R377)
  deriving DecidableEq, Repr

/-! ### The package -/

/-- A trace record with its TIME-ordered content (R386): the 128 bits. -/
abbrev TraceRec := BitVec 128

/-- What a flit holds between its numbers and its CRC (R417): context, virtual channel, credits and the 232 bytes of payload. -/
structure FlitBody where
  ctx : Nat
  vc : Byte
  credits : BitVec 80
  payload : List Byte
  deriving DecidableEq, Repr

/-- A flit in a port's replay buffer: SEQ, ACK and contents, and the TAG of the transfer whose granule it carries (R417). -/
structure TxFlit where
  seq : BitVec 16
  ack : BitVec 16
  body : FlitBody
  tag : BitVec 32
  deriving DecidableEq, Repr

structure Port where
  up : Bool
  expect : BitVec 16                  -- next SEQ expected
  dropping : Bool                     -- dropping until the retransmission
  failures : Nat                      -- failed replays of the flit expected
  next : BitVec 16                    -- SEQ of the next flit sent
  unacked : List TxFlit               -- the replay buffer: at most 256 flits, oldest first
  replays : Nat                       -- replays of the first unacknowledged flit
  got : List FlitBody                 -- contents of the flits accepted for transfers that have not ended, oldest first
  deriving DecidableEq, Repr

def Port.reset : Port :=
  { up := true, expect := 0, dropping := false, failures := 0, next := 0, unacked := [], replays := 0, got := [] }

structure Package where
  mailbox : Bool                      -- the host mailbox is enabled (R25)
  counter : Nat                       -- the secure element's monotonic counter (R420)
  reply : List Word                   -- reply of the last mailbox command
  remap : List (Nat × Nat)            -- logical package sorus and spare index, newest first (R11)
  failing : List Nat                  -- package soruses that fail the power-on test, rising (R25, R422)
  firmware : Vector Word 8            -- hash of the firmware that the boot ROM checked (R420)
  config : Vector Word 8              -- hash of the configuration record
  ports : Vector Port 16
  collectors : Vector (List (Nat × TraceRec)) 2     -- context and record, oldest first
  traceLost : Tbl Nat                 -- records lost, by die × 64 + context
  deriving DecidableEq, Repr

/-- The whole package. -/
structure State where
  time : Nat                          -- TIME (R104), modulo 2^64 where read
  /-- the model's own counters: moves made, and the next flight's number (log 4) -/
  stepNo : Nat
  nextId : Nat
  turns : List Turn                   -- the moves to come, in order; free when empty (log 1)
  cur : EId                           -- the element whose instruction is executed
  mem : Memory
  tags : Tbl (BitVec 4)               -- non-zero memory tags, by key of the line or granule (R154, R296)
  poison : List Nat                   -- keys holding uncorrectable errors, rising (R157, R273)
  elems : Tbl Elem
  slots : Tbl Slot                    -- operand slots, by package sorus × 128 + slot
  ctxs : Tbl Ctx
  fabric : List Flight                -- oldest first
  fronds : List Frond
  streams : Tbl Stream                -- open streams, by SN
  hostErrors : List (Nat × Nat)       -- ranges of host memory, as functions see it, that complete with an error
  pkg : Package
  deriving DecidableEq, Repr

/-- A channel after reset: unbound, nothing held. -/
def Chan.reset : Chan := { bind := none, cont := none, queue := [], wait := 0, regionBusy := false }

/-- WCFG1–WCFG7 after reset: LANE 1 (R149); WCFG0 reads the same word (R150). -/
def wcfgReset : Word := 0x100000#64

/-- A core or memory core after reset (R25, R93, R103, R124, R149, R152, R286). Registers that the spec gives no reset
value (v, k, LAST, banks) are zero (log 6). -/
def Elem.reset : Elem :=
  { act := none, mode := .normal, haltReq := false, stepReq := false, stalled := false, insn := none,
    v := Vector.replicate 16 0, k := Vector.replicate 8 0, regions := Vector.replicate 8 0,
    pregions := Vector.replicate 8 0, wcfg := Vector.replicate 8 wcfgReset, wdlim := 0x00100000#32, avail := 16, nq := 0,
    nen := false, ovf := false, undel := 0, allowArm := none, notices := [], chans := Vector.replicate 16 Chan.reset,
    lastStart := [], bins := Vector.replicate 8 none, combo := 0, lastD := 0, pseq := 0, lastFault := 0,
    evc := Vector.replicate 8 0, banks := [], tlb := [], fences := [], transfer := none, tokens := none, issued := none, hostTimeout := false,
    traced := 0, olds := [], silent := false, since := 0, tstate := 3, tiles := Vector.replicate 4 Tile.blank, mq := [], mseq := 0,
    gang := 0, holdArm := false, merrLog := [], lost := 0, merr := false, weight := 1 }

/-- The package after reset (R25). -/
def Package.reset : Package :=
  { mailbox := false, counter := 0, reply := [], remap := [], failing := [], firmware := Vector.replicate 8 0,
    config := Vector.replicate 8 0, ports := Vector.replicate 16 Port.reset,
    collectors := Vector.replicate 2 [], traceLost := [] }

/-- The machine right after a package reset: no context, every element idle, the tables empty (R25, R422). -/
def State.reset : State :=
  { time := 0, stepNo := 0, nextId := 0, turns := [], cur := 0, mem := [], tags := [], poison := [], elems := [],
    slots := [], ctxs := [], fabric := [], fronds := [], streams := [], hostErrors := [], pkg := Package.reset }

end Sys2Proof.Machine
end

