-- ==== Sys2Proof/Machine/Ops.lean ====
section
/-!
DEFINITION. The named operations: tables, memory, coordinates, contexts, registers, address resolution and the checks
of R158, digests, traffic, taking a fault (R366–R371) and ending, starting and resuming activations.
-/
namespace Sys2Proof.Machine

/-! ### Tables by number -/

def tget {α : Type} : Tbl α → Nat → Option α
  | [], _ => none
  | (k', v) :: t, k => if k = k' then some v else tget t k

def tset {α : Type} : Tbl α → Nat → α → Tbl α
  | [], k, v => [(k, v)]
  | (k', v') :: t, k, v =>
    if k < k' then (k, v) :: (k', v') :: t
    else if k = k' then (k, v) :: t
    else (k', v') :: tset t k v

def tdel {α : Type} (t : Tbl α) (k : Nat) : Tbl α := t.filter (fun p => p.1 != k)

/-- Apply a function to every value of a table. -/
def tmap {α : Type} (f : α → α) (t : Tbl α) : Tbl α := t.map (fun p => (p.1, f p.2))

/-- Insertion of a number into a rising list without repeats, and its removal. -/
def sinsert : List Nat → Nat → List Nat
  | [], k => [k]
  | k' :: t, k => if k < k' then k :: k' :: t else if k = k' then k' :: t else k' :: sinsert t k

/-- Insertion sort by a key, stable. -/
def insertBy {α : Type} (key : α → Nat) (x : α) : List α → List α
  | [] => [x]
  | y :: ys => if key x < key y then x :: y :: ys else y :: insertBy key x ys

def sortBy {α : Type} (key : α → Nat) (l : List α) : List α := l.foldl (fun acc x => insertBy key x acc) []

/-- Vector element by number, and its replacement. -/
def vget {α : Type} {n : Nat} (d : α) (v : Vector α n) (i : Nat) : α := (v[i]?).getD d
def vset {α : Type} {n : Nat} (v : Vector α n) (i : Nat) (x : α) : Vector α n := v.setIfInBounds i x

/-! ### Memory (R4): one byte at a time, canonical -/

/-- The byte at a key; an unlisted key reads zero. -/
def memGet : Memory → Nat → Byte
  | [], _ => 0
  | (k', b) :: m, k => if k = k' then b else memGet m k

/-- Write one byte, keeping the canonical form: writing zero removes the entry. -/
def memSet : Memory → Nat → Byte → Memory
  | [], k, b => if b = 0 then [] else [(k, b)]
  | (k', b') :: m, k, b =>
    if k < k' then (if b = 0 then (k', b') :: m else (k, b) :: (k', b') :: m)
    else if k = k' then (if b = 0 then m else (k, b) :: m)
    else (k', b') :: memSet m k b

/-- Keys rise strictly from k on and no byte is zero. -/
def memWfFrom : Nat → Memory → Bool
  | _, [] => true
  | lo, (k, b) :: m => decide (lo ≤ k) && decide (b ≠ 0) && memWfFrom (k + 1) m

/-- The canonical form of memory. -/
def Memory.wf (m : Memory) : Bool := memWfFrom 0 m

/-- Write consecutive bytes from a key upward. -/
def memWrite : Memory → Nat → List Byte → Memory
  | m, _, [] => m
  | m, k, b :: bs => memWrite (memSet m k b) (k + 1) bs

/-- Read n consecutive bytes. -/
def memRead (m : Memory) (k : Nat) : Nat → List Byte
  | 0 => []
  | n + 1 => memGet m k :: memRead m (k + 1) n

/-- Little-endian value of bytes (R4). -/
def leNat : List Byte → Nat
  | [] => 0
  | b :: bs => b.toNat + 256 * leNat bs

/-- The n low bytes of a value, lowest first (R4). -/
def leBytes : Nat → Nat → List Byte
  | 0, _ => []
  | n + 1, v => BitVec.ofNat 8 v :: leBytes n (v / 256)

def leWord (bs : List Byte) : Word := BitVec.ofNat 64 (leNat bs)

def wordBytes (w : Word) : List Byte := leBytes 8 w.toNat

/-- Bits [hi:lo] of a word as a number. -/
def fld (w : Word) (hi lo : Nat) : Nat := w.toNat / 2 ^ lo % 2 ^ (hi + 1 - lo)

/-- A number as a word shifted to bit lo. -/
def bitsAt (v lo : Nat) : Word := BitVec.ofNat 64 (v * 2 ^ lo)

/-- Sign-extend the low w bits of a number (R3). -/
def sextNat (v w : Nat) : Int := if v % 2 ^ w < 2 ^ (w - 1) then (v % 2 ^ w : Nat) else (v % 2 ^ w : Nat) - (2 ^ w : Nat)

def log2up : Nat → Nat → Nat
  | 0, _ => 0
  | f + 1, n => if n ≤ 1 then 0 else 1 + log2up f (n / 2)

/-- log2 of a power of two up to 2^64. -/
def lg (n : Nat) : Nat := log2up 64 n

def words8 (l : List Word) : Words8 := Vector.ofFn (fun i : Fin 8 => l.getD i.val 0)

/-! ### Coordinates (R9, R12, R102) -/

def eDie (e : EId) : Nat := e / 8192
def eX (e : EId) : Nat := e / 64 % 128
def eY (e : EId) : Nat := e % 64
def mkE (die x y : Nat) : EId := die * 8192 + x * 64 + y

/-- Cores stand at x 0–63, y 0–31; memory cores at x 64–67, y 0–31 (R9). -/
def isCore (e : EId) : Bool := decide (eDie e < 2) && decide (eX e < 64) && decide (eY e < 32)
def isMemCore (e : EId) : Bool := decide (eDie e < 2) && decide (64 ≤ eX e) && decide (eX e ≤ 67) && decide (eY e < 32)
/-- The memory core that serves channel c of HBM stack s: stacks 0–3 attach to die 0, stacks 4–7 to die 1 (R16). -/
def hbmServer (s c : Nat) : EId := mkE (s / 4) (64 + c % 4) (8 * (s % 4) + c / 4)
/-- The stack and channel that a memory core serves. -/
def hbmChannelOf (e : EId) : Nat × Nat := (4 * eDie e + eY e / 8, 4 * (eY e % 8) + (eX e - 64))
/-- Bytes of HBM: eight stacks of 48 GB, a GB taken as 2^30 bytes (R16, R22; log 63). -/
def hbmCapacity : Nat := 8 * 48 * 2 ^ 30
/-- Interface positions: x 64–67, y 32–33 (R18). -/
def isInterface (e : EId) : Bool := decide (eDie e < 2) && decide (64 ≤ eX e) && decide (eX e ≤ 67) && decide (32 ≤ eY e) && decide (eY e ≤ 33)

/-- Member index and package sorus index of a core; zero on a memory core (R12, R102). -/
def memberOf (e : EId) : Nat := if isCore e then eX e % 4 + 4 * (eY e % 2) else 0
def sorusOf (e : EId) : Nat := 256 * eDie e + 16 * (eY e / 2) + eX e / 4
def sorusInDie (e : EId) : Nat := if isCore e then 16 * (eY e / 2) + eX e / 4 else 0
/-- The core that is member m of a package sorus (R12). -/
def sorusMember (so m : Nat) : EId := mkE (so / 256) (4 * (so % 16) + m % 4) (2 * (so % 256 / 16) + m / 4)

/-- The interface positions (R18): the engine port of a die, the host link, the management core, the trace collector, the port of
the configuration flash and the secure element, the die-to-die link of a die, and scale-out port k, two to a position. -/
def enginePort (die : Nat) : EId := mkE die 67 32
def hostLink : EId := mkE 0 64 32
def mgmtCore : EId := mkE 0 65 32
def traceCollector : EId := mkE 1 64 32
def flashPort : EId := mkE 1 65 32
def dieLink (die : Nat) : EId := mkE die 66 32
def scaleOutPort (k : Nat) : EId := mkE (k / 8) (64 + k % 8 / 2) 33

/-- Enumeration by (die, y, x) (R187). -/
def enumKey (e : EId) : Nat := eDie e * 8192 + eY e * 128 + eX e

/-! ### Keys of memory -/

def scratchKey (e : EId) (o : Nat) : Nat := e * 65536 + o
def hbmKey (pa : Nat) : Nat := 2 ^ 60 + pa
/-- Host memory as a PCIe function sees it: function f (0 the physical function, n the virtual function of context n − 1) at an
IOVA. The requester ID of every access names the function (R404; log 10). -/
def hostAt (fn iova : Nat) : Nat := fn * 2 ^ 64 + iova % 2 ^ 64
/-- The function of a context, and of the management core (R404). -/
def ctxFn (ctx : Nat) : Nat := ctx + 1
def mgmtFn : Nat := 0
def hostKey (h : Nat) : Nat := 2 ^ 70 + h
def weightKey (die o : Nat) : Nat := 2 ^ 62 + die * 2 ^ 32 + o
def slotKey (so slot o : Nat) : Nat := 2 ^ 63 + (so * 128 + slot) * 2048 + o
def tileKey (e : EId) (t o : Nat) : Nat := 2 ^ 63 + 2 ^ 62 + (e * 4 + t) * 4096 + o

/-! ### Elements and contexts -/

def State.elem (s : State) (e : EId) : Elem := (tget s.elems e).getD Elem.reset
def State.setElem (s : State) (e : EId) (E : Elem) : State := { s with elems := tset s.elems e E }
def State.updElem (s : State) (e : EId) (f : Elem → Elem) : State := s.setElem e (f (s.elem e))

/-- The activation of the element whose instruction is executed. -/
def State.act (s : State) : Option Act := (s.elem s.cur).act
def State.setAct (s : State) (A : Act) : State := s.updElem s.cur (fun E => { E with act := some A })

def Ctx.owns (c : Ctx) (e : EId) : Bool :=
  if isCore e then c.soruses.contains (sorusOf e) else c.memcores.contains e

/-- The context whose partition holds a core, or that admits a memory core (R21). -/
def State.ctxOf (s : State) (e : EId) : Option Nat := (s.ctxs.find? (fun p => p.2.owns e)).map Prod.fst
def State.updCtx (s : State) (c : Nat) (f : Ctx → Ctx) : State :=
  match tget s.ctxs c with
  | some C => { s with ctxs := tset s.ctxs c (f C) }
  | none => s

/-- The cores of the partition, and the admitted memory cores, in scope-3 order (R187). -/
def Ctx.cores (c : Ctx) : List EId :=
  sortBy enumKey (c.soruses.flatMap (fun so => (List.range 8).map (sorusMember so)))
def Ctx.mems (c : Ctx) : List EId := sortBy enumKey c.memcores
def Ctx.elems (c : Ctx) : List EId := c.cores ++ c.mems

/-- The element's place in scope-3 order (R187, R206, R382). -/
def Ctx.rankOf (c : Ctx) (e : EId) : Nat :=
  let cores := c.soruses.flatMap (fun so => (List.range 8).map (sorusMember so))
  let below := fun l : List EId => (l.filter (fun x => enumKey x < enumKey e)).length
  if isCore e then below cores else cores.length + below c.memcores

def Rect.elems (r : Rect) : List EId :=
  (List.range r.h).flatMap (fun j => (List.range r.w).map (fun i => mkE r.die (r.x0 + i) (r.y0 + j)))

/-- The members of a scope entry as element e uses it, in enumeration order (R187). -/
def Ctx.scopeMembers (c : Ctx) (e : EId) (sc : Nat) : List EId :=
  match sc with
  | 0 => [e]
  | 1 => if isCore e then (List.range 8).map (sorusMember (sorusOf e)) else [e]
  | 2 => c.elems.filter (fun x => eDie x == eDie e)
  | 3 => c.elems
  | _ =>
    match tget c.scopes sc with
    | none => []
    | some S =>
      let cores := (S.rects.flatMap Rect.elems).foldl (fun acc x => if acc.contains x then acc else acc ++ [x]) []
      cores ++ (if S.mem then c.mems.filter (fun x => S.rects.any (fun r => r.die == eDie x)) else [])

/-- The context number of the executing element. -/
def State.ctxNo (s : State) : Nat := (s.ctxOf s.cur).getD 0

/-- The context of an element, if one holds it. -/
def State.ctxAt (s : State) (e : EId) : Option Ctx := (s.ctxOf e).bind (tget s.ctxs)

/-! ### Fronds and own scratchpad (R346–R349) -/

def Frond.n (f : Frond) : Nat := f.w * f.h
/-- Member j of a frond (R347). -/
def Frond.member (f : Frond) (j : Nat) : EId := mkE (eDie f.origin) (eX f.origin + j % f.w) (eY f.origin + j / f.w)
def Frond.members (f : Frond) : List EId := (List.range f.n).map f.member
def Frond.index (f : Frond) (e : EId) : Nat := (eY e - eY f.origin) * f.w + (eX e - eX f.origin)

/-- The frond, joining or composed, that an element belongs to. -/
def State.frondWith (s : State) (e : EId) : Option Frond := s.fronds.find? (fun f => f.members.contains e)
/-- The composed frond that an element leads. -/
def State.frondOf (s : State) (e : EId) : Option Frond := s.fronds.find? (fun f => f.leader == e && f.composed)
def State.updFrond (s : State) (leader : EId) (g : Frond → Frond) : State :=
  { s with fronds := s.fronds.map (fun f => if f.leader = leader then g f else f) }
/-- A member, other than the leader, of a composed frond, or a core of a releasing one. -/
def State.isHeldMember (s : State) (e : EId) : Bool :=
  s.fronds.any (fun f => (f.composed && f.leader != e || f.releasing) && f.members.contains e)
/-- The leader of a releasing frond (R364). -/
def State.releases (s : State) (e : EId) : Bool := s.fronds.any (fun f => f.releasing && f.leader == e)
def State.isComposed (s : State) (e : EId) : Bool := s.fronds.any (fun f => f.composed && f.members.contains e)

/-- Is the element fenced, or a member of a composed frond of which a member is fenced (R359, R369)? -/
def State.isFenced (s : State) (e : EId) : Bool :=
  decide ((s.elem e).mode = .fenced) ||
  s.fronds.any (fun f => f.composed && f.members.contains e && f.members.any (fun m => decide ((s.elem m).mode = .fenced)))

/-- Size of the element's own scratchpad: 64 KiB, or the pooled scratchpad of the frond it leads (R348). -/
def State.ownSize (s : State) (e : EId) : Nat := match s.frondOf e with | some f => f.n * 65536 | none => 65536

/-- Key of byte p of the element's own scratchpad; pooled bytes by R348. -/
def State.ownKey (s : State) (e : EId) (p : Nat) : Nat :=
  match s.frondOf e with
  | some f => scratchKey (f.member (p / 64 % f.n)) (64 * (p / (64 * f.n)) + p % 64)
  | none => scratchKey e (p % 65536)

/-- The own offset of a raw scratchpad byte, if it belongs to the element's own scratchpad (R349). -/
def State.ownOffset (s : State) (e t : EId) (o : Nat) : Option Nat :=
  match s.frondOf e with
  | some f => if f.members.contains t then some (64 * f.n * (o / 64) + 64 * f.index t + o % 64) else none
  | none => if t = e then some o else none

def State.readOwn (s : State) (e : EId) (p : Nat) : Nat → List Byte
  | 0 => []
  | n + 1 => memGet s.mem (s.ownKey e p) :: s.readOwn e (p + 1) n

def State.writeOwn (s : State) (e : EId) (p : Nat) : List Byte → State
  | [] => s
  | b :: bs => ({ s with mem := memSet s.mem (s.ownKey e p) b }).writeOwn e (p + 1) bs

/-- The region registers that check the element's own accesses (R152, R350). -/
def State.regionsOf (s : State) (e : EId) : List Word :=
  match s.frondOf e with
  | some _ => (s.elem e).pregions.toList
  | none => (s.elem e).regions.toList

/-- The element whose own scratchpad holds the raw bytes of element t: t, or the leader of the frond it is composed into. -/
def State.ownerOf (s : State) (t : EId) : EId :=
  match s.fronds.find? (fun f => f.composed && f.members.contains t) with
  | some f => f.leader
  | none => t

/-- n raw bytes of element t's scratchpad from o are about to be overwritten by another element: the activation that runs there
may still fetch the old halfwords (R28). -/
def State.noteOlds (s : State) (t : EId) (o n : Nat) : State :=
  let e := s.ownerOf t
  if (s.elem e).act.isNone then s
  else
    let olds := (List.range ((o + n + 1) / 2 - o / 2)).filterMap (fun i =>
      let h := o / 2 * 2 + 2 * i
      (s.ownOffset e t h).map (fun p => (p, BitVec.ofNat 16 (leNat (memRead s.mem (scratchKey t h) 2)))))
    s.updElem e (fun E => { E with olds := olds ++ E.olds })

/-- n own bytes from p are stored by the element's own activation: they are fetched in their new values (R28). -/
def State.dropOlds (s : State) (e : EId) (p n : Nat) : State :=
  if (s.elem e).olds.isEmpty then s
  else s.updElem e (fun E => { E with olds := E.olds.filter (fun h => decide (h.1 + 2 ≤ p) || decide (p + n ≤ h.1)) })

/-- n raw bytes of element t from o are about to be overwritten by a store of element w: its own activation fetches them in their
new values, another may still fetch the old ones (R28). -/
def State.noteStore (s : State) (w t : EId) (o n : Nat) : State :=
  if s.ownerOf t ≠ w then s.noteOlds t o n
  else if (s.elem w).olds.isEmpty then s
  else s.updElem w (fun E => { E with olds := E.olds.filter (fun h =>
    !(List.range n).any (fun i => (s.ownOffset w t (o + i)).any (fun p => p / 2 * 2 == h.1))) })

/-! ### Registers of an activation (R13, R33, R93) -/

/-- Read a register slot: w (zero while dead), mb, in, and zr. -/
def Act.reg (A : Act) (r : Reg) : Word :=
  if r.toNat < 32 then (if A.dead.getLsbD r.toNat then 0 else vget 0 A.w r.toNat)
  else if r.toNat < 40 then vget 0 A.mb (r.toNat - 32)
  else if r.toNat < 48 then vget 0 A.inn (r.toNat - 40)
  else 0

/-- Write a register slot: a write to wi clears its dead bit; zr discards. -/
def Act.setReg (A : Act) (r : Reg) (x : Word) : Act :=
  if r.toNat < 32 then { A with w := vset A.w r.toNat x, dead := A.dead &&& ~~~(1#32 <<< r.toNat) }
  else if r.toNat < 40 then { A with mb := vset A.mb (r.toNat - 32) x }
  else A

/-- Go on to the next instruction, n bytes further. -/
def Act.adv (A : Act) (n : Nat) : Act := { A with pc := A.pc + BitVec.ofNat 64 n }

/-- Run a meaning within the activation of the executing element. -/
def withAct (s : State) (k : Act → Host.Outcome State Fault Refusal) : Host.Outcome State Fault Refusal :=
  match s.act with
  | some A => k A
  | none => .fault .noActivation

/-- The clocks that an activation counts: none until its first instruction issues (R88, R96). -/
def State.wdClocks (s : State) (A : Act) : Nat :=
  match A.wdHeld with
  | some n => n
  | none => if !A.begun then 0 else ((s.time : Int) - A.wdStart).toNat

/-- WDCNT, the 32 bits that a read returns: R103 gives neither wrap nor saturation for more clocks than they hold, and the model wraps
(log 56). -/
def State.wdcnt (s : State) (A : Act) : Nat := s.wdClocks A % 2 ^ 32

/-! ### Digests (R59, R380, R382) -/

def crcBits : Nat → Word → Word
  | 0, c => c
  | n + 1, c => crcBits n (if c.getLsbD 63 then (c <<< 1) ^^^ 0x42F0E1EBA9EA3693#64 else c <<< 1)

/-- CRC-64 over bytes, most significant bit first (R59). -/
def crc64 (c : Word) : List Byte → Word
  | [] => c
  | b :: bs => crc64 (crcBits 8 (c ^^^ (b.setWidth 64 <<< 56))) bs

/-- The part of doubleword number d that a store from offset o writes: mask and data. A byte that is none is not written. -/
def dwPart (o d : Nat) (bs : List (Option Byte)) : Nat → Nat × Nat
  | 0 => (0, 0)
  | j + 1 =>
    let (m, v) := dwPart o d bs j
    let p := 8 * d + j
    match (if o ≤ p then bs.getD (p - o) none else none) with
    | some x => (m + 2 ^ j, v + x.toNat * 2 ^ (8 * j))
    | none => (m, v)

/-- Fold one record of R380: byte mask, class word, data. -/
def foldRec (c : Word) (mask : Nat) (loc : Word) (data : Word) : Word :=
  crc64 c (wordBytes (bitsAt mask 56 ||| loc) ++ wordBytes data)

/-- Fold the records of n doublewords from number d on; `loc` gives the class word of a doubleword's offset. -/
def foldFrom (c : Word) (loc : Nat → Word) (o : Nat) (bs : List (Option Byte)) (d : Nat) : Nat → Word
  | 0 => c
  | n + 1 =>
    let (m, v) := dwPart o d bs 8
    foldFrom (if m = 0 then c else foldRec c m (loc (8 * d)) (BitVec.ofNat 64 v)) loc o bs (d + 1) n

/-- Fold a store of the bytes that are present, from offset o. -/
def foldMasked (c : Word) (loc : Nat → Word) (o : Nat) (bs : List (Option Byte)) : Word :=
  if bs.isEmpty then c else foldFrom c loc o bs (o / 8) ((o + bs.length - 1) / 8 + 1 - o / 8)

def foldStore (c : Word) (loc : Nat → Word) (o : Nat) (bs : List Byte) : Word := foldMasked c loc o (bs.map some)

/-- Class words of R380. -/
def locOwn (size : Nat) (o : Nat) : Word := BitVec.ofNat 64 (o % size)
def locOther (e t : EId) (o : Nat) : Word :=
  let rel := ((((eDie t : Int) - eDie e) % 8).toNat) * 8192 + ((((eX t : Int) - eX e) % 128).toNat) * 64 + (((eY t : Int) - eY e) % 64).toNat
  bitsAt 1 52 ||| bitsAt rel 32 ||| BitVec.ofNat 64 (o % 2 ^ 19)
def locDev (va : Nat) : Word := bitsAt 8 52 ||| BitVec.ofNat 64 (va % 2 ^ 52)
def locHost (iova : Nat) : Word := bitsAt 9 52 ||| BitVec.ofNat 64 (iova % 2 ^ 52)

/-! ### Fault words (R46, R159, R160) -/

/-- A fault: code, fault address, extra word (R367). -/
structure Flt where
  code : Nat
  faddr : Word
  extra : Word
  deriving DecidableEq, Repr

/-- The codes that freeze the element which meets them, and those of reports, after which it runs on; the device raises no other
code (R371). -/
def codeFreezes (code : Nat) : Bool :=
  [(0x01, 0x09), (0x10, 0x1A), (0x1C, 0x1E), (0x20, 0x2C), (0x30, 0x36), (0x40, 0x41), (0x43, 0x43), (0x50, 0x55), (0x60, 0x63),
   (0x70, 0x72), (0x78, 0x79)].any (fun r => decide (r.1 ≤ code) && decide (code ≤ r.2))
def codeReports (code : Nat) : Bool := [0x42, 0x44, 0x45, 0x56, 0x73, 0x74, 0x75, 0x76, 0x77].contains code

/-- The memory layout of the extra word (R160). -/
structure MemX where
  size : Nat := 1
  write : Bool := false
  fetch : Bool := false
  remote : Bool := false
  ptag : Nat := 0
  mtag : Nat := 0
  cause : Nat := 0
  progress : Nat := 0
  deriving DecidableEq, Repr

/-- SIZE: the log2 of a piece's bytes; free where R155 makes a piece of another size (R160; log 68). -/
def sizeField (n : Nat) : Nat := if 2 ^ lg n = n then lg n else (Config.oddSize n).toNat

def MemX.word (x : MemX) : Word :=
  BitVec.ofNat 64 (sizeField x.size + (if x.write then 8 else 0) + (if x.fetch then 16 else 0) + (if x.remote then 32 else 0)
    + x.ptag * 2 ^ 8 + x.mtag * 2 ^ 12 + x.cause * 2 ^ 16 + x.progress % 256 * 2 ^ 24)

def ptagOf (a : Word) : Nat := fld a 59 56
def apOf (a : Word) : Nat := fld a 63 60

/-- The extra word of codes 0x01–0x03 (R46): the bits, the length, the reason. -/
def insnExtra (i : Instr) (reason : Nat) : Word :=
  let hs := encode i
  bitsAt reason 56 ||| bitsAt (if hs.length = 2 then 1 else 0) 32 ||| (bitsOf hs).setWidth 64

/-! ### Address resolution (R145–R147, R349) -/

/-- What an address names. -/
inductive Place where
  /-- a byte of the own scratchpad: local or pooled offset -/
  | own (p : Nat)
  /-- a raw scratchpad byte of an element -/
  | raw (t : EId) (o : Nat)
  | dev (va : Nat)
  | host (iova : Nat)
  deriving DecidableEq, Repr

/-- The element that an address of aperture 1, 2 or 3 names, by coordinates that may lie off the mesh (R145). -/
def targetOf (e : EId) (a : Word) : Int × Int × Int :=
  match apOf a with
  | 1 =>
    let t := sorusMember (sorusOf e) (fld a 34 32)
    (eDie t, eX t, eY t)
  | 2 => (fld a 47 45, fld a 44 38, fld a 37 32)
  | _ => (eDie e + sextNat (fld a 47 45) 3, eX e + sextNat (fld a 44 38) 7, eY e + sextNat (fld a 37 32) 6)

/-- Coordinates of the mesh as an element name; none off the mesh (R10). -/
def onMesh (c : Int × Int × Int) : Option EId :=
  if 0 ≤ c.1 ∧ c.1 < 2 ∧ 0 ≤ c.2.1 ∧ c.2.1 ≤ 67 ∧ 0 ≤ c.2.2 ∧ c.2.2 ≤ 33
  then some (mkE c.1.toNat c.2.1.toNat c.2.2.toNat) else none

/-- The bits an aperture does not use are zero (R145). -/
def zeroBitsOk (s : State) (e : EId) (a : Word) : Bool :=
  match apOf a with
  | 0 => match s.frondOf e with
    | some f => decide (fld a 55 23 = 0) && decide (fld a 19 0 < f.n * 65536)
    | none => decide (fld a 55 19 = 0)
  | 1 => decide (fld a 55 35 = 0) && decide (fld a 31 19 = 0)
  | 8 => decide (fld a 55 52 = 0)
  | 9 => true
  | _ => decide (fld a 55 48 = 0) && decide (fld a 31 19 = 0)

/-- Resolve an address for a family that accepts the apertures `aps`, or the CAUSE of R147. -/
def resolve (s : State) (e : EId) (aps : List Nat) (a : Word) : Except Nat Place :=
  if !aps.contains (apOf a) then .error 1
  else if !zeroBitsOk s e a then .error 2
  else match apOf a with
  | 0 => .ok (.own (match s.frondOf e with | some _ => fld a 19 0 | none => fld a 15 0))
  | 8 => .ok (.dev (fld a 51 0))
  | 9 => .ok (.host (fld a 55 0))
  | _ =>
    if ptagOf a ≠ 0 ∨ fld a 18 16 ≠ 0 then .error 3
    else match onMesh (targetOf e a) with
    | none => .error 4
    | some t =>
      if !isElem t then .error 4
      else if (s.ctxOf e).isNone || s.ctxOf t != s.ctxOf e then .error 5
      else .ok (.raw t (fld a 15 0))

/-- The offset of an aperture-0 address, its window included (R145, R349). -/
def localOffset (s : State) (e : EId) (a : Word) : Nat := fld a (if (s.frondOf e).isSome then 22 else 18) 0

/-- The element and raw offset of a place in scratchpad. -/
def rawOf (s : State) (e : EId) : Place → EId × Nat
  | .own p => match s.frondOf e with
    | some f => (f.member (p / 64 % f.n), 64 * (p / (64 * f.n)) + p % 64)
    | none => (e, p)
  | .raw t o => (t, o)
  | _ => (e, 0)

/-- The apertures of R146. -/
def apsLoad (e : EId) : List Nat := if isMemCore e then [0, 8, 9] else [0, 1]
def apsLocal (e : EId) : List Nat := if isMemCore e then [0] else [0, 1]
def apsRemote (e : EId) : List Nat := if isMemCore e then [0, 2, 3] else [0, 1, 2, 3]

/-! ### Regions, tags and the register area (R92, R152–R154) -/

def regionCovers (r : Word) (b : Nat) : Bool :=
  decide (fld r 39 16 ≤ b) && decide (b < fld r 39 16 + fld r 63 40)

/-- The attribute bits of a region register (R152). -/
def attrRD : Nat := 4
def attrWR : Nat := 5
def attrEX : Nat := 6
def attrTC : Nat := 7

def hasAttr (rs : List Word) (b attr : Nat) : Bool := rs.any (fun r => regionCovers r b && r.getLsbD attr)

/-- The first of n own bytes from p that lacks an attribute: its distance from p and the CAUSE of R153. -/
def lacking (rs : List Word) (attr : Nat) (size p : Nat) : Nat → Option (Nat × Nat)
  | 0 => none
  | n + 1 =>
    match lacking rs attr size p n with
    | some x => some x
    | none =>
      let b := (p + n) % size
      if hasAttr rs b attr then none
      else some (n, if rs.any (fun r => regionCovers r b) then 2 else 1)

/-- Does an own byte lie in the register area of the running activation (R92)? -/
def inArea (A : Option Act) (p : Nat) : Bool :=
  match A with
  | some A => decide (A.wp.toNat ≤ p) && decide (p < A.wp.toNat + 256)
  | none => false

/-- Does a run of n bytes at a place touch the register area of e's activation? -/
def touchesArea (s : State) (e : EId) (pl : Place) (n : Nat) : Bool :=
  match pl with
  | .own p => (List.range n).any (fun i => inArea (s.elem e).act ((p + i) % s.ownSize e))
  | .raw t o => (List.range n).any (fun i =>
      match s.ownOffset e t ((o + i) % 65536) with
      | some p => inArea (s.elem e).act p
      | none => false)
  | _ => false

def tagAt (s : State) (key : Nat) : BitVec 4 := (tget s.tags key).getD 0

/-- Set the tag of a line or granule; a zero tag is unlisted. -/
def setTag (s : State) (key : Nat) (t : BitVec 4) : State :=
  { s with tags := if t = 0 then tdel s.tags key else tset s.tags key t }

/-! ### Channels -/

def State.chan (s : State) (e : EId) (frond : Bool) (q : Nat) : Chan :=
  if frond then (match s.frondOf e with | some f => vget Chan.reset f.chans q | none => Chan.reset)
  else vget Chan.reset (s.elem e).chans q

def State.updChan (s : State) (e : EId) (frond : Bool) (q : Nat) (g : Chan → Chan) : State :=
  if frond then s.updFrond e (fun f => { f with chans := vset f.chans q (g (vget Chan.reset f.chans q)) })
  else s.updElem e (fun E => { E with chans := vset E.chans q (g (vget Chan.reset E.chans q)) })

/-- Is traffic for an element's channels now traffic for its frond channels (R355)? -/
def State.leads (s : State) (e : EId) : Bool := (s.frondOf e).isSome

/-- Put a message into a holding queue of four; none when it is full (R120), and while the core's own release takes effect,
so that the room a RELEASE found for its notice stands (R363). -/
def State.enqueue (s : State) (e : EId) (q : Nat) (m : Msg) : Option State :=
  let fr := s.leads e
  let c := s.chan e fr q
  if c.queue.length < 4 ∧ s.releases e = false then
    some (s.updChan e fr q (fun c => { c with queue := c.queue ++ [m], regionBusy := c.regionBusy || m.region }))
  else none

def plainMsg (l : List Word) : Msg := { kind := .plain, words := words8 l, region := false }

/-- Is the continuation one that a table, barrier or engine fires (R98, R134, R193, R262)? -/
def ContKind.awaitsFiring : ContKind → Bool
  | .event _ => true
  | .barrier => true
  | .cwait _ _ => true
  | _ => false

/-- Fire an armed continuation of a channel, the element's own or its frond's, with its words (R121, R138, R193, R262, R354). -/
def State.fireSlot (s : State) (e : EId) (fr : Bool) (q : Nat) (words : Words8) : State :=
  s.updChan e fr q (fun c => { c with cont := c.cont.map (fun k =>
    if k.kind.awaitsFiring && k.fired.isNone then { k with fired := some words } else k) })

/-- Is a firing for the element's own channels held until the release: a member, other than the leader, of a frond (R356)? -/
def State.holdsFirings (s : State) (e : EId) : Bool :=
  s.fronds.any (fun f => (f.composed || f.releasing) && f.leader != e && f.members.contains e)

/-! ### Traffic (R117, R119–R126, R180, R181, R192) -/

/-- The class of R117, as far as order depends on it. -/
inductive Cls where
  | c (q : Nat) | w (scope q : Nat) | h | k | ev (name : Nat) | crd (sheet : Nat) | cwr (cell : Nat) | req | bar (scope : Nat)
  | posted | copy | back
  deriving DecidableEq, Repr

def Body.cls : Body → Cls
  | .msg q _ _ => .c q.toNat
  | .bulk q _ _ _ => .c q.toNat
  | .push q _ _ _ _ => .c q.toNat
  | .work sc _ q _ _ => .w sc q.toNat
  | .hostRec _ _ => .h
  | .items _ _ _ => .k
  | .evReq _ n _ => .ev n.toNat
  | .evArm c _ _ => .ev (fld c 15 0)
  | .rst _ _ _ _ => .posted
  | .ramo _ _ _ _ _ => .posted
  | .rcas _ _ _ _ _ => .posted
  | .rcopy _ _ _ _ => .copy
  | .credit => .back
  | .notice _ => .back
  | .barrier sc _ _ => .bar sc
  | .crd h _ _ => .crd (fld h 5 0)
  | .cwr c _ _ _ => .cwr (fld c 31 0)
  | .cdone _ _ _ => .req
  | .evalLost _ _ _ => .back
  | .cwave _ => .req
  | .crun _ _ => .req
  | .cwait _ _ _ => .req

/-- Does the class belong to E (R117)? -/
def Cls.isE : Cls → Bool
  | .ev _ => true
  | .crd _ => true
  | .cwr _ => true
  | .req => true
  | .bar _ => true
  | _ => false

/-- Are two bodies from one source to one destination kept in issue order (R126, R181, R235, R244, R407; log 20)? -/
def sameOrder (a b : Body) : Bool := decide (a.cls = b.cls) && !(a.cls == .copy) && !(a.cls == .back) && !(a.cls == .req)

/-- Is a flight a message to a member of a scope, for FENCE (R192)? A work item counts when every member it may reach does. -/
def Flight.toMember (f : Flight) (members : List EId) (all : Bool) : Bool :=
  match f.body.cls with
  | .c _ => f.dst.any members.contains
  | .k => f.dst.any members.contains
  | .w _ _ => match f.body with
    | .work _ ms _ _ _ => ms.all members.contains
    | _ => false
  | .h => all
  | .ev _ => all
  | .crd _ => all
  | .cwr _ => all
  | .req => all
  | .bar _ => all
  | _ => false

/-- The posted writes of an element that are still in flight (R180), those that earlier activations issued too: a release of the model
covers them all (log 20). -/
def State.postedOf (s : State) (e : EId) : List Flight :=
  s.fabric.filter (fun f => f.src == e && decide (f.body.cls = .posted))

/-- Do sends and requests of this body release the issuer's posted writes (R126 item 6, R180, R182)? -/
def Body.releases : Body → Bool
  | .credit => false
  | .notice _ => false
  | .evalLost _ _ _ => false
  | .rst _ _ _ _ => false
  | .ramo _ _ _ _ d => d.getLsbD 62      -- marked by the meaning for .rel and .ar
  | .rcas _ _ _ _ d => d.getLsbD 62
  | .rcopy _ _ _ _ => false
  | _ => true

/-- Does a body travel on the virtual channel of fault packets, that of q15 (R117, R366)? -/
def Body.onQ15 (b : Body) : Bool := match b.cls with | .c q => q == 15 | _ => false

/-- Is a flight a fault packet (R366)? -/
def Body.isPacket (b : Body) : Bool := match b with | .msg _ m _ => m.kind == .packet | _ => false

/-- The fault packets of an element that are not accepted yet: it sends them before anything else on that virtual channel (R366). -/
def State.packetsOf (s : State) (e : EId) : List Flight := s.fabric.filter (fun f => f.src == e && f.body.isPacket)

/-- Was a posted write addressed through aperture 0, to its issuer, whichever member of a frond holds the byte (R176, R352)? -/
def Body.toItself (b : Body) : Bool :=
  match b with
  | .rst a _ _ _ => apOf a == 0
  | .ramo a _ _ _ _ => apOf a == 0
  | .rcas a _ _ _ _ => apOf a == 0
  | _ => false

/-- The target of a flight, where order depends on it: the frond for a write of its own to its pooled bytes (R181, R352; log 62). -/
def Flight.target (f : Flight) : Option EId := if f.body.toItself then some f.src else f.dst

/-- The CDONEs in flight that an end of an evaluation's activation does not overtake: each was issued before it (R253, R259). -/
def State.donesOf (s : State) (b : Body) : List Flight :=
  match b with
  | .evalLost w _ _ => s.fabric.filter (fun f => match f.body with | .cdone x _ _ => x == w | _ => false)
  | _ => []

/-- The flights that must end before a new one of this body may. A body that releases follows every posted write of its element, those of
earlier activations too (log 20). -/
def State.afterOf (s : State) (src : EId) (dst : Option EId) (b : Body) : List Nat :=
  let F : Flight := { id := s.nextId, ctx := 0, src := src, dst := dst, body := b, after := [] }
  let same := s.fabric.filter (fun f => f.src == src && (f.dst == dst || f.target == F.target) && sameOrder f.body b)
  let rel := (if b.releases then s.postedOf src else []) ++ (if b.onQ15 then s.packetsOf src else [])
  let marks := (s.elem src).fences.filter (fun m => F.toMember m.members m.all)
  (same ++ rel ++ s.donesOf b).map (·.id) ++ marks.flatMap (·.ids)

def State.count (s : State) (ctx : Nat) (e : EId) (dSent dRcvd : Nat) : State :=
  s.updCtx ctx (fun C =>
    let p := (tget C.counts e).getD (0, 0)
    { C with counts := tset C.counts e (p.1 + dSent, p.2 + dRcvd) })

/-- Count where a condition holds. -/
def State.countIf (s : State) (b : Bool) (ctx : Nat) (e : EId) (dSent dRcvd : Nat) : State :=
  if b then s.count ctx e dSent dRcvd else s

/-- Is a context switched out: do its flights stand in a park store, where they count as ended (R377, R378)? -/
def State.isOut (s : State) (ctx : Nat) : Bool := (tget s.ctxs ctx).any (fun C => decide (C.switch = .out))

/-- Commit a whole message, request or posted write to the mesh (R117, R128); that of a context that is switched out parks at once
(R376, R377). -/
def State.inject (s : State) (ctx : Nat) (src : EId) (dst : Option EId) (b : Body) : State :=
  let f : Flight := { id := s.nextId, ctx := ctx, src := src, dst := dst, body := b, after := s.afterOf src dst b }
  (({ s with fabric := s.fabric ++ [f], nextId := s.nextId + 1 }).count ctx src 1 0).countIf (s.isOut ctx) ctx (dst.getD src) 0 1

def State.flight (s : State) (k : Nat) : Option Flight := s.fabric.find? (fun f => f.id == k)

/-- May flight f end now: has everything ordered before it ended? -/
def State.ready (s : State) (f : Flight) : Bool := f.after.all (fun i => (s.flight i).isNone)

/-- Take units of allowance of the executing element (R123). -/
def State.takeUnit (s : State) (n : Nat) : State := s.updElem s.cur (fun E => { E with avail := E.avail - n })

/-- A flight ends at a place; a parked one has been counted when it parked (R377). -/
def State.land (s : State) (f : Flight) : State :=
  ({ s with fabric := s.fabric.filter (fun g => g.id != f.id) }).countIf (!s.isOut f.ctx) f.ctx (f.dst.getD f.src) 0 1

/-- A unit of allowance starts its way back (R123). -/
def State.giveBack (s : State) (f : Flight) (r : Option EId) : State :=
  match r with
  | some e => s.inject f.ctx (f.dst.getD f.src) (some e) .credit
  | none => s

/-- An engine or table of a context fires a continuation. A firing for the set-aside channel of a held member is a message to it,
which its holding queue takes while it has room (R138, R193, R262, R356). -/
def State.fire (s : State) (ctx : Nat) (src e : EId) (fr : Bool) (q : Nat) (words : List Word) : State :=
  if !fr && s.holdsFirings e then
    s.inject ctx src (some e) (.msg (BitVec.ofNat 4 q) { kind := .firing, words := words8 words, region := false }
      { credit := none, notice := none, cmd := none })
  else s.fireSlot e fr q (words8 words)

/-- A completion of a matrix command has been accepted (R269). -/
def State.cmdAccepted (s : State) (f : Flight) (r : Option (EId × BitVec 32)) : State :=
  match r with
  | none => s
  | some (e, seq) =>
    let upd := fun c : Cmd => if c.seq = seq then { c with comps := c.comps.filter (· != f.id) } else c
    s.updElem e (fun E => { E with mq := (E.mq.map upd).filter (fun c => !(c.ended && c.comps.isEmpty)) })

/-- The message of a flight. -/
def Body.message : Body → Option Msg
  | .msg _ m _ => some m
  | .bulk _ m _ _ => some m
  | _ => none

/-- An evaluation message was refused or its activation dropped: the sheet's engine learns of it (R253). -/
def State.evalLost (s : State) (ctx : Nat) (src : EId) (m : Msg) (reason value : Nat) : State :=
  match m.kind with
  | .plain => s
  | .packet => s
  | .firing => s
  | .eval _ sheet cell gen =>
    s.inject ctx src (some (enginePort (sheet / 32)))
      (.evalLost (BitVec.ofNat 64 (sheet + cell * 2 ^ 16 + gen % 2 ^ 32 * 2 ^ 32)) reason value)

/-- A completion of the context, in the layout of R414; it is held until the queue takes it (R407). -/
def State.complete (s : State) (ctx kind : Nat) (tag : BitVec 32) (d1 d2 d3 : Word) (tail : List Word) : State :=
  s.updCtx ctx (fun C => { C with held := C.held ++
    [[bitsAt kind 0 ||| bitsAt tag.toNat 32, d1, d2, d3, 0, 0, 0, 0] ++ (List.range 8).map (fun i => tail.getD i 0)] })

/-- A destination refuses a message: a notice, which also returns the unit, starts its way back (R119, R125). -/
def State.refuse (s : State) (f : Flight) (r : Ret) (reason : Nat) : State :=
  let s := (s.land f).cmdAccepted f r.cmd
  let s := match f.body.message with
    | some m => s.evalLost f.ctx (f.dst.getD f.src) m (if reason = 5 then 3 else 5) (if reason = 5 then 0 else reason)
    | none => s
  let s := match r.record with
    | some tag => s.complete f.ctx 3 tag 3 0 0 []
    | none => s
  match r.notice with
  | some n => s.inject f.ctx (f.dst.getD f.src) (some f.src)
      (.notice (words8 ([1, n.in1, n.in2 ||| BitVec.ofNat 64 reason] ++ n.rest)))
  | none => s.giveBack f r.credit

/-- The reason 1–4 of R119 for which a destination cannot take a message. That the context is judged before the fence, and these reasons
before 5, 7 and 8, is the model's choice (log 19). -/
def State.refusal (s : State) (f : Flight) : Option Nat :=
  match f.dst with
  | none => some 1
  | some e =>
    if isInterface e then some 2
    else if !isElem e then some 1
    else if s.ctxOf e != some f.ctx then some 3
    else if s.isFenced e then some 4
    else none

/-- The device's unit that sends on an element's behalf: completions, notifications, answers (the model's name). -/
def unitOf (e : EId) : EId := e + 65536

/-- Send a short class-C message of the device to a channel; it returns the unit of `credit` when it is accepted. -/
def State.deviceSend (s : State) (ctx : Nat) (src dst : EId) (q : Nat) (ws : List Word) (credit : Option EId) : State :=
  s.inject ctx src (some dst) (.msg (BitVec.ofNat 4 q) (plainMsg ws) { credit := credit, notice := none, cmd := none })

/-- A value that the spec does not state, at this step (log 4). -/
def State.free (s : State) (i : Nat) : Word := Config.freeWord (s.stepNo * 2 ^ 64 + i % 2 ^ 64)

/-- Is the context's traffic moving: not stopped by a gang switch (R375, R376)? -/
def State.moving (s : State) (ctx : Nat) : Bool :=
  match tget s.ctxs ctx with
  | some C => C.switch == .running
  | none => true

/-- Does an element stall in an instruction that must complete before a gang switch saves its context? FENCE and TIME.ar stop
mid-stall and are executed again (R192, R375); a releasing core is saved in that state (R358). -/
def State.completesFirst (s : State) (e : EId) : Bool :=
  let E := s.elem e
  E.stalled && decide (E.mode = .normal) && !s.isFenced e &&
  (match E.insn with
   | some (.fence _) => false
   | some (.timeAr _) => false
   | some (.release _ _) => false
   | _ => true)

/-- Does the stall of a flight's source end only after the flight? An RLD, FRSTAT or DBGRD waits for posted writes to its target, an
atomic, ST.rel, BINCFG or BINSEAL for every posted write or for its own application, and a form that an engine answers for what its
request must follow and for its input writes (R170, R182, R190, R252, R318). -/
def State.awaits (s : State) (f : Flight) : Bool :=
  let E := s.elem f.src
  let posted := decide (f.body.cls = .posted)
  let atTarget := fun a : Reg => posted && (match E.act with
    | some A => match resolve s f.src (apsRemote f.src) (A.reg a) with
      | .ok pl => f.dst == some (rawOf s f.src pl).1
      | .error _ => false
    | none => false)
  s.completesFirst f.src && (match E.insn with
   | some (.rld _ a _) => atTarget a
   | some (.frstat _ a) => atTarget a
   | some (.dbgrd _ a _) => atTarget a
   | some (.ramo _ _ _ _ _) => E.issued == some f.id
   | some (.rcas _ _ _ _) => E.issued == some f.id
   | some (.amo _ _ _ _ _) => posted
   | some (.cas _ _ _ _) => posted
   | some (.stRel _ _ _) => posted
   | some (.bincfg _ _) => posted
   | some (.binseal _ _) => posted
   | _ => (s.afterOf f.src none (.cwave 0)).contains f.id || (match f.body with | .cwr _ _ _ _ => true | _ => false))

/-- The flights that the stalls of a stopping partition need, and those ordered before them (R375). -/
def State.needed (s : State) : List Nat :=
  s.fabric.foldr (fun f l => if s.awaits f || l.contains f.id then f.id :: f.after ++ l else l) []

/-- May a flight move: its context runs, or stops for a gang switch and a stall that must end needs the flight; any other stays where
it stands (R375, R376)? -/
def State.mayMove (s : State) (f : Flight) : Bool :=
  s.moving f.ctx ||
  (match tget s.ctxs f.ctx with
   | some C => C.switch == .stopping && s.needed.contains f.id
   | none => false)

/-- An event about flight k: it happens when everything ordered before the flight has ended; otherwise nothing does. -/
def arrival (s : State) (k : Nat) (g : Flight → State) : Host.Outcome State Fault Refusal :=
  match s.flight k with
  | none => .next s
  | some f => if s.ready f && s.mayMove f then .next (g f) else .next s

/-! ### Rings, completions and reports (R325, R366–R368, R407, R414) -/

def State.hostBytes (s : State) (h n : Nat) : List Byte := memRead s.mem (hostKey h) n
def State.hostWord (s : State) (h : Nat) : Nat := leNat (s.hostBytes h 8)
def State.hostWrite (s : State) (h : Nat) (bs : List Byte) : State := { s with mem := memWrite s.mem (hostKey h) bs }

/-- Host address of offset o of a ring of a context's launch window (R404, R407). -/
def Ring.at (r : Ring) (ctx o : Nat) : Nat := hostAt (ctxFn ctx) (r.base + o)

/-- Is a ring of the launch window full (R407)? -/
def Ring.full (r : Ring) (s : State) (ctx : Nat) : Bool :=
  let rd := s.hostWord (r.at ctx 8)
  decide (rd > r.w) || decide (r.w - rd ≥ 2 ^ r.log2n)

/-- Write one entry into a ring, then its W (R407). -/
def State.ringPut (s : State) (ctx : Nat) (r : Ring) (size : Nat) (words : List Word) : State × Ring :=
  let bs := (List.range (size / 8)).flatMap (fun i => wordBytes (words.getD i 0))
  let s := s.hostWrite (r.at ctx (64 + size * (r.w % 2 ^ r.log2n))) bs
  let r := { r with w := r.w + 1 }
  (s.hostWrite (r.at ctx 0) (wordBytes (BitVec.ofNat 64 r.w)), r)

/-- An escalation to the host: the entry belongs to no record, so its TAG is free (R368, R414; log 4). -/
def State.escalate (s : State) (ctx : Nat) (ws : List Word) : State :=
  s.complete ctx 4 ((s.free 4).setWidth 32) 0 0 0 ws

/-- The fields of a fault packet that its raiser fills (R367). -/
structure Packet where
  code : Nat
  kind : Nat
  chan : Nat := 0
  cont : Bool := false
  coord : EId
  frond : Option (Nat × Nat) := none      -- log2 n and FMEMBER
  pc : Word := 0
  wp : Word := 0
  faddr : Word
  extra : Word
  entry : Word := 0
  wd : Nat := 0
  pseq : Nat
  deriving DecidableEq, Repr

def Packet.words (p : Packet) (ctx : Nat) (time : Nat) : List Word :=
  [ BitVec.ofNat 64 (p.code + p.kind * 2 ^ 8 + ctx * 2 ^ 16 + p.chan * 2 ^ 24 + (if p.cont then 2 ^ 28 else 0)
      + p.coord * 2 ^ 32 + (match p.frond with | some (l, m) => 2 ^ 48 + l * 2 ^ 49 + m * 2 ^ 52 | none => 0)),
    p.pc, p.wp, p.faddr, p.extra, BitVec.ofNat 64 time,
    BitVec.ofNat 64 (fld p.entry 19 0 + p.wd % 2 ^ 32 * 2 ^ 32), BitVec.ofNat 64 p.pseq ]

/-- Is the supervisor core able to receive packets, that is not fenced (R368)? -/
def State.supOk (s : State) (ctx : Nat) : Option EId :=
  match tget s.ctxs ctx with
  | some C => match C.sup with
    | some e => if s.isFenced e then none else some e
    | none => none
  | none => none

/-- Send a packet of element e: to the supervisor's q15, or to the host as an escalation (R366, R368). -/
def State.sendPacket (s : State) (ctx : Nat) (e : EId) (ownFault : Bool) (ws : List Word) : State :=
  match s.supOk ctx with
  | some p =>
    if ownFault && p == e then s.escalate ctx ws
    else s.inject ctx e (some p) (.msg 15 { plainMsg ws with kind := .packet } { credit := none, notice := none, cmd := none })
  | none => s.escalate ctx ws

/-- The engine at a port raises a report: it joins the context's report queue. One raised while the supervisor is fenced goes to the
host, after those of the engine that wait (R253, R368; log 70). -/
def State.engineReport (s : State) (ctx : Nat) (port : EId) (p : Packet) : State :=
  let n := (s.elem p.coord).pseq + 1
  let s := s.updElem p.coord (fun E => { E with pseq := n })
  let ws := ({ p with kind := 1, pseq := n.toNat }).words ctx s.time
  let away := (s.supOk ctx).isNone
  if away && !(tget s.ctxs ctx).any (fun C => C.reports.any (fun r => r.engine == port)) then s.escalate ctx ws
  else s.updCtx ctx (fun C => { C with reports := C.reports ++ [{ engine := port, toHost := away, words := words8 ws }] })

/-! ### Tracing (R386) -/

/-- Does a body bring a payload into its target's scratchpad before its message (R122, R303)? -/
def Body.hasPayload (b : Body) : Bool :=
  match b with
  | .bulk _ _ _ _ => true
  | .push _ _ _ _ _ => true
  | _ => false

/-- STATE of a trace record for an element as it stands. -/
def State.traceState (s : State) (e : EId) : Nat :=
  let E := s.elem e
  match E.mode with
  | .frozen => 4
  | .stoppedBetween => 5
  | .stoppedIn => 5
  | .fenced => 5
  | .normal => match E.act with
    | some _ => if E.stalled then 2 else 0
    | none =>
      if (List.range 16).any (fun q => (s.chan e (s.leads e) q).cont.isSome) || s.fabric.any (fun f => f.dst == some e && f.body.hasPayload)
      then 1 else 3

def traceRec (state kind delta code : Nat) (coord : EId) (hi : Nat) : TraceRec :=
  BitVec.ofNat 128 (state + kind * 2 ^ 3 + delta * 2 ^ 8 + code * 2 ^ 40 + coord * 2 ^ 48 + hi * 2 ^ 64)

/-- Hand a record to the collector of a die, which holds 4,096; one that finds no room is counted. -/
def State.collect (s : State) (die ctx : Nat) (r : TraceRec) : State :=
  let l := vget [] s.pkg.collectors die
  if l.length < 4096 then { s with pkg := { s.pkg with collectors := vset s.pkg.collectors die (l ++ [(ctx, r)]) } }
  else { s with pkg := { s.pkg with traceLost := tset s.pkg.traceLost (die * 64 + ctx) ((tget s.pkg.traceLost (die * 64 + ctx)).getD 0 + 1) } }

/-- Is the element traced by an open session? The scope is read at every record, so that one that SCW rewrites is followed from then on
(R194; log 42). -/
def State.isTraced (s : State) (e : EId) : Bool :=
  match s.ctxAt e with
  | some C => match C.trace with
    | some T => (C.scopeMembers T.opener T.scope).contains e
    | none => false
  | none => false

/-- The element writes a trace record at a change of its state, if it is traced. -/
def State.traceNote (s : State) (e : EId) (kind code : Nat) (A : Option Act) : State :=
  if s.isTraced e then
    let c := (s.ctxOf e).getD 0
    let d := s.time - (s.elem e).traced
    let hi := match A with | some A => A.chan.toNat + c * 2 ^ 4 + fld A.entry 19 0 * 2 ^ 12 | none => c * 2 ^ 4
    let r := if d < 2 ^ 32 then traceRec (s.traceState e) kind d code e hi else traceRec (s.traceState e) 4 0 0 e s.time
    (s.collect (eDie e) c r).updElem e (fun E => { E with traced := s.time, tstate := s.traceState e })
  else s

/-- Every traced element whose state differs from that of its latest record writes one (R386). -/
def State.traceChanges (s : State) : State :=
  s.ctxs.foldl (fun s p => match p.2.trace with
    | none => s
    | some T => (p.2.scopeMembers T.opener T.scope).foldl (fun s e =>
        if s.traceState e = (s.elem e).tstate then s else s.traceNote e 0 0 (s.elem e).act) s) s

/-! ### Taking a fault (R7, R357, R366–R369) -/

/-- The frond field of a packet about the frond that an element leads: log2 n and the member that R353 gives for the PC. -/
def State.frondAt (s : State) (e : EId) (pc : Word) : Option (Nat × Nat) :=
  (s.frondOf e).map (fun f =>
    let b := fld pc 19 6
    let h := (b % 16) ^^^ (b / 2 ^ 5 % 16) ^^^ (b / 2 ^ 10 % 16)
    (lg f.n, h % f.n))

/-- That of a packet about an activation. -/
def State.frondField (s : State) (e : EId) (A : Act) : Option (Nat × Nat) := if A.frond then s.frondAt e A.pc else none

/-- What a request of the executing activation carries for a report about it. -/
def State.origin (s : State) (A : Act) : Origin :=
  { chan := A.chan.toNat, cont := A.cont, frond := s.frondField s.cur A, pc := A.pc, wp := A.wp, entry := A.entry, wd := s.wdcnt A }

/-- That of a report about an element that belongs to no activation: the PC that R353 takes is zero (R357, R367). -/
def State.frondOnly (s : State) (e : EId) : Option (Nat × Nat) := s.frondAt e 0

/-- The packet of an activation. -/
def State.packetOf (s : State) (e : EId) (A : Act) (code kind : Nat) (faddr extra : Word) (pseq : Nat) : Packet :=
  { code := code, kind := kind, chan := A.chan.toNat, cont := A.cont, coord := e, frond := s.frondField e A,
    pc := A.pc, wp := A.wp, faddr := faddr, extra := extra, entry := A.entry, wd := s.wdcnt A, pseq := pseq }

/-- Ganged shares that wait for member e are abandoned at the moment it freezes (R274). -/
def State.abandonShares (s : State) (e : EId) : State :=
  if !isCore e then s else
  (List.range 8).foldl (fun s m =>
    let i := sorusMember (sorusOf e) m
    if (s.elem i).mq.isEmpty then s else
    s.updElem i (fun E => { E with mq := E.mq.map (fun c =>
      if c.started && !c.ended then
        { c with shares := c.shares.map (fun h =>
            if h.elem = e ∧ h.state = .waiting ∧ (match c.kind with | .product _ _ _ _ _ g _ => g | _ => false) = true
            then { h with state := .failed 1 } else h) }
      else c) })) s

/-- TAKE A FAULT at element e: the core, or its frond, freezes at its PC, and one packet goes to the supervisor. -/
def State.takeFault (s : State) (e : EId) (f : Flt) : State :=
  match (s.elem e).act with
  | none => s
  | some A =>
    let n := (s.elem e).pseq + 1
    let ctx := (s.ctxOf e).getD 0
    let ws := (s.packetOf e A f.code 0 f.faddr f.extra n.toNat).words ctx s.time
    let s := s.updElem e (fun E => { E with
      mode := .frozen, stalled := false, stepReq := false, pseq := n, lastFault := BitVec.ofNat 8 f.code
      hostTimeout := E.hostTimeout && f.code != 0x1C })
    ((s.sendPacket ctx e true ws).traceNote e 3 f.code (some A)).abandonShares e

/-- A system report about element e (R372): 0x73, 0x75, 0x77. -/
def State.systemReport (s : State) (e : EId) (code : Nat) (faddr extra : Word) : State :=
  let n := (s.elem e).pseq + 1
  let ctx := (s.ctxOf e).getD 0
  let p : Packet := match (s.elem e).act with
    | some A => s.packetOf e A code 2 faddr extra n.toNat
    | none => { code := code, kind := 2, coord := e, frond := s.frondOnly e, faddr := faddr, extra := extra, pseq := n.toNat }
  (s.updElem e (fun E => { E with pseq := n })).sendPacket ctx e false (p.words ctx s.time)

/-- The result of an instruction: a state, and the fault that its execution reached, if any (R7). -/
abbrev Res := State × Option Flt

/-- The next state: the fault, if any, is taken by the executing element. -/
def finish (r : Res) : Host.Outcome State Fault Refusal :=
  match r.2 with
  | none => .next r.1
  | some f => .next (r.1.takeFault r.1.cur f)

/-- A fault with no effect before it. -/
def faultNow (s : State) (code : Nat) (faddr extra : Word) : Host.Outcome State Fault Refusal :=
  finish (s, some { code := code, faddr := faddr, extra := extra })

/-- Run a meaning that R40 gives to cores only: code 0x02 elsewhere (R45). -/
def withCore (i : Instr) (s : State) (k : Act → Host.Outcome State Fault Refusal) : Host.Outcome State Fault Refusal :=
  withAct s (fun A => if isCore s.cur then k A else faultNow s 0x02 0 (insnExtra i 0))

/-- Run a meaning that R40 gives to memory cores only. -/
def withMemCore (i : Instr) (s : State) (k : Act → Host.Outcome State Fault Refusal) : Host.Outcome State Fault Refusal :=
  withAct s (fun A => if isMemCore s.cur then k A else faultNow s 0x02 0 (insnExtra i 0))

/-- Complete an instruction of n bytes in activation A. -/
def retire (s : State) (A : Act) (n : Nat) : Host.Outcome State Fault Refusal := .next (s.setAct (A.adv n))

/-- The instruction waits: it is issued again, with nothing done but the stall noted (R170, R192). -/
def stall (s : State) : Host.Outcome State Fault Refusal := .next (s.updElem s.cur (fun E => { E with stalled := true }))

/-! ### The end of an activation (R89, R94, R382, R399) -/

/-- Write back wi for each i from 0 to 31 that is not dead, in ascending i, folding each store into the digest; a store of a
whole doubleword clears an uncorrectable error there (R157). -/
def writeBack (s : State) (A : Act) (key : Nat → Nat) (off : Nat) (size : Nat) : State × Word :=
  (List.range 32).foldl (fun (acc : State × Word) i =>
    if A.dead.getLsbD i then acc
    else
      let bs := wordBytes (vget 0 A.w i)
      let m := (List.range 8).foldl (fun m j => memSet m (key (8 * i + j)) (bs.getD j 0)) acc.1.mem
      ({ acc.1 with mem := m, poison := acc.1.poison.filter (· != key (8 * i)) }, foldStore acc.2 (locOwn size) (off + 8 * i) bs)) (s, A.digest)

/-- Combine an ended activation's digest into COMBO (R382). -/
def State.combine (s : State) (e : EId) (chan : Nat) (d : Word) : State :=
  let rank := match s.ctxAt e with | some C => C.rankOf e | none => 0
  s.updElem e (fun E => { E with combo := E.combo ^^^ d.rotateLeft ((16 * rank + chan) % 64), lastD := d })

/-- The element has no activation any more: its message is consumed and its receive region is free again (R89, R122). -/
def State.dropAct (s : State) (e : EId) : State :=
  match (s.elem e).act with
  | none => s
  | some A =>
    let s := s.updElem e (fun E => { E with act := none, stalled := false, transfer := none, issued := none })
    match A.msg with
    | some m => if m.region then s.updChan e A.frond A.chan.toNat (fun c => { c with regionBusy := false }) else s
    | none => s

/-- A debug stop takes effect between activations (R392, R399). -/
def State.stopBetween (s : State) (e : EId) : State :=
  let E := s.elem e
  if (E.haltReq || E.stepReq) && E.act.isNone then
    ((s.updElem e (fun E => { E with mode := .stoppedBetween, haltReq := false, stepReq := false })).systemReport e 0x77
      (BitVec.ofNat 64 e) 0).traceNote e 0 0 none
  else s

/-- END THE ACTIVATION of element e: write-back, digest, and the channel becomes idle or ready (R89). -/
def State.endAct (s : State) (e : EId) (A : Act) : State :=
  let wp := A.wp.toNat
  let (s, d) := writeBack s A (fun i => s.ownKey e (wp + i)) wp (s.ownSize e)
  (((s.combine e A.chan.toNat d).dropAct e).traceNote e 2 0 (some A)).stopBetween e

/-! ### The start of an activation (R85–R88, R91) -/

/-- Does a channel's continuation condition hold (R98)? -/
def contHolds (s : State) (c : Chan) : Bool :=
  match c.cont with
  | none => false
  | some k => match k.kind with
    | .now => true
    | .time t => decide (t.toNat ≤ s.time) || k.fired.isSome
    | .message => !c.queue.isEmpty
    | _ => k.fired.isSome

/-- Is a bound channel ready (R85)? -/
def chanReady (s : State) (c : Chan) : Bool := c.bind.isSome && (contHolds s c || !c.queue.isEmpty)

/-- Is a channel of an element's own set ready? None of a member of a composed frond is (R85). -/
def State.ownReady (s : State) (e : EId) (c : Chan) : Bool :=
  chanReady s c && !s.fronds.any (fun f => f.composed && f.members.contains e)

def prioOf (c : Chan) : Nat := match c.bind with | some b => b.prio.toNat | none => 0
def floorOf (c : Chan) : Bool := match c.bind with | some b => b.floor | none => false

/-- The channel that R86 selects: its number, and whether step 1 chose it. -/
def selectChan (s : State) (chans : Vector Chan 16) (last : Tbl Nat) : Option (Nat × Bool) :=
  let at' := fun q => vget Chan.reset chans q
  let ready := (List.range 16).filter (fun q => chanReady s (at' q))
  match ready.find? (fun q => floorOf (at' q) && decide (63 ≤ (at' q).wait)) with
  | some q => some (q, true)
  | none =>
    match ready.foldl (fun acc q => Nat.max acc (prioOf (at' q) + 1)) 0 with
    | 0 => none
    | p + 1 =>
      let cand := ready.filter (fun q => prioOf (at' q) == p)
      let l := (tget last p).getD 15
      match cand.find? (fun q => decide (l < q)) with
      | some q => some (q, false)
      | none => cand.head?.map (fun q => (q, false))

/-- Wait counts after a start on channel q (R86): starts count only while the floor flag is set (log 66). -/
def bumpWaits (s : State) (chans : Vector Chan 16) (q : Nat) : Vector Chan 16 :=
  (List.range 16).foldl (fun v i =>
    let c := vget Chan.reset v i
    if i = q then vset v i { c with wait := 0 }
    else if floorOf c && chanReady s c then vset v i { c with wait := c.wait + 1 }
    else v) chans

/-- The register banks after a start with a workspace, and whether a bank had to be filled (R91). -/
def useBank (banks : List Nat) (wp : Nat) : List Nat × Bool :=
  if banks.contains wp then (wp :: banks.filter (· != wp), false) else ((wp :: banks).take 4, true)

/-- The words that a message enters with: in7 of a short evaluation message is WP + 256, the receive region of its channel (R240). -/
def entryWords (b : Binding) (m : Msg) : Words8 :=
  match m.kind, m.region with
  | .eval _ _ _ _, false => vset m.words 7 (BitVec.ofNat 64 (b.wp.toNat + 256))
  | _, _ => m.words

/-- The doubleword of a workspace that a register starts with; of one that holds an uncorrectable error the spec states no
value: it is free (log 4). -/
def State.bankWord (s : State) (e : EId) (p : Nat) : Word :=
  if s.poison.contains (s.ownKey e p) then s.free (s.ownKey e p) else leWord (s.readOwn e p 8)

/-- The first instruction of an activation issues: WDCNT counts from here (R88, R96). -/
def State.begin (s : State) (e : EId) (A : Act) : State :=
  if A.begun then s
  else s.updElem e (fun E => { E with act := some { A with begun := true, wdStart := (s.time : Int) - s.wdClocks A, wdHeld := none } })

/-- The registers of an activation that starts now (R88). -/
def State.newAct (s : State) (e : EId) (frond : Bool) (q : Nat) (b : Binding) (cont : Bool) (entry : Nat)
    (inn : Words8) (msg : Option Msg) : Act :=
  let wp := b.wp.toNat
  { chan := BitVec.ofNat 4 q, cont := cont, frond := frond, prio := b.prio, floor := b.floor,
    entry := BitVec.ofNat 64 entry, pc := BitVec.ofNat 64 entry, wp := BitVec.ofNat 64 wp,
    w := Vector.ofFn (fun i : Fin 32 => s.bankWord e (wp + 8 * i.val)), mb := Vector.replicate 8 0, inn := inn,
    dead := 0, begun := false, wdStart := s.time, wdHeld := none, digest := 0, msg := msg }

/-- START the activation that R86 selects among the channels of an element or of its frond; none if none is ready. -/
def State.startNext (s : State) (e : EId) (frond : Bool) : Option State :=
  let chans := if frond then (match s.frondOf e with | some f => f.chans | none => (s.elem e).chans) else (s.elem e).chans
  let last := if frond then (match s.frondOf e with | some f => f.lastStart | none => []) else (s.elem e).lastStart
  match selectChan s chans last with
  | none => none
  | some (q, owed) =>
    let c := vget Chan.reset chans q
    match c.bind with
    | none => none
    | some b =>
      let bumped := bumpWaits s chans q
      let last := if owed then last else tset last b.prio.toNat q
      let start := fun (c' : Chan) (cont : Bool) (entry : Nat) (inn : Words8) (msg : Option Msg) =>
        let bank := useBank (s.elem e).banks b.wp.toNat
        let A := s.newAct e frond q b cont entry inn msg
        let s1 := if frond then s.updFrond e (fun f => { f with chans := vset bumped q c', lastStart := last, starts := 2 })
          else s.updElem e (fun E => { E with chans := vset bumped q c', lastStart := last })
        let s2 := s1.updElem e (fun E => { E with
          act := some A
          olds := []
          banks := bank.1
          evc := vset (if bank.2 then vset E.evc 4 (vget 0 E.evc 4 + 1) else E.evc) 6 (vget 0 E.evc 6 + 1) })
        some (s2.traceNote e 1 0 (some A))
      let c0 := { c with wait := 0 }
      if contHolds s c then
        match c.cont with
        | none => none
        | some k => match k.kind, c.queue with
          | .message, m :: ms => start { c0 with cont := none, queue := ms } true k.entry.toNat (entryWords b m) (some m)
          | _, _ => start { c0 with cont := none } true k.entry.toNat (k.fired.getD (words8 [])) none
      else match c.queue with
        | m :: ms => start { c0 with queue := ms } false b.entry.toNat (entryWords b m) (some m)
        | [] => none

/-- Does the context run its launch again with one activation at a time across the partition (R383)? -/
def Ctx.serial (C : Ctx) : Bool :=
  match C.load with
  | some L => L.posted && (match L.phase with | .serial _ _ => true | _ => false)
  | none => false

/-- May the element start an activation: idle, not stopped, not a joining or held member, its context switched in? -/
def State.canStart (s : State) (e : EId) : Bool :=
  let E := s.elem e
  E.act.isNone && decide (E.mode = .normal) && !s.isFenced e && !E.haltReq &&
  (match s.ctxAt e with
   | some C => decide (C.switch = .running) && (!C.serial || C.elems.all (fun x => (s.elem x).act.isNone || decide ((s.elem x).mode ≠ .normal)))
   | none => false) &&
  (match s.frondWith e with | some f => f.composed && f.leader == e | none => true)

/-! ### Resuming (R392) and stopping after one instruction -/

/-- Hold or release WDCNT at a stop (R96). -/
def State.holdWd (s : State) (A : Act) : Act := { A with wdHeld := some (s.wdClocks A) }
def State.releaseWd (s : State) (A : Act) : Act :=
  if !A.begun then A
  else match A.wdHeld with
  | some n => { A with wdStart := (s.time : Int) - n, wdHeld := none }
  | none => A

/-- RESUME a frozen or stopped element at its resume PC, or let it select again (R392). -/
def State.thaw (s : State) (e : EId) (step clrwd : Bool) : State :=
  let s := s.updElem e (fun E => { E with mode := .normal, stepReq := step, act := E.act.map (fun A =>
    let A := s.releaseWd A
    if clrwd then { A with wdStart := s.time, wdHeld := none } else A) })
  s.traceNote e 0 0 (s.elem e).act

/-- Is the element's context stopping for a gang switch? -/
def State.stopping (s : State) (e : EId) : Bool :=
  match s.ctxAt e with
  | some C => decide (C.switch = .stopping)
  | none => false

/-- Hold WDCNT of an element's activation, if it runs (R96). -/
def State.holdElem (s : State) (e : EId) : State :=
  s.updElem e (fun E => { E with act := E.act.map (fun A => s.holdWd A) })

/-- An element stops for the gang switch of its context at TIME t, unless the instruction for which it stalls completes first: WDCNT
holds, and FENCE and TIME.ar are executed again (R96, R192, R375). -/
def State.stopElem (t : Nat) (s : State) (e : EId) : State :=
  if s.completesFirst e then s
  else
    let u := { s with time := t }.holdElem e
    { u with time := s.time }.updElem e (fun E =>
      { E with stalled := E.stalled && (match E.insn with | some (.release _ _) => true | _ => false) })

/-- Has the time of a context's scheduled gang switch come (R375)? -/
def Ctx.switchDue (C : Ctx) (time : Nat) : Bool := decide (C.switch = .running) && C.switchAt.any (fun t => decide (t ≤ time))

/-- THE GANG SWITCH of a context at T: its partition stops (R375). -/
def State.gangStop (s : State) (ctx : Nat) (C : Ctx) : State :=
  C.elems.foldl (State.stopElem (C.switchAt.getD s.time))
    (s.updCtx ctx (fun C => { C with switch := .stopping, switchAt := none, switchYield := false }))

/-- Every gang switch whose time has come. -/
def State.gangStops (s : State) : State :=
  s.ctxs.foldl (fun s p => if p.2.switchDue s.time then s.gangStop p.1 p.2 else s) s

/-- After an instruction of the executing element: a STEP stops it in its activation (R392), and one that stalled across
the start of a gang switch stops there (R375). -/
def State.afterInstr (s : State) (e : EId) : State :=
  let s := if s.stopping e && !(s.elem e).stalled then s.holdElem e else s
  let E := s.elem e
  if E.stepReq && !E.stalled && decide (E.mode = .normal) then
    match E.act with
    | some A =>
      let s := s.updElem e (fun E => { E with mode := .stoppedIn, stepReq := false, act := some (s.holdWd A) })
      (s.systemReport e 0x77 (BitVec.ofNat 64 e) A.pc).traceNote e 0 0 (some A)
    | none => s
  else s

end Sys2Proof.Machine
end

