-- ==== Sys2Proof/Machine/Fetch.lean ====
section
/-!
DEFINITION. Instruction fetch (R26–R28, R47, R146, R153, R352), and the store of an instruction where fetch finds it.
-/
namespace Sys2Proof.Machine

/-- A PC at which an instruction may begin: even, and within window 0 or the pooled scratchpad (R27, R352). -/
def pcOk (s : State) (e : EId) (pc : Nat) : Bool := decide (pc % 2 = 0) && decide (pc + 2 ≤ s.ownSize e)

/-- Is the doubleword of a scratchpad byte, the granule of an HBM byte, or another byte marked uncorrectable (R157)? -/
def State.poisoned (s : State) (key : Nat) : Bool := s.poison.contains key

/-- The halfword that a fetch sees: the one that stands there or, where another element stored into it during the activation,
any that it overwrote, independently of the other halfwords: a free choice (R28). A posted write of the activation to itself is seen once
it is applied, and not while it is in flight, where R28 has "every earlier store" and R176 makes these posted (log 4). -/
def State.fetched (s : State) (e : EId) (pc : Nat) : Half :=
  let now : Half := BitVec.ofNat 16 (leNat (s.readOwn e pc 2))
  match (s.elem e).olds.filter (fun h => h.1 == pc) with
  | [] => now
  | l => ((now :: l.map Prod.snd)[(s.free (2 ^ 40 + pc)).toNat % (l.length + 1)]?).getD now

/-- Fetch one halfword at a PC, or the first fault that applies. A fetch fault reports SIZE 1, a halfword, also for one of a 32-bit
instruction: R160 does not say what the piece of a fetch is (log 23). -/
def fetchHalf (s : State) (e : EId) (pc : Nat) : Except Flt Half :=
  if !pcOk s e pc then .error { code := 0x04, faddr := BitVec.ofNat 64 pc, extra := 0 }
  else match lacking (s.regionsOf e) attrEX (s.ownSize e) pc 2 with
  | some (d, cause) =>
    .error { code := 0x14, faddr := BitVec.ofNat 64 (pc + d), extra := MemX.word { size := 2, fetch := true, cause := cause } }
  | none =>
    if s.poisoned (s.ownKey e pc / 8 * 8) then
      .error { code := 0x18, faddr := BitVec.ofNat 64 (pc / 8 * 8), extra := MemX.word { size := 2, fetch := true } }
    else .ok (s.fetched e pc)

/-- Does the second halfword of a 32-bit instruction at a PC lie outside the range (R27)? The halfword at the PC says that the instruction
has 32 bits, whether or not it may be fetched; one in error says nothing (log 23). -/
def secondOutside (s : State) (e : EId) (pc : Nat) : Bool :=
  pcOk s e pc && !pcOk s e (pc + 2) && !s.poisoned (s.ownKey e pc / 8 * 8) && isLong (s.fetched e pc)

/-- The instruction at a PC: decoded, or the fault that the fetch or the decoder raises. Code 0x04, for either halfword, comes before the
other fetch faults (R47). -/
def fetch (s : State) (e : EId) (pc : Nat) : Except Flt Instr :=
  if secondOutside s e pc then .error { code := 0x04, faddr := BitVec.ofNat 64 (pc + 2), extra := 0 }
  else match fetchHalf s e pc with
  | .error f => .error f
  | .ok h =>
    match (if isLong h then fetchHalf s e (pc + 2) else .ok 0) with
    | .error f => .error f
    | .ok h2 =>
      match decode h h2 with
      | .ok i => .ok i
      | .error r =>
        let long := isLong h
        .error { code := 0x01, faddr := 0,
                 extra := bitsAt r 56 ||| bitsAt (if long then 1 else 0) 32 |||
                   (if long then (h2 ++ h).setWidth 64 else h.setWidth 64) }

/-- Bytes of an instruction of nbits bits with value w, and zeros up to the longest instruction. -/
def tableBytes (nbits w : Nat) : List Byte := leBytes 4 (if nbits = 16 then w % 2 ^ 16 else w % 2 ^ 32)

/-- Does the table give this instruction to memory cores only (major 0x15, R298)? -/
def isMemCoreWord (nbits w : Nat) : Bool := decide (nbits ≠ 16) && decide (w / 2 ^ 26 % 64 = 0x15)

/-- A region register that covers the whole scratchpad with read, write and execute (R152). -/
def regionAll : Word := 0x0100000000000070#64

/-- A context with nothing in it, of the given partition (R405). -/
def Ctx.blank (soruses : List Nat) (memcores : List EId) : Ctx :=
  { soruses := soruses, memcores := memcores, root := 0, allotBase := 0, allotSize := 0, sliceFirst := 0,
    sliceCount := 0, key := 0, weights := List.replicate 8 1, share := 0, prio := 0, switch := .running,
    switchAt := none, switchYield := false, sup := none, scopes := [], templates := [], sheets := [], abandoned := [], waits := [], events := [],
    barriers := [], work := [], window := [], doorbell := 0, consumed := 0,
    hq := { base := 0, log2n := 0, en := false, w := 0 }, cq := { base := 0, log2n := 0, en := false, w := 0 },
    held := [], load := none, twin := [], shadow := 0, parkedFrames := [], quarantine := [], trace := none,
    bkpts := Vector.replicate 4 0, reports := [], xfers := [], counts := [] }

/-- A machine in which element e runs an activation with PC 0, for a fetch to find: it belongs to context 0, is its
supervisor, and its region 0 covers its scratchpad (log 7). -/
def State.withRunning (s : State) (e : EId) : State :=
  let C := { Ctx.blank [0] [mkE 0 64 0] with sup := some e }
  let s := { s with ctxs := tset s.ctxs 0 C, cur := e }
  let b : Binding := { prio := 0, floor := false, entry := 0, wp := 0x8000, rsize := 0 }
  let s := s.updElem e (fun E => { E with mode := .normal, regions := vset E.regions 0 regionAll })
  s.updElem e (fun E => { E with act := some (s.newAct e false 0 b false 0 (words8 []) none) })

/-- Store an instruction at the PC of the element that acts next, and let it act next. -/
def State.placeWord (s : State) (nbits w : Nat) : State :=
  let s := match s.act with
    | some _ => s
    | none => s.withRunning (if isMemCoreWord nbits w then mkE 0 64 0 else 0)
  let s := s.updElem s.cur (fun E => { E with stalled := false, insn := none, olds := [] })
  let pc := match s.act with | some A => A.pc.toNat | none => 0
  { (s.writeOwn s.cur pc (tableBytes nbits w)) with turns := [.core s.cur] }

end Sys2Proof.Machine
end

