-- ==== Sys2Proof/Machine/Access.lean ====
section
/-!
DEFINITION. Checked accesses: splitting (R155), the order of checks (R158), translation (R291–R297), pieces of
scratchpad, HBM and host memory, and the digest of stores (R380).
-/
namespace Sys2Proof.Machine

/-! ### Translation (R291–R295) -/

/-- A level of the walk: index of an address, bytes of a table of the next level, page log2 with SZ 0 and SZ 1. -/
def levelIndex (level va : Nat) : Nat :=
  match level with
  | 3 => va / 2 ^ 39 % 8192
  | 2 => va / 2 ^ 29 % 1024
  | 1 => va / 2 ^ 21 % 256
  | _ => va / 2 ^ 12 % 512

def leafLog2 (level : Nat) (sz : Bool) : Nat :=
  match level with
  | 2 => 29
  | 1 => if sz then 25 else 21
  | _ => if sz then 16 else 12

def tableLog2 (level : Nat) : Nat := match level with | 3 => 13 | _ => 12

/-- A table entry, read as it stands: the walk takes no notice of an uncorrectable error in its granule (R294; log 12). -/
def readEntry (s : State) (table idx : Nat) : Word := leWord (memRead s.mem (hbmKey (table + 8 * idx)) 8)

/-- Is a valid entry at an index of a level malformed (R292, R293)? -/
def malformed (w : Word) (level idx : Nat) : Bool :=
  let leaf := w.getLsbD 1
  let sz := w.getLsbD 2
  let pa := fld w 51 12 * 4096
  decide (fld w 11 6 ≠ 0) || decide (fld w 63 52 ≠ 0) || (level == 3 && leaf) || (level == 0 && !leaf) ||
  (sz && (level == 3 || level == 2 || !leaf || idx % 16 != 0)) ||
  (if leaf then decide (pa % 2 ^ leafLog2 level sz ≠ 0) else decide (pa % 2 ^ tableLog2 level ≠ 0))

/-- One entry of the walk: the mapping or the code and CAUSE of R293 and R297, or the next table. -/
def walkStep (s : State) (C : Ctx) (va table level : Nat) : Except (Nat × Nat) (TlbEntry ⊕ Nat) :=
  let idx := levelIndex level va
  let head := readEntry s table (idx / 16 * 16)
  let useHead := (level == 1 || level == 0) && head.getLsbD 0 && head.getLsbD 1 && head.getLsbD 2
  let w := if useHead then head else readEntry s table idx
  let i := if useHead then idx / 16 * 16 else idx
  if !w.getLsbD 0 then .error (0x15, 1 + level)
  else if malformed w level i then .error (0x1E, 1 + level)
  else
    let pa := fld w 51 12 * 4096
    if w.getLsbD 1 then
      let l := leafLog2 level (w.getLsbD 2)
      if C.allotBase ≤ pa ∧ pa + 2 ^ l ≤ C.allotBase + C.allotSize then
        .ok (.inl { va := va / 2 ^ l * 2 ^ l, log2 := l, pa := pa, ro := w.getLsbD 3, xn := w.getLsbD 4, tc := w.getLsbD 5 })
      else .error (0x16, 3)
    else .ok (.inr pa)

/-- Walk from a level's table downward (R291). -/
def walk (s : State) (C : Ctx) (va : Nat) : Nat → Nat → Except (Nat × Nat) TlbEntry
  | level, table =>
    match walkStep s C va table level with
    | .error c => .error c
    | .ok (.inl t) => .ok t
    | .ok (.inr next) =>
      match level with
      | 0 => .error (0x1E, 1)
      | l + 1 => walk s C va l next

/-- The translation root of a context's memory core; copy B of a twin launch has its own (R384, R405). -/
def Ctx.rootOf (C : Ctx) (e : EId) : Nat := if (C.twin.getD 1 []).contains e then C.shadow else C.root

/-- The translation root of an element. -/
def State.rootAt (s : State) (e : EId) : Nat := match s.ctxAt e with | some C => C.rootOf e | none => 0

/-- The entry of an element's TLB for an address, walked from the root that it has now, while the TLB holds it (R294). -/
def tlbHit (s : State) (e : EId) (va : Nat) : Option TlbEntry :=
  match (s.elem e).tlb.find? (fun t => t.1 == s.rootAt e && va / 2 ^ t.2.log2 * 2 ^ t.2.log2 == t.2.va) with
  | some t => if Config.tlbHolds s.stepNo then some t.2 else none
  | none => none

/-- The translation of a device virtual address by element e: from its TLB while it holds one, or by a walk (R294). -/
def xlate (s : State) (e : EId) (va : Nat) : Except (Nat × Nat) TlbEntry :=
  match s.ctxAt e with
  | none => .error (0x15, 4)
  | some C =>
    match tlbHit s e va with
    | some t => .ok t
    | none => walk s C va 3 (C.rootOf e)

/-- Memory cores lose every translation that their TLBs hold: their context begins or ends (R293; log 65). -/
def State.flushTlbs (s : State) (l : List EId) : State := l.foldl (fun s e => s.updElem e (fun E => { E with tlb := [] })) s

/-- The TLB after a translation: every walk counts as a miss, and a valid mapping that it finds is held (R294, R385). -/
def noteXlate (s : State) (e : EId) (va : Nat) : State :=
  if (tlbHit s e va).isSome then s
  else
    let found := match xlate s e va with | .ok t => [(s.rootAt e, t)] | .error _ => []
    s.updElem e (fun E => { E with
      tlb := found ++ E.tlb.filter (fun t => !found.contains t)
      evc := vset E.evc 7 (vget 0 E.evc 7 + 1) })

def TlbEntry.phys (t : TlbEntry) (va : Nat) : Nat := t.pa + (va - t.va)

/-! ### Pieces (R155) -/

/-- The part of a single-copy atomic piece that lies in one 64-byte line: nearly always the whole piece. -/
structure Part where
  /-- its distance from the access's address -/
  off : Nat
  size : Nat
  /-- the bytes of its piece -/
  whole : Nat
  /-- it ends a piece that began in the line before -/
  rest : Bool

/-- Such a part where it lies; its key, or the code and CAUSE that stop it when it is performed. -/
structure Piece where
  addr : Word
  size : Nat
  whole : Nat
  rest : Bool
  place : Place
  key : Except (Nat × Nat) Nat

/-- Does a piece go on in the next line? -/
def Piece.more (p : Piece) : Bool := !p.rest && decide (p.size < p.whole)

/-- Pieces that are performed when this part is (PROGRESS counts whole pieces, R160). -/
def Piece.count (p : Piece) : Nat := if p.more then 0 else 1

/-- A piece that is a part of its own. -/
def part (off n : Nat) : Part := { off := off, size := n, whole := n, rest := false }

/-- The parts of a piece of at most 64 bytes at address p. -/
def cutLine (p off n : Nat) : List Part :=
  let k := 64 - p % 64
  if n ≤ k then [part off n]
  else [{ off := off, size := k, whole := n, rest := false }, { off := off + k, size := n - k, whole := n, rest := true }]

/-- The largest power of two that R155 allows at q. -/
def pieceSize (q left n atom : Nat) : Nat :=
  ([64, 32, 16, 8, 4, 2, 1].find? (fun s => decide (s ≤ left) && decide (s ≤ n) && decide (s ≤ atom) && decide (q % s = 0))).getD 1

/-- The pieces of n bytes at p by the loop of R155, as offsets from p and sizes. -/
def splitFrom (p n atom off : Nat) : Nat → List (Nat × Nat)
  | 0 => []
  | fuel + 1 =>
    if n ≤ off then []
    else
      let s := pieceSize (p + off) (n - off) n atom
      (off, s) :: splitFrom p n atom (off + s) fuel

/-- The pieces of an access of n bytes at p (R155): an aligned one is one piece, or pieces of the atomic size, of which the last
holds what is left (log 68). -/
def splitAccess (p n atom : Nat) : List Part :=
  if n = 0 then []
  else if p % n ≠ 0 then (splitFrom p n atom 0 n).map (fun x => part x.1 x.2)
  else (List.range ((n + atom - 1) / atom)).flatMap (fun i => cutLine (p + i * atom) (i * atom) (Nat.min atom (n - i * atom)))

def atomOf (a : Word) : Nat := match apOf a with | 8 => 32 | 9 => 8 | _ => 64

/-- What an access needs: its apertures, the attributes, tag checking, natural alignment, a fixed piece size or 0. -/
structure Need where
  aps : List Nat
  rd : Bool := false
  wr : Bool := false
  tags : Bool := true
  natural : Bool := false
  piece : Nat := 0
  align : Nat := 0          -- an alignment of its own, or 0

def Need.write (d : Need) : Bool := d.wr

/-- Host memory at an IOVA as element e addresses it: the access carries the function of its context (R404). -/
def State.hostOf (s : State) (e : EId) (iova : Nat) : Nat := hostAt (ctxFn ((s.ctxOf e).getD 0)) iova

/-- Does a host access to n bytes complete with an error or time out (R295, R297)? -/
def hostCause (s : State) (e : EId) (iova n : Nat) : Option Nat :=
  if (s.elem e).hostTimeout then some 2
  else if s.hostErrors.any (fun r => decide (s.hostOf e iova < r.1 + r.2) && decide (r.1 < s.hostOf e iova + n)) then some 1
  else none

/-- Key of a place, or why the piece stops when it is performed. -/
def placeKey (s : State) (e : EId) (n : Nat) : Place → Except (Nat × Nat) Nat
  | .own p => .ok (s.ownKey e p)
  | .raw t o => if s.isFenced t then .error (0x17, 0) else .ok (scratchKey t o)
  | .dev va => match xlate s e va with
    | .ok t => .ok (hbmKey (t.phys va))
    | .error c => .error c
  | .host i => match hostCause s e i n with
    | some c => .error (0x1C, c)
    | none => .ok (hostKey (s.hostOf e i))

/-- Resolve every piece, or the aperture fault of the first that fails, with the piece's address (R147, R158). -/
def resolvePieces (s : State) (e : EId) (d : Need) (a : Word) : List Part → Except Flt (List Piece)
  | [] => .ok []
  | x :: l =>
    let p := a + BitVec.ofNat 64 x.off
    match resolve s e d.aps p with
    | .error c => .error {
        code := 0x10, faddr := if x.rest then p - BitVec.ofNat 64 (x.whole - x.size) else p
        extra := MemX.word { size := x.whole, write := d.write, ptag := ptagOf p, cause := c } }
    | .ok pl =>
      match resolvePieces s e d a l with
      | .error f => .error f
      | .ok ps => .ok ({ addr := p, size := x.size, whole := x.whole, rest := x.rest, place := pl, key := placeKey s e x.size pl } :: ps)

/-- The region fault of a piece of the own scratchpad for one attribute (R153); WRITE says whether the piece writes (R160). -/
def regionFault (s : State) (e : EId) (wr : Bool) (attr : Nat) (p : Piece) : Option Flt :=
  match p.place with
  | .own o =>
    (lacking (s.regionsOf e) attr (s.ownSize e) o p.size).map (fun (d, c) =>
      { code := 0x14, faddr := p.addr + BitVec.ofNat 64 d,
        extra := MemX.word { size := p.whole, write := wr, ptag := ptagOf p.addr, cause := c } })
  | _ => none

/-- The tag fault of a piece, of the own scratchpad or of a device page with TC (R154, R296). Where only some bytes of an access are
tag-checked, the lines compared are those of the parts of pieces with such a byte, and the first touched byte of a line is the
first byte of its first such part (log 23). -/
def tagFault (s : State) (e : EId) (wr : Bool) (p : Piece) : Option Flt :=
  let bad := fun key => if (tagAt s key).toNat = ptagOf p.addr then none else
    some { code := 0x12, faddr := p.addr,
           extra := MemX.word { size := p.whole, write := wr, ptag := ptagOf p.addr, mtag := (tagAt s key).toNat } }
  match p.place with
  | .own o =>
    if (List.range p.size).any (fun i => hasAttr (s.regionsOf e) ((o + i) % s.ownSize e) attrTC)
    then bad (s.ownKey e o / 64 * 64) else none
  | .dev va => match xlate s e va with
    | .ok t => if t.tc then bad (hbmKey (t.phys va) / 32 * 32) else none
    | .error _ => none
  | _ => none

/-- The fault of a write to a page with RO set (R296). -/
def roFault (s : State) (e : EId) (p : Piece) : Option Flt :=
  match p.place with
  | .dev va => match xlate s e va with
    | .ok t => if t.ro then
        some { code := 0x16, faddr := p.addr, extra := MemX.word { size := p.whole, write := true, ptag := ptagOf p.addr, cause := 1 } }
      else none
    | .error _ => none
  | _ => none

/-- The first fault that a check finds in the pieces, in ascending order. -/
def firstFault (ps : List Piece) (chk : Piece → Option Flt) : Option Flt := ps.findSome? chk

/-- The checks of R158 from the region check on, for pieces that passed the aperture and alignment checks. A piece of an atomic
reads and writes: WRITE of the fault for its missing RD is 1 (log 23). -/
def checkPieces (s : State) (e : EId) (d : Need) (a : Word) (ps : List Piece) : Option Flt :=
  let region := match (if d.rd then firstFault ps (regionFault s e d.write attrRD) else none) with
    | some f => some f
    | none => if d.wr then firstFault ps (regionFault s e d.write attrWR) else none
  match region with
  | some f => some f
  | none =>
    if ps.any (fun p => touchesArea s e p.place p.size) then some { code := 0x08, faddr := a, extra := 0 }
    else match (if d.tags then firstFault ps (tagFault s e d.write) else none) with
    | some f => some f
    | none => if d.wr then firstFault ps (roFault s e) else none

/-- The address in its memory that R155 splits an access by: the scratchpad offset, or the whole address (log 68). -/
def splitBase (s : State) (e : EId) (a : Word) : Nat :=
  if apOf a = 0 then (if (s.frondOf e).isSome then fld a 19 0 else fld a 15 0)
  else if 8 ≤ apOf a then a.toNat else fld a 15 0

/-- The pieces of an access of n bytes at an address (R155). -/
def partsOf (s : State) (e : EId) (d : Need) (a : Word) (n : Nat) : List Part :=
  if d.piece = 0 then splitAccess (splitBase s e a) n (atomOf a)
  else (List.range (n / d.piece)).map (fun i => part (i * d.piece) d.piece)

/-- The checks of R158 on n bytes at an address, in their order; the pieces of an access that passes them. An alignment fault reports the
size of what must be aligned: of an atomic, LD.acq and ST.rel the whole access (log 23). -/
def plan (s : State) (e : EId) (d : Need) (a : Word) (n : Nat) : Except Flt (List Piece) :=
  match resolvePieces s e d a (partsOf s e d a n) with
  | .error f => .error f
  | .ok ps =>
    let unit := if d.align ≠ 0 then d.align else if d.piece = 0 then n else d.piece
    if (d.natural = true ∨ d.align ≠ 0) ∧ a.toNat % unit ≠ 0 then
      .error { code := 0x11, faddr := a, extra := MemX.word { size := unit, write := d.write, ptag := ptagOf a } }
    else match checkPieces s e d a ps with
    | some f => .error f
    | none => .ok ps

/-- The TLB after the translations of an access. -/
def notePieces (s : State) (e : EId) (ps : List Piece) : State :=
  ps.foldl (fun s p => match p.place with | .dev va => noteXlate s e va | _ => s) s

/-- The TLB after an access that a check of R158 stopped: a tag or page check has translated its pieces. -/
def noteStopped (s : State) (e : EId) (d : Need) (a : Word) (n : Nat) (f : Flt) : State :=
  if f.code = 0x12 ∨ f.code = 0x16 then
    match resolvePieces s e d a (partsOf s e d a n) with
    | .ok ps => notePieces s e ps
    | .error _ => s
  else s

/-! ### Performing pieces (R157, R158, R160) -/

/-- Bytes protected together by ECC at a key: a scratchpad doubleword, an HBM granule (R157, log 12). -/
def eccUnit (key : Nat) : Nat := if key < 2 ^ 60 then 8 else 32

/-- Is host memory at this key, which the package's ECC does not protect? -/
def isHostKey (key : Nat) : Bool := decide (2 ^ 70 ≤ key)

/-- The marks of uncorrectable errors in n bytes at a key. -/
def poisonIn (s : State) (key n : Nat) : Option Nat :=
  if isHostKey key then none
  else s.poison.find? (fun k => decide (k < key + n) && decide (key < k + eccUnit key))

/-- The fault that stops a piece when it is performed; `done` pieces were performed before it. -/
def stopFault (p : Piece) (wr : Bool) (done : Nat) (code cause : Nat) (addr : Word) : Flt :=
  { code := code, faddr := addr,
    extra := MemX.word { size := p.whole, write := wr, ptag := ptagOf p.addr, cause := cause, progress := done } }

/-- Address of the unit that holds an uncorrectable error at key k, met by a piece: in HBM that of its 32-byte granule (log 12). -/
def unitAddr (p : Piece) (key k : Nat) : Word := if k ≤ key then p.addr - BitVec.ofNat 64 (key - k) else p.addr + BitVec.ofNat 64 (k - key)

/-- Perform the load pieces in ascending order. -/
def readPieces (s : State) (ps : List Piece) (done : Nat) : Except Flt (List Byte) :=
  match ps with
  | [] => .ok []
  | p :: ps =>
    match p.key with
    | .error (code, cause) => .error (stopFault p false done code cause p.addr)
    | .ok key =>
      match poisonIn s key p.size with
      | some k => .error (stopFault p false done 0x18 0 (unitAddr p key k))
      | none =>
        match readPieces s ps (done + p.count) with
        | .error f => .error f
        | .ok bs => .ok (memRead s.mem key p.size ++ bs)

/-- The errors that a store of n bytes at a key clears: those of units it writes wholly (R157). -/
def clearPoison (s : State) (key n : Nat) : State :=
  if isHostKey key then s
  else { s with poison := s.poison.filter (fun k => !(decide (key ≤ k) && decide (k + eccUnit key ≤ key + n))) }

/-- Do the HBM controllers bar a write of n bytes at a key: do they lie in the allotment of a context whose key is not the one
that the writer carries (R419)? A barred write is not performed (log 64). -/
def State.barred (s : State) (k : Word) (key n : Nat) : Bool :=
  decide (2 ^ 60 ≤ key) && decide (key < 2 ^ 61) && s.ctxs.any (fun p =>
    p.2.key != k && decide (2 ^ 60 + p.2.allotBase < key + n) && decide (key < 2 ^ 60 + p.2.allotBase + p.2.allotSize))

/-- The key that an element's writes carry: its context's (R405, R419). -/
def State.keyOf (s : State) (e : EId) : Word := match s.ctxAt e with | some C => C.key | none => 0

/-- The bytes of a store piece of the executing element reach memory; those of another element's scratchpad may be code that it
runs (R28). -/
def State.putPiece (s : State) (pl : Place) (key : Nat) (bs : List Byte) : State :=
  let t := match pl with
    | .own p => s.dropOlds s.cur p bs.length
    | .raw t o => s.noteStore s.cur t o bs.length
    | _ => s
  { t with mem := memWrite s.mem key bs }

/-- What stops a store piece of the executing element: its key's code, or an error in a unit that it writes only in part (R157). -/
def Piece.blocked (p : Piece) (s : State) (done : Nat) : Option Flt :=
  match p.key with
  | .error (code, cause) => some (stopFault p true done code cause p.addr)
  | .ok key =>
    if s.barred (s.keyOf s.cur) key p.size then none
    else (poisonIn (clearPoison s key p.size) key p.size).map (fun k => stopFault p true done 0x18 0 (unitAddr p key k))

/-- The bytes of a store piece are written, unless the HBM controllers bar them (R419). -/
def Piece.write (p : Piece) (s : State) (bs : List Byte) : State :=
  match p.key with
  | .error _ => s
  | .ok key => if s.barred (s.keyOf s.cur) key p.size then s else (clearPoison s key p.size).putPiece p.place key bs

/-- Perform the store pieces in ascending order; the pieces below a stop stand. -/
def writePieces (s : State) (ps : List Piece) (bs : List Byte) (done : Nat) : Res :=
  match ps with
  | [] => (s, none)
  | p :: ps =>
    match (p.blocked s done).or (if p.more then ps.head?.bind (fun q => q.blocked s done) else none) with
    | some f => (s, some f)
    | none => writePieces (p.write s (bs.take p.size)) ps (bs.drop p.size) (done + p.count)

/-- Fold a store to raw bytes of element t that are the own ones of e, each 64-byte line at its own offset (R348, R380). -/
def foldLines (s : State) (e t : EId) (o : Nat) (bs : List (Option Byte)) (d : Word) : Word :=
  (List.range ((o % 64 + bs.length + 63) / 64)).foldl (fun d i =>
    let line := o / 64 * 64 + 64 * i
    let lo := Nat.max o line
    match s.ownOffset e t lo with
    | some p => foldMasked d (locOwn (s.ownSize e)) p ((bs.drop (lo - o)).take (line + 64 - lo))
    | none => d) d

/-- Fold a store of the bytes that are present, from a place on, into a digest (R380). -/
def foldAt (s : State) (e : EId) (d : Word) (pl : Place) (bs : List (Option Byte)) : Word :=
  match pl with
  | .own p => foldMasked d (locOwn (s.ownSize e)) p bs
  | .raw t o => match s.ownOffset e t o with
    | some p => if (s.frondOf e).isSome then foldLines s e t o bs d else foldMasked d (locOwn (s.ownSize e)) p bs
    | none => foldMasked d (locOther e t) o bs
  | .dev va => foldMasked d locDev va bs
  | .host i => foldMasked d locHost i bs

/-- Fold a store at a place into a digest. -/
def foldPlace (s : State) (e : EId) (d : Word) (pl : Place) (bs : List Byte) : Word := foldAt s e d pl (bs.map some)

/-- The digest after a store of all its pieces. -/
def foldPieces (s : State) (e : EId) (d : Word) (ps : List Piece) (bs : List Byte) : Word :=
  match ps with
  | [] => d
  | p :: _ => foldPlace s e d p.place bs

/-! ### Whole accesses of the executing element -/

/-- Load n bytes: the state (its TLB) and the bytes, or the fault. -/
def loadBytes (s : State) (d : Need) (a : Word) (n : Nat) : State × Except Flt (List Byte) :=
  match plan s s.cur d a n with
  | .error f => (noteStopped s s.cur d a n f, .error f)
  | .ok ps => (notePieces s s.cur ps, readPieces s ps 0)

/-- Store bytes and fold them into the activation's digest. Accesses through apertures 8 and 9 are performed in program order too, one of
the orders that R175 allows (log 1). -/
def storeBytes (s : State) (A : Act) (d : Need) (a : Word) (bs : List Byte) : State × Act × Option Flt :=
  match plan s s.cur d a bs.length with
  | .error f => (noteStopped s s.cur d a bs.length f, A, some f)
  | .ok ps =>
    match writePieces s ps bs 0 with
    | (t, some f) => (notePieces t s.cur ps, A, some f)
    | (t, none) => (notePieces t s.cur ps, { A with digest := foldPieces s s.cur A.digest ps bs }, none)

/-- Read n bytes of the own scratchpad through window 0 at an offset of a descriptor, with RD and the register area
checked (R129, R258): the bytes, or the fault. Such a read is checked by region and register area only. -/
def ownSource (s : State) (off n : Nat) : Except Flt (List Byte) :=
  match plan s s.cur { aps := [0], rd := true, tags := false } (BitVec.ofNat 64 off) n with
  | .error f => .error f
  | .ok ps => readPieces s ps 0

/-- The checks of such a read alone, before anything is read. -/
def ownCheck (s : State) (off n : Nat) : Option Flt :=
  match plan s s.cur { aps := [0], rd := true, tags := false } (BitVec.ofNat 64 off) n with
  | .error f => some f
  | .ok _ => none

/-- Check n bytes of the own scratchpad as a destination: WR, then the register area (R172, R257). -/
def ownDest (s : State) (off n : Nat) : Option Flt :=
  match plan s s.cur { aps := [0], wr := true, tags := false } (BitVec.ofNat 64 off) n with
  | .error f => some f
  | .ok _ => none

/-- The part of n own bytes of e from p that lies in one 64-byte line is about to be overwritten by element w (R28, R348). -/
def State.noteOwnLine (s : State) (w e : EId) (line p n : Nat) : State :=
  let lo := Nat.max line p
  let k := s.ownKey e lo
  s.noteStore w (k / 65536) (k % 65536) (Nat.min (line + 64) (p + n) - lo)

/-- n own bytes of e from p are about to be overwritten by element w, or on the device's behalf: the activation that may fetch them
is that of the element whose pooled scratchpad holds them (R28, R348). -/
def State.noteOwn (s : State) (w e : EId) (p n : Nat) : State :=
  (List.range ((n + p % 64 + 63) / 64)).foldl (fun s i => s.noteOwnLine w e (p / 64 * 64 + 64 * i) p n) s

/-- Write bytes into an element's own scratchpad on behalf of element w: unchecked, tags unchanged (R153). -/
def State.deviceWrite (s : State) (w e : EId) (p : Nat) (bs : List Byte) : State :=
  let s := (s.noteOwn w e p bs.length).writeOwn e p bs
  { s with poison := s.poison.filter (fun k =>
      !((List.range (bs.length / 8)).any (fun i => k == s.ownKey e ((p + 7) / 8 * 8 + 8 * i) && decide ((p + 7) / 8 * 8 + 8 * i + 8 ≤ p + bs.length)))) }

/-- Read n raw bytes for the device; the bytes of a unit that holds an uncorrectable error are not stated: free (log 4). -/
def State.deviceRead (s : State) (key : Nat) : Nat → List Byte
  | 0 => []
  | n + 1 => (if (poisonIn s key 1).isSome then (s.free key).setWidth 8 else memGet s.mem key) :: s.deviceRead (key + 1) n

/-- Read n bytes of an element's own scratchpad for the device (R348). -/
def State.deviceReadOwn (s : State) (e : EId) (p : Nat) : Nat → List Byte
  | 0 => []
  | n + 1 => s.deviceRead (s.ownKey e p) 1 ++ s.deviceReadOwn e (p + 1) n

/-- A store of element w into an element's scratchpad by a raw address, unchecked. -/
def State.rawWrite (s : State) (w t : EId) (o : Nat) (bs : List Byte) : State :=
  let s := clearPoison (s.noteStore w t o bs.length) (scratchKey t o) bs.length
  { s with mem := memWrite s.mem (scratchKey t o) bs }

end Sys2Proof.Machine
end

