-- ==== Sys2Proof/Machine/Operands.lean ====
section
/-!
DEFINITION. Operand forms: immediates (R32, R42), compact registers (R37), access sizes (R36), shift amounts.
-/
namespace Sys2Proof.Machine

/-- A signed immediate, extended to 64 bits. -/
def immS {n : Nat} (i : BitVec n) : Word := i.signExtend 64
/-- A natural immediate, extended to 64 bits. -/
def immN {n : Nat} (i : BitVec n) : Word := i.setWidth 64
/-- A compact register slot names w0–w31 (R37). -/
def c5 (d : BitVec 5) : Reg := d.setWidth 6
/-- The 3-bit slot a of C-M names w0–w7 (R37). -/
def c3 (a : BitVec 3) : Reg := a.setWidth 6
/-- Bytes of a size selector (R36). -/
def sizeOf2 (z : BitVec 2) : Nat := 2 ^ z.toNat
/-- A PC-relative target (R32). -/
def pcRel {n : Nat} (pc : Word) (i : BitVec n) : Word := pc + 2 * immS i
/-- A shift amount is bits [5:0] (R106). -/
def amount (y : Word) : Nat := y.toNat % 64
/-- The ordering selector has an acquire, or a release (R36). -/
def hasAcq (z : BitVec 2) : Bool := z.getLsbD 0
def hasRel (z : BitVec 2) : Bool := z.getLsbD 1

end Sys2Proof.Machine
end

