-- ==== Sys2Proof/Machine/Flags.lean ====
section
/-!
DEFINITION. Conditions and comparisons. The machine has no flags register: a comparison writes 1 or 0 to a register
(R107, R108) or a mask bit, and a conditional branch tests a register (R43).
-/
namespace Sys2Proof.Machine

/-- A truth value as a register holds it. -/
def boolWord (b : Bool) : Word := if b then 1 else 0
/-- Less and less or equal, as i64 or as n64 (R108). -/
def ltWord (n : Bool) (x y : Word) : Bool := if n then decide (x.toNat < y.toNat) else decide (x.toInt < y.toInt)
def leWordCmp (n : Bool) (x y : Word) : Bool := if n then decide (x.toNat ≤ y.toNat) else decide (x.toInt ≤ y.toInt)
/-- The conditions of BRC on a register taken as i64 (R43). -/
def brcHolds (c : BitVec 3) (x : Word) : Bool :=
  match c.toNat with
  | 0 => decide (x = 0)
  | 1 => decide (x ≠ 0)
  | 2 => decide (x.toInt < 0)
  | 3 => decide (0 ≤ x.toInt)
  | 4 => decide (0 < x.toInt)
  | _ => decide (x.toInt ≤ 0)

end Sys2Proof.Machine
end

