-- ==== Sys2Proof/Machine/Control.lean ====
section
/-!
DEFINITION. Branches, calls, the end of an activation, continuations, address building and special registers:
majors 0x03, 0x04 and 0x16 (R97–R104, R109–R115) and their compact forms.
-/
namespace Sys2Proof.Machine

/-- Go to T in activation A, or fault at the own PC with code 0x04 and T (R109). -/
def jumpTo (s : State) (A : Act) (t : Word) : Host.Outcome State Fault Refusal :=
  if pcOk s s.cur t.toNat then .next (s.setAct { A with pc := t }) else faultNow s 0x04 t 0

/-- The link register of CALL and RET is w31 (R109). -/
def linkReg : Reg := 31#6

def branch {n : Nat} (s : State) (i : BitVec n) : Host.Outcome State Fault Refusal :=
  withAct s (fun A => jumpTo s A (pcRel A.pc i))

def branchIf {n : Nat} (s : State) (a : Reg) (c : BitVec 3) (i : BitVec n) (len : Nat) : Host.Outcome State Fault Refusal :=
  withAct s (fun A => if brcHolds c (A.reg a) then jumpTo s A (pcRel A.pc i) else retire s A len)

def execBr (i : BitVec 22) (s : State) := branch s i
def execBrC (i : BitVec 11) (s : State) := branch s i
def execCall (i : BitVec 22) (s : State) : Host.Outcome State Fault Refusal :=
  withAct s (fun A => jumpTo s (A.setReg linkReg (A.pc + 4)) (pcRel A.pc i))
def execBrc (a : Reg) (c : BitVec 3) (i : BitVec 14) (s : State) := branchIf s a c i 4
def execBrcNzC (a : BitVec 5) (i : BitVec 6) (s : State) := branchIf s (c5 a) 1#3 i 2
def execBrcZC (a : BitVec 5) (i : BitVec 6) (s : State) := branchIf s (c5 a) 0#3 i 2
def execJmp (d a : Reg) (s : State) : Host.Outcome State Fault Refusal :=
  withAct s (fun A => jumpTo s (A.setReg d (A.pc + 4)) (A.reg a))
def execRet (s : State) : Host.Outcome State Fault Refusal := withAct s (fun A => jumpTo s A (A.reg linkReg))
def execRetC (s : State) : Host.Outcome State Fault Refusal := withAct s (fun A => jumpTo s A (A.reg linkReg))
def execNop (s : State) : Host.Outcome State Fault Refusal := withAct s (fun A => retire s A 4)
def execNopC (s : State) : Host.Outcome State Fault Refusal := withAct s (fun A => retire s A 2)
def execEndt (s : State) : Host.Outcome State Fault Refusal := withAct s (fun A => .next (s.endAct s.cur A))
def execEndtC (s : State) : Host.Outcome State Fault Refusal := withAct s (fun A => .next (s.endAct s.cur A))

/-! ### Continuations (R97, R98, R113, R137) -/

/-- The condition operand is valid (R137). -/
def condOk (b : Word) : Bool :=
  let test := fld b 17 16
  let act := fld b 19 18
  decide (fld b 23 20 = 0) && decide (act ≠ 3) && (decide (act ≠ 2) || decide (test = 1)) &&
  (decide (test = 1) || decide (test = 3) || decide (fld b 63 24 = 0))

/-- The continuation descriptor's reserved bits are zero and its ENTRY even (R97). -/
def descOk (a : Word) : Bool := decide (fld a 63 24 = 0) && !a.getLsbD 0

def descQ (a : Word) : Nat := fld a 19 16
def descKind (a : Word) : Nat := fld a 23 20
def descEntry (a : Word) : BitVec 16 := a.setWidth 16

/-- Arm the slot of a channel of the executing activation's channel set. -/
def armSlot (s : State) (A : Act) (q : Nat) (entry : BitVec 16) (k : ContKind) : State :=
  s.updChan s.cur A.frond q (fun c => { c with cont := some { entry := entry, kind := k, fired := none } })

/-- The engine port that holds an event name (R135). -/
def eventPort (name : Nat) : EId := enginePort (if name < 0x8000 then 0 else 1)


/-- The checks that YIELD and BAR make of a descriptor and its argument (R113, R193): the fault, if any. -/
def contFault (s : State) (A : Act) (desc arg : Word) (kinds : Nat) : Option Flt :=
  let bad : Flt := { code := 0x07, faddr := arg, extra := desc }
  let k := descKind desc
  let c := s.chan s.cur A.frond (descQ desc)
  if !descOk desc || decide (kinds < k) then some bad
  else if c.bind.isNone then some bad
  else if (k == 0 || k == 3) && arg != 0 then some bad
  else if k == 2 && !condOk arg then some bad
  else if c.cont.isSome then some { code := 0x06, faddr := 0, extra := desc }
  else none

def execYield (a b : Reg) (s : State) : Host.Outcome State Fault Refusal :=
  withAct s (fun A =>
    let desc := A.reg a
    let arg := A.reg b
    match contFault s A desc arg 3 with
    | some f => finish (s, some f)
    | none =>
      let q := descQ desc
      let k := match descKind desc with
        | 0 => ContKind.now
        | 1 => .time arg
        | 2 => .event arg
        | _ => .message
      let s1 := armSlot s A q (descEntry desc) k
      let s2 := if descKind desc = 2 then
          s1.inject s.ctxNo s.cur (some (eventPort (fld arg 15 0))) (.evArm arg A.frond (BitVec.ofNat 4 q))
        else s1
      .next (s2.endAct s.cur A))

/-- MKA (R114); within a frond, .loc copies b[22:0] (R349). -/
def mkAddr (frond : Bool) (z : BitVec 2) (a b : Word) : Word :=
  let tag := bitsAt (fld b 59 56) 56
  let off := bitsAt (fld b 18 0) 0
  match z.toNat with
  | 0 => bitsAt 2 60 ||| tag ||| bitsAt (fld a 15 0) 32 ||| off
  | 1 => bitsAt 3 60 ||| tag ||| bitsAt (fld a 15 0) 32 ||| off
  | 2 => bitsAt 1 60 ||| tag ||| bitsAt (fld a 2 0) 32 ||| off
  | _ => tag ||| (if frond then bitsAt (fld b 22 0) 0 else off)

def execMka (d a b : Reg) (z : BitVec 2) (s : State) : Host.Outcome State Fault Refusal :=
  withAct s (fun A => retire s (A.setReg d (mkAddr A.frond z (A.reg a) (A.reg b))) 4)

/-! ### Special registers (R100–R104, R115, R124, R149–R151, R351, R382, R385) -/

/-- FMT values that the format-code table assigns (R151). -/
def fmtOk (f : Nat) : Bool :=
  decide (f ≤ 4) || (decide (0x10 ≤ f) && decide (f ≤ 0x17)) ||
  (decide (0x80 ≤ f) && decide (f ≤ 0xF7) && decide (f / 16 % 2 = 0) && decide (1 ≤ f % 16) && decide (f % 16 ≤ 7))

/-- The FROND register of a composed frond (R351). -/
def Frond.word (f : Frond) : Word :=
  BitVec.ofNat 64 (1 + lg f.n * 2 ^ 4 + f.scope * 2 ^ 8 + f.origin * 2 ^ 16 + f.index f.leader * 2 ^ 32 + f.w * 2 ^ 36 + f.h * 2 ^ 40)

def Elem.allow (E : Elem) : Word :=
  BitVec.ofNat 64 (E.avail % 32 + E.nq.toNat * 2 ^ 8 + (if E.nen then 2 ^ 12 else 0) + (if E.ovf then 2 ^ 13 else 0) + E.undel.toNat * 2 ^ 16)

/-- Special register n of element e; A is its activation, if any (R100). -/
def sprValue (s : State) (e : EId) (A : Option Act) (n : Nat) : Word :=
  let E := s.elem e
  match n with
  | 0 => BitVec.ofNat 64 (0xB0 + 6 * 2 ^ 8 + 5 * 2 ^ 12 + 3 * 2 ^ 16 + (if isMemCore e then 2 ^ 20 else 0))
  | 1 => BitVec.ofNat 64 (e + memberOf e * 2 ^ 16 + sorusInDie e * 2 ^ 19 + ((s.ctxOf e).getD 0) * 2 ^ 32)
  | 2 => match A with | some A => A.wp | none => 0
  | 3 => match A with | some A => BitVec.ofNat 64 (A.chan.toNat + (if A.cont then 16 else 0)) | none => 0
  | 4 => match A with | some A => BitVec.ofNat 64 (A.prio.toNat + (if A.floor then 128 else 0)) | none => 0
  | 5 => BitVec.ofNat 64 s.time
  | 6 => match A with | some A => A.dead.setWidth 64 | none => 0
  | 7 => E.wdlim.setWidth 64
  | 8 => match A with | some A => BitVec.ofNat 64 (s.wdcnt A) | none => 0
  | 9 => E.allow
  | 10 => match s.frondOf e with | some f => f.word | none => 0
  | 11 => match A with | some A => A.digest | none => 0
  | n => if 16 ≤ n ∧ n ≤ 23 then vget 0 E.wcfg (n - 16) else if 24 ≤ n ∧ n ≤ 31 then vget 0 E.evc (n - 24) else 0

def execSrd (d : Reg) (i : BitVec 8) (s : State) : Host.Outcome State Fault Refusal :=
  withAct s (fun A => retire s (A.setReg d (sprValue s s.cur (some A) i.toNat)) 4)

/-- A word that sets a bit reserved in special register n, or an unassigned FMT (R115, R150). -/
def sprReserved (n : Nat) (x : Word) : Bool :=
  match n with
  | 0 => decide (fld x 63 22 ≠ 0)
  | 1 => decide (fld x 31 27 ≠ 0) || decide (fld x 63 38 ≠ 0)
  | 2 => decide (fld x 63 16 ≠ 0)
  | 3 => decide (fld x 63 5 ≠ 0)
  | 4 => decide (fld x 63 8 ≠ 0)
  | 6 => decide (fld x 63 32 ≠ 0)
  | 7 => decide (fld x 63 32 ≠ 0)
  | 8 => decide (fld x 63 32 ≠ 0)
  | 9 => decide (fld x 7 5 ≠ 0) || decide (fld x 15 14 ≠ 0) || decide (fld x 63 32 ≠ 0)
  | 10 => decide (fld x 3 1 ≠ 0) || x.getLsbD 7 || decide (fld x 15 13 ≠ 0) || decide (fld x 63 42 ≠ 0)
  | n => if 17 ≤ n ∧ n ≤ 23 then x.getLsbD 11 || decide (fld x 63 23 ≠ 0) || !fmtOk (fld x 7 0) else false

/-- Registers that software may write: DEADMASK, ALLOW, WCFG1–WCFG7 (R100). -/
def sprWritable (n : Nat) : Bool := n == 6 || n == 9 || (decide (17 ≤ n) && decide (n ≤ 23))

/-- Write DEADMASK: a register named dead loses its value (R93). -/
def Act.setDead (A : Act) (m : BitVec 32) : Act :=
  { A with dead := m, w := Vector.ofFn (fun i : Fin 32 => if m.getLsbD i.val then 0 else A.reg (BitVec.ofNat 6 i.val)) }

/-- Write ALLOW: NQ and NEN are stored, OVF is cleared where written 1 (R124). -/
def Elem.setAllow (E : Elem) (x : Word) : Elem :=
  { E with nq := BitVec.ofNat 4 (fld x 11 8), nen := x.getLsbD 12, ovf := E.ovf && !x.getLsbD 13 }

/-- SWR: a later SRD of the register reads the value written (R84). -/
def execSwr (a : Reg) (i : BitVec 8) (s : State) : Host.Outcome State Fault Refusal :=
  withAct s (fun A =>
    let x := A.reg a
    let n := i.toNat
    if sprReserved n x then faultNow s 0x01 0 (insnExtra (.swr a i) 8)
    else if !sprWritable n then faultNow s 0x09 0 (BitVec.ofNat 64 n)
    else if n = 6 then retire s (A.setDead (x.setWidth 32)) 4
    else if n = 9 then retire (s.updElem s.cur (fun E => E.setAllow x)) A 4
    else retire (s.updElem s.cur (fun E => { E with wcfg := vset E.wcfg (n - 16) x })) A 4)

end Sys2Proof.Machine
end

