-- ==== Sys2Proof/Machine/MemAccess.lean ====
section
/-!
DEFINITION. Scratchpad and memory access: majors 0x05 and 0x06 and the compact loads and stores (R38, R161–R168).
-/
namespace Sys2Proof.Machine

/-! ### Loads and stores -/

/-- Load a value of n bytes at an address into register d, in an instruction of len bytes. -/
def loadTo (s : State) (A : Act) (need : Need) (ea : Word) (n : Nat) (d : Reg) (ext : Nat → Word) (len : Nat) :
    Host.Outcome State Fault Refusal :=
  match loadBytes s need ea n with
  | (t, .error f) => finish (t, some f)
  | (t, .ok bs) => retire t (A.setReg d (ext (leNat bs))) len

/-- Store the low n bytes of a value at an address. -/
def storeFrom (s : State) (A : Act) (need : Need) (ea : Word) (n : Nat) (x : Word) (len : Nat) :
    Host.Outcome State Fault Refusal :=
  match storeBytes s A need ea (leBytes n x.toNat) with
  | (t, B, none) => retire t B len
  | (t, B, some f) => finish (t.setAct B, some f)

def zextTo (v : Nat) : Word := BitVec.ofNat 64 v
def sextFrom (n : Nat) (v : Nat) : Word := BitVec.ofInt 64 (sextNat v (8 * n))

/-- A base plus an immediate scaled by the size (R161). -/
def scaled {n : Nat} (base : Word) (i : BitVec n) (size : Nat) : Word := base + immS i * BitVec.ofNat 64 size

def execLd (d : Reg) (z : BitVec 2) (a : Reg) (i : BitVec 8) (s : State) : Host.Outcome State Fault Refusal :=
  withAct s (fun A =>
    let n := sizeOf2 z
    loadTo s A { aps := apsLoad s.cur, rd := true } (scaled (A.reg a) i n) n d zextTo 4)

def execLdSigned (d : Reg) (z : BitVec 2) (a : Reg) (i : BitVec 8) (s : State) : Host.Outcome State Fault Refusal :=
  withAct s (fun A =>
    let n := sizeOf2 z
    loadTo s A { aps := apsLoad s.cur, rd := true } (scaled (A.reg a) i n) n d (sextFrom n) 4)

def execSt (d : Reg) (z : BitVec 2) (a : Reg) (i : BitVec 8) (s : State) : Host.Outcome State Fault Refusal :=
  withAct s (fun A =>
    let n := sizeOf2 z
    storeFrom s A { aps := apsLoad s.cur, wr := true } (scaled (A.reg a) i n) n (A.reg d) 4)

def execLdDC (d : BitVec 5) (a i : BitVec 3) (s : State) : Host.Outcome State Fault Refusal :=
  withAct s (fun A =>
    loadTo s A { aps := apsLoad s.cur, rd := true } (A.reg (c3 a) + immN i * 8) 8 (c5 d) zextTo 2)

def execStDC (d : BitVec 5) (a i : BitVec 3) (s : State) : Host.Outcome State Fault Refusal :=
  withAct s (fun A =>
    storeFrom s A { aps := apsLoad s.cur, wr := true } (A.reg (c3 a) + immN i * 8) 8 (A.reg (c5 d)) 2)

/-- The bounds check of R163: code 0x13 with the index and the bound, or the address. -/
def bounded (A : Act) (a b : Reg) (size : Nat) : Except Flt Word :=
  let x := A.reg b
  let bound := A.reg (a + 1)
  if bound.toNat ≤ x.toNat then .error { code := 0x13, faddr := x, extra := bound }
  else .ok (A.reg a + x * BitVec.ofNat 64 size)

def execLdx (d a b : Reg) (z : BitVec 2) (s : State) : Host.Outcome State Fault Refusal :=
  withAct s (fun A =>
    let n := sizeOf2 z
    match bounded A a b n with
    | .error f => finish (s, some f)
    | .ok ea => loadTo s A { aps := apsLocal s.cur, rd := true } ea n d zextTo 4)

def execStx (d a b : Reg) (z : BitVec 2) (s : State) : Host.Outcome State Fault Refusal :=
  withAct s (fun A =>
    let n := sizeOf2 z
    match bounded A a b n with
    | .error f => finish (s, some f)
    | .ok ea => storeFrom s A { aps := apsLocal s.cur, wr := true } ea n (A.reg d) 4)

/-! ### Several registers (R164) -/

/-- The register j after the first of a run. -/
def regAt (d : Reg) (j : Nat) : Reg := d + BitVec.ofNat 6 j

/-- Load the pieces into their registers, `done` moved before: the activation, and the fault that stops it. -/
def loadRun (s : State) (A : Act) (done : Nat) : List (Reg × Piece) → Act × Option Flt
  | [] => (A, none)
  | (r, p) :: l =>
    match readPieces s [p] done with
    | .error f => (A, some f)
    | .ok bs => loadRun s (A.setReg r (leWord bs)) (done + 1) l

/-- The base is loaded last (R164). -/
def baseLast (a : Reg) (l : List (Reg × Piece)) : List (Reg × Piece) :=
  l.filter (fun p => p.1 != a) ++ l.filter (fun p => p.1 == a)

def execLdm (d a b : Reg) (s : State) : Host.Outcome State Fault Refusal :=
  withAct s (fun A =>
    match plan s s.cur { aps := apsLocal s.cur, rd := true, natural := true, piece := 8 } (A.reg a) (8 * b.toNat) with
    | .error f => finish (s, some f)
    | .ok ps =>
      let regs := (List.range b.toNat).map (regAt d)
      match loadRun s A 0 (baseLast a (regs.zip ps)) with
      | (B, none) => retire s B 4
      | (B, some f) => finish (s.setAct B, some f))

def execStm (d a b : Reg) (s : State) : Host.Outcome State Fault Refusal :=
  withAct s (fun A =>
    let bs := (List.range b.toNat).flatMap (fun j => wordBytes (A.reg (regAt d j)))
    match storeBytes s A { aps := apsLocal s.cur, wr := true, natural := true, piece := 8 } (A.reg a) bs with
    | (t, B, none) => retire t B 4
    | (t, B, some f) => finish (t.setAct B, some f))

/-! ### Memory tags (R154, R165, R295, R296) -/

/-- The key of the line or granule that an address names, after the checks of R165; none where no tag is held (R295). A fault of
translation names the granule (R297). -/
def tagLine (s : State) (e : EId) (wr : Bool) (a : Word) : Except Flt (Option Nat) :=
  let x := fun (size cause : Nat) => MemX.word { size := size, write := wr, ptag := ptagOf a, cause := cause }
  match resolve s e (apsLoad e) a with
  | .error c => .error { code := 0x10, faddr := a, extra := x 64 c }
  | .ok (.own p) =>
    let l := p / 64 * 64
    match lacking (s.regionsOf e) (if wr then attrWR else attrRD) (s.ownSize e) l 64 with
    | some (d, c) => .error { code := 0x14, faddr := a - BitVec.ofNat 64 (p - l) + BitVec.ofNat 64 d, extra := x 64 c }
    | none =>
      if touchesArea s e (.own l) 64 then .error { code := 0x08, faddr := a, extra := 0 }
      else .ok (some (s.ownKey e l))
  | .ok (.raw t o) =>
    let l := o / 64 * 64
    if touchesArea s e (.raw t l) 64 then .error { code := 0x08, faddr := a, extra := 0 }
    else if s.isFenced t then .error { code := 0x17, faddr := a, extra := x 64 0 }
    else .ok (some (scratchKey t l))
  | .ok (.dev va) =>
    match xlate s e va with
    | .error (code, c) => .error { code := code, faddr := a &&& ~~~31#64, extra := x 32 c }
    | .ok t =>
      if wr && t.ro then .error { code := 0x16, faddr := a &&& ~~~31#64, extra := x 32 1 }
      else .ok (some (hbmKey (t.phys va) / 32 * 32))
  | .ok (.host _) => .ok none

/-- The TLB after LTAG or STAG of an address: one that passes the aperture check is translated. -/
def noteTag (s : State) (a : Word) : State :=
  match resolve s s.cur (apsLoad s.cur) a with
  | .ok (.dev va) => noteXlate s s.cur va
  | _ => s

def execLtag (d a : Reg) (s : State) : Host.Outcome State Fault Refusal :=
  withAct s (fun A =>
    match tagLine s s.cur false (A.reg a) with
    | .error f => finish (noteTag s (A.reg a), some f)
    | .ok k =>
      let t := match k with | some k => tagAt s k | none => 0
      retire (noteTag s (A.reg a)) (A.setReg d (t.setWidth 64)) 4)

/-- STAG: the reserved bits of register b are judged before the checks of the line (log 23). -/
def execStag (a b : Reg) (s : State) : Host.Outcome State Fault Refusal :=
  withAct s (fun A =>
    let x := A.reg b
    if fld x 63 4 ≠ 0 then faultNow s 0x19 0 x
    else match tagLine s s.cur true (A.reg a) with
    | .error f => finish (noteTag s (A.reg a), some f)
    | .ok none => if x ≠ 0 then faultNow s 0x19 0 x else retire s A 4
    | .ok (some k) =>
      let t := noteTag s (A.reg a)
      retire (if s.barred (s.keyOf s.cur) k 1 then t else setTag t k (x.setWidth 4)) A 4)

/-! ### Address conversion and tests (R166, R167, R349) -/

/-- What an address of aperture 0–3 names, its tag taken as zero: element, offset, window, and whether the offset is
pooled; none where R147 refuses it for another reason than the partition, an aperture-1 address of a memory core (CAUSE 1) among them,
which R166 does not list (log 22). -/
def named (s : State) (e : EId) (a : Word) : Option (EId × Nat × Nat × Bool) :=
  let ok := zeroBitsOk s e a
  match apOf a with
  | 0 => if !ok then none else
    match s.frondOf e with
    | some _ => some (e, fld a 19 0, fld a 22 20, true)
    | none => some (e, fld a 15 0, fld a 18 16, false)
  | 1 => if !ok || isMemCore e then none else
    (onMesh (targetOf e a)).bind (fun t => if isElem t then some (t, fld a 15 0, fld a 18 16, false) else none)
  | 2 => if !ok then none else
    (onMesh (targetOf e a)).bind (fun t => if isElem t then some (t, fld a 15 0, fld a 18 16, false) else none)
  | 3 => if !ok then none else
    (onMesh (targetOf e a)).bind (fun t => if isElem t then some (t, fld a 15 0, fld a 18 16, false) else none)
  | _ => none

/-- A raw address of element t in aperture 3 as e writes it; none if a coordinate does not fit its field. -/
def relWord (e t : EId) : Option Nat :=
  let dd : Int := (eDie t : Int) - eDie e
  let dx : Int := (eX t : Int) - eX e
  let dy : Int := (eY t : Int) - eY e
  if -64 ≤ dx ∧ dx ≤ 63 ∧ -32 ≤ dy ∧ dy ≤ 31 then
    some ((dd % 8).toNat * 8192 + (dx % 128).toNat * 64 + (dy % 64).toNat)
  else none

/-- The result of a conversion to a raw form (R166). A memory core has no aperture-1 form, not even of itself (log 22). -/
def rawForm (e t : EId) (o : Nat) (tag : Word) (z : Nat) : Option Word :=
  match z with
  | 0 => some (bitsAt 2 60 ||| tag ||| bitsAt t 32 ||| bitsAt o 0)
  | 1 => (relWord e t).map (fun w => bitsAt 3 60 ||| tag ||| bitsAt w 32 ||| bitsAt o 0)
  | _ =>
    if isCore e && isCore t && sorusOf e == sorusOf t then some (bitsAt 1 60 ||| tag ||| bitsAt (memberOf t) 32 ||| bitsAt o 0)
    else none

/-- CVA: the converted address, or none. -/
def convert (s : State) (e : EId) (a : Word) (z : Nat) : Option Word :=
  let tag := bitsAt (ptagOf a) 56
  match named s e a with
  | none => none
  | some (t, o, win, pooled) =>
    if apOf a ≠ 0 ∧ win ≠ 0 then none
    else if z = 3 then
      match s.frondOf e, pooled with
      | some _, true => some (tag ||| bitsAt (fld a 22 0) 0)
      | some f, false =>
        if f.members.contains t then some (tag ||| bitsAt (64 * f.n * (o / 64) + 64 * f.index t + o % 64) 0) else none
      | none, _ => if t = e then some (tag ||| bitsAt (win * 65536 + o) 0) else none
    else if win ≠ 0 then none
    else match s.frondOf e, pooled with
    | some f, true => rawForm e (f.member (o / 64 % f.n)) (64 * (o / (64 * f.n)) + o % 64) tag z
    | _, _ => rawForm e t o tag z

def execCva (d a : Reg) (z : BitVec 2) (s : State) : Host.Outcome State Fault Refusal :=
  withAct s (fun A => retire s (A.setReg d ((convert s s.cur (A.reg a) z.toNat).getD (BitVec.allOnes 64))) 4)

/-- TSTA: the four bits of R167. An address that R147 refuses for its tag, its window or the partition (CAUSE 3 or 5) still names its
element, so that bits 0, 2 and 3 are judged (log 23). -/
def testAddr (s : State) (e : EId) (a : Word) (sc : Nat) : Nat :=
  let reach := match resolve s e (apsRemote e) a with | .ok _ => 2 | .error _ => 0
  match named s e a with
  | none => reach
  | some (t, _, _, _) =>
    let inScope := match s.ctxAt e with | some C => (C.scopeMembers e sc).contains t | none => false
    (if inScope then 1 else 0) + reach + (if t = e then 4 else 0) +
    (if t = e || (isCore e && isCore t && sorusOf e == sorusOf t) then 8 else 0)

def execTsta (d a b : Reg) (s : State) : Host.Outcome State Fault Refusal :=
  withAct s (fun A => retire s (A.setReg d (BitVec.ofNat 64 (testAddr s s.cur (A.reg a) b.toNat))) 4)

/-! ### Region registers (R152, R168, R350) -/

/-- Is the executing element its context's supervisor core? -/
def State.isSup (s : State) : Bool :=
  match s.ctxAt s.cur with
  | some C => C.sup == some s.cur
  | none => false

/-- A value that a region register may hold, for a scratchpad of some size. -/
def regionOk (x : Word) (size : Nat) : Bool :=
  decide (fld x 3 0 = 0) && decide (fld x 15 8 = 0) && decide (fld x 39 16 + fld x 63 40 ≤ size)

def execRegionRd (d b : Reg) (s : State) : Host.Outcome State Fault Refusal :=
  withAct s (fun A => retire s (A.setReg d ((s.regionsOf s.cur).getD b.toNat 0)) 4)

def execRegionWr (a b : Reg) (s : State) : Host.Outcome State Fault Refusal :=
  withAct s (fun A =>
    let x := A.reg a
    if !s.isSup then faultNow s 0x03 0 (insnExtra (.regionWr a b) 0)
    else
      match s.frondOf s.cur with
      | some _ =>
        if regionOk x 0x100000 then retire (s.updElem s.cur (fun E => { E with pregions := vset E.pregions b.toNat x })) A 4
        else faultNow s 0x19 0 x
      | none =>
        if regionOk x 0x10000 then retire (s.updElem s.cur (fun E => { E with regions := vset E.regions b.toNat x })) A 4
        else faultNow s 0x19 0 x)

end Sys2Proof.Machine
end

