-- ==== Sys2Proof/Machine/Moves.lean ====
section
/-!
DEFINITION. When an element may issue, the moves of agents that have no row in the opcode table, and the clock.
-/
namespace Sys2Proof.Machine

/-- May the element issue: in its normal mode, in a context that runs, or that stops while the element stalls in an instruction that
completes first (R369, R375). -/
def State.mayIssue (s : State) (e : EId) : Bool :=
  decide ((s.elem e).mode = .normal) && !s.isFenced e &&
  (match s.ctxAt e with
   | some C => decide (C.switch = .running) || (decide (C.switch = .stopping) && s.completesFirst e)
   | none => false)

/-- WDLIM is non-zero and the clocks counted have reached it, also where they passed what WDCNT holds within one step (R96). -/
def State.watchdogDue (s : State) (e : EId) (A : Act) : Bool :=
  let l := (s.elem e).wdlim.toNat
  decide (l ≠ 0) && decide (l ≤ s.wdClocks A)

/-- A move that is no row of the table. -/
def State.otherMove (s : State) (t : Turn) : State :=
  match t with
  | .hostWrite fn a bs => s.hostWrite (hostAt fn a) bs
  | .hostError fn b l on =>
    { s with hostErrors := if on then (hostAt fn b, l) :: s.hostErrors else s.hostErrors.filter (· != (hostAt fn b, l)) }
  | .silence e on => if isElem e then s.updElem e (fun E => { E with silent := on }) else s
  | .damage so on =>
    if 512 ≤ so then s
    else { s with pkg := { s.pkg with failing := if on then sinsert s.pkg.failing so else s.pkg.failing.filter (· != so) } }
  | .corrected e kind => s.updElem e (fun E => { E with
      evc := if kind = 1 then vset E.evc 1 (vget 0 E.evc 1 + 1) else vset E.evc 2 (vget 0 E.evc 2 + 1) })
  | .schedule c t => s.updCtx c (fun C =>
      if C.switchAt.isNone && decide (s.time + 1800 ≤ t) then { C with switchAt := some t, switchYield := false } else C)
  | _ => s

/-- The clock after a move: it rises by one clock and a free number of further clocks, which every stalled element counts
(R104, R385), and each gang switch whose time has come takes place at its time (R375). -/
def State.tick (s : State) (n : Nat) : State :=
  let dt := 1 + Config.elapsed n
  let s := { s with elems := s.elems.map (fun p : Nat × Elem =>
    if p.2.stalled then (p.1, { p.2 with evc := vset p.2.evc 5 (vget 0 p.2.evc 5 + BitVec.ofNat 64 dt) }) else p) }
  { s with time := s.time + dt, stepNo := n + 1 }.gangStops

end Sys2Proof.Machine
end

