-- ==== Sys2Proof/Machine/Remote.lean ====
section
/-!
DEFINITION. Remote access: major 0x07 (R169–R172) and its events.
-/
namespace Sys2Proof.Machine

/-- The aperture and alignment checks of a remote access of n bytes: RST, RAMO and RCAS make no other (R171, R190). -/
def remoteAt (s : State) (e : EId) (a : Word) (n : Nat) (wr remote : Bool) : Except Flt Place :=
  let x := fun c => MemX.word { size := n, write := wr, remote := remote, ptag := ptagOf a, cause := c }
  match resolve s e (apsRemote e) a with
  | .error c => .error { code := 0x10, faddr := a, extra := x c }
  | .ok pl => if a.toNat % n ≠ 0 then .error { code := 0x11, faddr := a, extra := x 0 } else .ok pl

/-- The posted writes of an element to a target that are in flight. -/
def State.postedTo (s : State) (e t : EId) : List Flight := (s.postedOf e).filter (fun f => f.dst == some t)

/-- The REMOTE bit in the extra word of a region or tag fault of a remote form (R160). -/
def Flt.asRemote (f : Flt) : Flt := if f.code = 0x14 ∨ f.code = 0x12 then { f with extra := f.extra ||| 32 } else f

/-- The checks of a load that an RLD of n bytes makes after aperture and alignment: the region and the tag of own bytes through
aperture 0, and the register area through any aperture (R92, R153, R158; log 67). -/
def rldFault (s : State) (a : Word) (n : Nat) (pl : Place) : Option Flt :=
  let p : Piece := { addr := a, size := n, whole := n, rest := false, place := pl, key := placeKey s s.cur n pl }
  (checkPieces s s.cur { aps := apsRemote s.cur, rd := true } a [p]).map Flt.asRemote

/-- Perform or stall an RLD of the executing element: it follows every earlier posted write of its element to the target, where R170 names
the RSTs of its activation to the same bytes only (log 67). -/
def rldNow (s : State) (A : Act) (d : Reg) (a : Word) (n : Nat) : Host.Outcome State Fault Refusal :=
  match remoteAt s s.cur a n false true with
  | .error f => finish (s, some f)
  | .ok pl =>
    match rldFault s a n pl with
    | some f => finish (s, some f)
    | none =>
      let (t, o) := rawOf s s.cur pl
      let x := MemX.word { size := n, remote := true, ptag := ptagOf a }
      if !(s.postedTo s.cur t).isEmpty then stall s
      else if s.isFenced t then faultNow s 0x17 a x
      else match poisonIn s (scratchKey t o) n with
      | some _ => faultNow s 0x18 (a - BitVec.ofNat 64 (o % 8)) x
      | none => retire s (A.setReg d (leWord (memRead s.mem (scratchKey t o) n))) 4

def execRld (d a : Reg) (z : BitVec 2) (s : State) : Host.Outcome State Fault Refusal :=
  withAct s (fun A => rldNow s A d (A.reg a) (sizeOf2 z))

/-- REMOTE_READ: the target answers the RLD for which element e stalls; with no such RLD nothing happens. -/
def execRemoteRead (e : EId) (s : State) : Host.Outcome State Fault Refusal :=
  let E := s.elem e
  match E.act with
  | none => .next s
  | some A =>
    if !(E.stalled && s.mayIssue e) then .next s
    else match E.insn with
    | some (.rld d a z) =>
      let s := { s.updElem e (fun E => { E with stalled := false }) with cur := e }
      match rldNow s A d (A.reg a) (sizeOf2 z) with
      | .next t => .next (t.afterInstr e)
      | .fault r => .fault r
      | .refused r => .refused r
    | _ => .next s

/-- Post a write of the executing element with status d: nothing is sent without allowance (R171). -/
def postWrite (s : State) (A : Act) (d : Reg) (dst : EId) (b : Body) (digest : Word) : Host.Outcome State Fault Refusal :=
  if (s.elem s.cur).avail < 1 then retire s (A.setReg d 1) 4
  else
    let t := (s.takeUnit 1).inject s.ctxNo s.cur (some dst) b
    retire t ({ A with digest := digest }.setReg d 0) 4

def execRst (d a b : Reg) (z : BitVec 2) (s : State) : Host.Outcome State Fault Refusal :=
  withAct s (fun A =>
    let n := sizeOf2 z
    let addr := A.reg a
    match remoteAt s s.cur addr n true true with
    | .error f => finish (s, some f)
    | .ok pl =>
      let (t, o) := rawOf s s.cur pl
      let bs := leBytes n (A.reg b).toNat
      postWrite s A d t (.rst addr o n (leWord bs)) (foldPlace s s.cur A.digest pl bs))

/-- A posted write is refused: its notice carries the words of R171, R190 or R196, and returns the unit. -/
def State.refusePosted (s : State) (f : Flight) (ws : List Word) : State :=
  (s.land f).inject f.ctx (f.dst.getD f.src) (some f.src) (.notice (words8 ([1] ++ ws)))

/-- in2 of the notice of a refused posted write: reason, function value, marker (R121). -/
def postedIn2 (reason fn marker : Nat) : Word := BitVec.ofNat 64 (reason + fn * 2 ^ 8 + 2 ^ marker)

/-- Why a target refuses a posted write that writes n bytes at a raw offset; 0 bytes where it must read (R157, R171). A fence comes before
an error (log 19). -/
def postedRefusal (s : State) (t : EId) (o n : Nat) : Option Nat :=
  if s.isFenced t then some 4
  else if (poisonIn s (scratchKey t (o / 8 * 8)) 8).isSome && n != 8 then some 9
  else none

/-- REMOTE_STORE: RST k is applied at its target, or refused with a notice (R171). -/
def execRemoteStore (k : Nat) (s : State) : Host.Outcome State Fault Refusal :=
  arrival s k (fun f =>
    match f.body, f.dst with
    | .rst addr o n data, some t =>
      match postedRefusal s t o n with
      | some r => s.refusePosted f [addr, postedIn2 r 1 12, data]
      | none => ((s.land f).rawWrite f.src t o (leBytes n data.toNat)).giveBack f (some f.src)
    | _, _ => s)

/-- The descriptor of RCOPY (R172). -/
def rcopyDst (x : Word) : Nat := fld x 15 0
def rcopyLen (x : Word) : Nat := fld x 28 16
def rcopyQ (x : Word) : Nat := fld x 35 32

/-- RCOPY's descriptor is in order; a LEN outside 1–4,096 takes code 0x19 as the breaches that R172 names do (log 23). -/
def rcopyOk (x : Word) (off : Nat) : Bool :=
  decide (fld x 31 29 = 0) && decide (fld x 63 36 = 0) && decide (1 ≤ rcopyLen x) && decide (rcopyLen x ≤ 4096) &&
  decide (off + rcopyLen x ≤ 0x10000) && decide (rcopyDst x + rcopyLen x ≤ 0x10000)

/-- RCOPY: an aperture fault of its source reports SIZE 0, one byte (log 23). The offset of a local source counts its window, as R145 lays
it out. -/
def execRcopy (d a b : Reg) (s : State) : Host.Outcome State Fault Refusal :=
  withAct s (fun A =>
    let addr := A.reg a
    let x := A.reg b
    match remoteAt s s.cur addr 1 false true with
    | .error f => finish (s, some f)
    | .ok pl =>
      let src := match pl with | .own p => (s.cur, p) | .raw t o => (t, o) | _ => (s.cur, 0)
      if !rcopyOk x (match pl with | .own _ => localOffset s s.cur addr | _ => src.2) then faultNow s 0x19 0 x
      else match ownDest s (rcopyDst x) (rcopyLen x) with
      | some f => finish (s, some f.asRemote)
      | none => postWrite s A d src.1 (.rcopy addr src.2 x (s.leads s.cur)) A.digest)

/-- RCOPY_COMPLETE: the bytes of copy k are written into the issuer's scratchpad, then the completion is sent (R172). -/
def execRcopyComplete (k : Nat) (s : State) : Host.Outcome State Fault Refusal :=
  arrival s k (fun f =>
    match f.body, f.dst with
    | .rcopy addr off x pooled, some t =>
      let e := f.src
      let n := rcopyLen x
      let fenced := s.isFenced t
      let bs := if fenced then [] else if pooled && apOf addr == 0 then s.deviceReadOwn e off n
        else s.deviceRead (scratchKey t off) n
      let s1 := s.land f
      let s2 := if pooled then s1.deviceWrite e e (rcopyDst x) bs else s1.rawWrite e e (rcopyDst x) bs
      s2.deviceSend f.ctx (unitOf e) e (rcopyQ x)
        [3, addr, BitVec.ofNat 64 ((if fenced then 4 else 0) + bs.length * 2 ^ 16), x] (some e)
    | _, _ => s)

end Sys2Proof.Machine
end

