-- ==== Sys2Proof/Machine/Scalar.lean ====
section
/-!
DEFINITION. Integer instructions: majors 0x00, 0x01, 0x02 (R105–R108) and their compact forms (R38, R39).
-/
namespace Sys2Proof.Machine

/-- An instruction of n bytes that writes a function of the activation's registers into register d. -/
def regOp (s : State) (d : Reg) (n : Nat) (f : Act → Word) : Host.Outcome State Fault Refusal :=
  withAct s (fun A => retire s (A.setReg d (f A)) n)

/-- High half of the product, read as i64 or n64 (R106). -/
def mulHigh (n : Bool) (x y : Word) : Word :=
  if n then BitVec.ofNat 64 (x.toNat * y.toNat / 2 ^ 64) else BitVec.ofInt 64 (x.toInt * y.toInt / (2 : Int) ^ 64)

/-- Quotient toward zero, modulo 2^64 (R106). -/
def quot (n : Bool) (x y : Word) : Word :=
  if n then BitVec.ofNat 64 (x.toNat / y.toNat) else BitVec.ofInt 64 (Int.tdiv x.toInt y.toInt)

/-- Remainder with the sign of the dividend (R106). -/
def remn (n : Bool) (x y : Word) : Word :=
  if n then BitVec.ofNat 64 (x.toNat % y.toNat) else BitVec.ofInt 64 (Int.tmod x.toInt y.toInt)

/-- Division forms: code 0x05 with the dividend when the divisor is zero. -/
def divOp (s : State) (d a b : Reg) (f : Word → Word → Word) : Host.Outcome State Fault Refusal :=
  withAct s (fun A =>
    if A.reg b = 0 then faultNow s 0x05 0 (A.reg a) else retire s (A.setReg d (f (A.reg a) (A.reg b))) 4)

def minWord (n : Bool) (x y : Word) : Word := if ltWord n y x then y else x
def maxWord (n : Bool) (x y : Word) : Word := if ltWord n x y then y else x

/-- Leading zeros, trailing zeros, ones (R108). -/
def clzWord (x : Word) : Nat := ((List.range 64).takeWhile (fun i => !x.getLsbD (63 - i))).length
def ctzWord (x : Word) : Nat := ((List.range 64).takeWhile (fun i => !x.getLsbD i)).length
def popWord (x : Word) : Nat := ((List.range 64).filter (fun i => x.getLsbD i)).length

def execAdd (d a b : Reg) (s : State) := regOp s d 4 (fun A => A.reg a + A.reg b)
def execSub (d a b : Reg) (s : State) := regOp s d 4 (fun A => A.reg a - A.reg b)
def execMul (d a b : Reg) (s : State) := regOp s d 4 (fun A => A.reg a * A.reg b)
def execMulh (d a b : Reg) (n : Bool) (s : State) := regOp s d 4 (fun A => mulHigh n (A.reg a) (A.reg b))
def execDiv (d a b : Reg) (n : Bool) (s : State) := divOp s d a b (quot n)
def execRem (d a b : Reg) (n : Bool) (s : State) := divOp s d a b (remn n)
def execAnd (d a b : Reg) (s : State) := regOp s d 4 (fun A => A.reg a &&& A.reg b)
def execOr (d a b : Reg) (s : State) := regOp s d 4 (fun A => A.reg a ||| A.reg b)
def execXor (d a b : Reg) (s : State) := regOp s d 4 (fun A => A.reg a ^^^ A.reg b)
def execShl (d a b : Reg) (s : State) := regOp s d 4 (fun A => A.reg a <<< amount (A.reg b))
def execShr (d a b : Reg) (s : State) := regOp s d 4 (fun A => A.reg a >>> amount (A.reg b))
def execSra (d a b : Reg) (s : State) := regOp s d 4 (fun A => (A.reg a).sshiftRight (amount (A.reg b)))
def execRotl (d a b : Reg) (s : State) := regOp s d 4 (fun A => (A.reg a).rotateLeft (amount (A.reg b)))
def execMin (d a b : Reg) (n : Bool) (s : State) := regOp s d 4 (fun A => minWord n (A.reg a) (A.reg b))
def execMax (d a b : Reg) (n : Bool) (s : State) := regOp s d 4 (fun A => maxWord n (A.reg a) (A.reg b))
def execSel (d a b : Reg) (s : State) := regOp s d 4 (fun A => if A.reg d ≠ 0 then A.reg a else A.reg b)

def execAddi (d a : Reg) (i : BitVec 8) (s : State) := regOp s d 4 (fun A => A.reg a + immS i)
def execAndi (d a : Reg) (i : BitVec 8) (s : State) := regOp s d 4 (fun A => A.reg a &&& immS i)
def execOri (d a : Reg) (i : BitVec 8) (s : State) := regOp s d 4 (fun A => A.reg a ||| immS i)
def execXori (d a : Reg) (i : BitVec 8) (s : State) := regOp s d 4 (fun A => A.reg a ^^^ immS i)
def execShlImm (d a : Reg) (i : BitVec 6) (s : State) := regOp s d 4 (fun A => A.reg a <<< i.toNat)
def execShrImm (d a : Reg) (i : BitVec 6) (s : State) := regOp s d 4 (fun A => A.reg a >>> i.toNat)
def execSraImm (d a : Reg) (i : BitVec 6) (s : State) := regOp s d 4 (fun A => (A.reg a).sshiftRight i.toNat)
def execRotlImm (d a : Reg) (i : BitVec 6) (s : State) := regOp s d 4 (fun A => (A.reg a).rotateLeft i.toNat)
def execSeqImm (d a : Reg) (i : BitVec 8) (s : State) := regOp s d 4 (fun A => boolWord (decide (A.reg a = immS i)))
def execSneImm (d a : Reg) (i : BitVec 8) (s : State) := regOp s d 4 (fun A => boolWord (decide (A.reg a ≠ immS i)))
def execSltImm (d a : Reg) (i : BitVec 8) (s : State) := regOp s d 4 (fun A => boolWord (ltWord false (A.reg a) (immS i)))
def execSleImm (d a : Reg) (i : BitVec 8) (s : State) := regOp s d 4 (fun A => boolWord (leWordCmp false (A.reg a) (immS i)))

def execNot (d a : Reg) (s : State) := regOp s d 4 (fun A => ~~~A.reg a)
def execClz (d a : Reg) (s : State) := regOp s d 4 (fun A => BitVec.ofNat 64 (clzWord (A.reg a)))
def execCtz (d a : Reg) (s : State) := regOp s d 4 (fun A => BitVec.ofNat 64 (ctzWord (A.reg a)))
def execPopc (d a : Reg) (s : State) := regOp s d 4 (fun A => BitVec.ofNat 64 (popWord (A.reg a)))
def execSeq (d a b : Reg) (s : State) := regOp s d 4 (fun A => boolWord (decide (A.reg a = A.reg b)))
def execSne (d a b : Reg) (s : State) := regOp s d 4 (fun A => boolWord (decide (A.reg a ≠ A.reg b)))
def execSlt (d a b : Reg) (n : Bool) (s : State) := regOp s d 4 (fun A => boolWord (ltWord n (A.reg a) (A.reg b)))
def execSle (d a b : Reg) (n : Bool) (s : State) := regOp s d 4 (fun A => boolWord (leWordCmp n (A.reg a) (A.reg b)))
def execLi (d : Reg) (i : BitVec 16) (s : State) := regOp s d 4 (fun _ => immS i)
def execLih (d : Reg) (i : BitVec 16) (s : State) := regOp s d 4 (fun A => (A.reg d <<< 16) + immN i)

def execMovC (d a : BitVec 5) (s : State) := regOp s (c5 d) 2 (fun A => A.reg (c5 a))
def execAddC (d a : BitVec 5) (s : State) := regOp s (c5 d) 2 (fun A => A.reg (c5 d) + A.reg (c5 a))
def execSubC (d a : BitVec 5) (s : State) := regOp s (c5 d) 2 (fun A => A.reg (c5 d) - A.reg (c5 a))
def execAndC (d a : BitVec 5) (s : State) := regOp s (c5 d) 2 (fun A => A.reg (c5 d) &&& A.reg (c5 a))
def execOrC (d a : BitVec 5) (s : State) := regOp s (c5 d) 2 (fun A => A.reg (c5 d) ||| A.reg (c5 a))
def execXorC (d a : BitVec 5) (s : State) := regOp s (c5 d) 2 (fun A => A.reg (c5 d) ^^^ A.reg (c5 a))
def execAddiC (d : BitVec 5) (i : BitVec 6) (s : State) := regOp s (c5 d) 2 (fun A => A.reg (c5 d) + immS i)
def execLiC (d : BitVec 5) (i : BitVec 6) (s : State) := regOp s (c5 d) 2 (fun _ => immS i)
def execShlC (d : BitVec 5) (i : BitVec 6) (s : State) := regOp s (c5 d) 2 (fun A => A.reg (c5 d) <<< i.toNat)
def execShrC (d : BitVec 5) (i : BitVec 6) (s : State) := regOp s (c5 d) 2 (fun A => A.reg (c5 d) >>> i.toNat)
def execSraC (d : BitVec 5) (i : BitVec 6) (s : State) := regOp s (c5 d) 2 (fun A => (A.reg (c5 d)).sshiftRight i.toNat)

end Sys2Proof.Machine
end

