-- ==== Sys2Proof/Machine/Atomics.lean ====
section
/-!
DEFINITION. Atomics, fences, barriers and scopes: majors 0x08 and 0x09 (R187–R196) and their events.
-/
namespace Sys2Proof.Machine

/-! ### Atomics (R188–R190, R196) -/

/-- new := op(old, b) (R188). -/
def amoNew (o : BitVec 3) (old b : Word) : Word :=
  match o.toNat with
  | 0 => b
  | 1 => old + b
  | 2 => old &&& b
  | 3 => old ||| b
  | 4 => old ^^^ b
  | 5 => minWord false old b
  | 6 => maxWord false old b
  | _ => if b.toNat ≤ old.toNat then old - b else 0

/-- The checks of an atomic on one aligned doubleword. -/
def atomicNeed (aps : List Nat) : Need := { aps := aps, rd := true, wr := true, natural := true }

def atomicAps (e : EId) (host : Bool) : List Nat := if isMemCore e then (if host then [0, 8, 9] else [0, 8]) else [0, 1]

/-- The WRITE bit in the extra word of a fault that stops an atomic as it is performed. -/
def Flt.writing (f : Flt) : Flt := { f with extra := f.extra ||| 8 }

/-- One atomic of the executing element: the old doubleword into d, and the new value, if any, written at one point. -/
def atomic (s : State) (A : Act) (aps : List Nat) (d : Reg) (a : Word) (z : BitVec 2) (new : Word → Option Word) :
    Host.Outcome State Fault Refusal :=
  match plan s s.cur (atomicNeed aps) a 8 with
  | .error f => finish (noteStopped s s.cur (atomicNeed aps) a 8 f, some f)
  | .ok ps =>
    if hasRel z && !(s.postedOf s.cur).isEmpty then stall s
    else match readPieces s ps 0 with
    | .error f => finish (notePieces s s.cur ps, some f.writing)
    | .ok old =>
      let A1 := A.setReg d (leWord old)
      match new (leWord old) with
      | none => retire (notePieces s s.cur ps) A1 4
      | some x =>
        let bs := wordBytes x
        match writePieces s ps bs 0 with
        | (t, some f) => finish (notePieces t s.cur ps, some f)
        | (t, none) => retire (notePieces t s.cur ps) { A1 with digest := foldPieces s s.cur A.digest ps bs } 4

def execAmo (d : Reg) (o : BitVec 3) (a b : Reg) (z : BitVec 2) (s : State) : Host.Outcome State Fault Refusal :=
  withAct s (fun A =>
    atomic s A (atomicAps s.cur (decide (o.toNat ≤ 1))) d (A.reg a) z (fun old => some (amoNew o old (A.reg b))))

def execCas (d a b : Reg) (z : BitVec 2) (s : State) : Host.Outcome State Fault Refusal :=
  withAct s (fun A =>
    atomic s A (atomicAps s.cur true) d (A.reg a) z (fun old => if old = A.reg d then some (A.reg b) else none))

/-- The remote-atomic descriptor (R190). -/
def ramoDescOk (x : Word) : Bool := decide (fld x 63 7 = 0) && decide (fld x 5 4 ≠ 3)

/-- A posted atomic: descriptor, checks, allowance, issue, and with an acquire the wait for its application (R190). -/
def postAtomic (s : State) (A : Act) (d a : Reg) (z : BitVec 2) (body : Word → Nat → Word → Body) (folded : Word) :
    Host.Outcome State Fault Refusal :=
  match (s.elem s.cur).issued with
  | some k =>
    if (s.flight k).isSome then stall s
    else retire (s.updElem s.cur (fun E => { E with issued := none })) A 4
  | none =>
    let x := A.reg d
    let addr := A.reg a
    if !ramoDescOk x then faultNow s 0x19 0 x
    else match remoteAt s s.cur addr 8 true false with
    | .error f => finish (s, some f)
    | .ok pl =>
      if (s.elem s.cur).avail < 1 then retire s (A.setReg d 1) 4
      else
        let (t, o) := rawOf s s.cur pl
        let x1 := x ||| (if hasRel z then bitsAt 1 62 else 0)
        let k := s.nextId
        let s1 := (s.takeUnit 1).inject s.ctxNo s.cur (some t) (body addr o x1)
        let A1 := { A with digest := foldPlace s s.cur A.digest pl (wordBytes folded) }.setReg d 0
        if hasAcq z then stall ((s1.setAct A1).updElem s.cur (fun E => { E with issued := some k }))
        else retire s1 A1 4

def execRamo (d : Reg) (o : BitVec 3) (a b : Reg) (z : BitVec 2) (s : State) : Host.Outcome State Fault Refusal :=
  withAct s (fun A => postAtomic s A d a z (fun addr off x => .ramo addr off o (A.reg b) x) (A.reg b))

def execRcas (d a b : Reg) (z : BitVec 2) (s : State) : Host.Outcome State Fault Refusal :=
  withAct s (fun A => postAtomic s A d a z (fun addr off x => .rcas addr off (A.reg b) (A.reg (b + 1)) x) (A.reg (b + 1)))

/-- A posted atomic has been applied at element t: its notification, or else the unit of allowance, goes out. The target that DEST 1
names is the frond where a frond addressed itself (R190, R352). -/
def State.notify (s : State) (f : Flight) (t : EId) (x : Word) (some1 : Bool) (ws : List Word) : State :=
  let mode := fld x 5 4
  if mode = 2 ∨ (mode = 1 ∧ some1 = true) then
    s.deviceSend f.ctx (unitOf t) (if x.getLsbD 6 && !f.body.toItself then t else f.src) (fld x 3 0) ws (some f.src)
  else s.giveBack f (some f.src)

/-- The aperture-2 form of a raw doubleword (R190). -/
def absWord (t : EId) (o : Nat) : Word := bitsAt 2 60 ||| bitsAt t 32 ||| bitsAt o 0

/-- REMOTE_ATOMIC: RAMO k is applied at its target, or refused with a notice (R190). -/
def execRemoteAtomic (k : Nat) (s : State) : Host.Outcome State Fault Refusal :=
  arrival s k (fun f =>
    match f.body, f.dst with
    | .ramo addr o op b x, some t =>
      match postedRefusal s t o 0 with
      | some r => s.refusePosted f [addr, postedIn2 r (8 + op.toNat) 13, b]
      | none =>
        let old := leWord (memRead s.mem (scratchKey t o) 8)
        let new := amoNew op old b
        ((s.land f).rawWrite f.src t o (wordBytes new)).notify f t x (decide (new = 0) && decide (old ≠ 0))
          [4, absWord t o, old, new, BitVec.ofNat 64 (f.src % 65536), b]
    | _, _ => s)

/-- REMOTE_CAS: RCAS k is applied at its target, or refused with a notice (R196). -/
def execRemoteCas (k : Nat) (s : State) : Host.Outcome State Fault Refusal :=
  arrival s k (fun f =>
    match f.body, f.dst with
    | .rcas addr o want new x, some t =>
      match postedRefusal s t o 0 with
      | some r => s.refusePosted f [addr, postedIn2 r 7 14, want, new]
      | none =>
        let old := leWord (memRead s.mem (scratchKey t o) 8)
        let hit := decide (old = want)
        let s1 := s.land f
        let s2 := if hit then s1.rawWrite f.src t o (wordBytes new) else s1
        s2.notify f t x hit
          [5, absWord t o, old, if hit then new else old, BitVec.ofNat 64 (f.src % 65536 + (if hit then 65536 else 0)), want]
    | _, _ => s)

/-! ### Ordered loads and stores (R195) -/

def execLdAcq (d a : Reg) (z : BitVec 2) (s : State) : Host.Outcome State Fault Refusal :=
  withAct s (fun A => loadTo s A { aps := apsLoad s.cur, rd := true, natural := true } (A.reg a) (sizeOf2 z) d zextTo 4)

def execStRel (d a : Reg) (z : BitVec 2) (s : State) : Host.Outcome State Fault Refusal :=
  withAct s (fun A =>
    let need : Need := { aps := apsLoad s.cur, wr := true, natural := true }
    match plan s s.cur need (A.reg a) (sizeOf2 z) with
    | .error f => finish (noteStopped s s.cur need (A.reg a) (sizeOf2 z) f, some f)
    | .ok _ =>
      if !(s.postedOf s.cur).isEmpty then stall s
      else storeFrom s A need (A.reg a) (sizeOf2 z) (A.reg d) 4)

/-! ### FENCE (R192) -/

/-- The members of a scope as an element uses it. -/
def State.members (s : State) (e : EId) (sc : Nat) : List EId :=
  match s.ctxAt e with
  | some C => C.scopeMembers e sc
  | none => []

/-- The posted writes of an element to members of a scope that are in flight: FENCE stalls for them. -/
def State.fenceHolds (s : State) (e : EId) (sc : Nat) : Bool :=
  let ms := s.members e sc
  (s.postedOf e).any (fun f => f.dst.any ms.contains || (f.body.toItself && ms.contains e))

/-- The mark that FENCE leaves: the element's messages in flight that its later messages to the scope wait for. -/
def State.addMark (s : State) (e : EId) (sc : Nat) : State :=
  let ms := s.members e sc
  let ids := (s.fabric.filter (fun f => f.src == e && f.toMember ms (sc == 3))).map (·.id)
  if ids.isEmpty then s
  else s.updElem e (fun E => { E with
    fences := { members := ms, all := sc == 3, ids := ids } :: E.fences.filter (fun m => m.ids.any (fun i => (s.flight i).isSome)) })

def execFence (b : Reg) (s : State) : Host.Outcome State Fault Refusal :=
  withAct s (fun A =>
    if s.fenceHolds s.cur b.toNat then stall s
    else retire (s.addMark s.cur b.toNat) A 4)

/-! ### Barriers (R193) -/

/-- The checks of BAR: the descriptor as YIELD checks kind NOW, then the scope. -/
def barFault (s : State) (A : Act) (desc : Word) (sc : Nat) : Option Flt :=
  let c := s.chan s.cur A.frond (descQ desc)
  if !descOk desc || descKind desc != 0 || c.bind.isNone then
    some { code := 0x07, faddr := BitVec.ofNat 64 sc, extra := desc }
  else if c.cont.isSome then some { code := 0x06, faddr := 0, extra := desc }
  else if (s.members s.cur sc).isEmpty then some { code := 0x19, faddr := 0, extra := BitVec.ofNat 64 sc }
  else none

/-- Where the barrier state of a scope entry is held for an element: an arrival travels there. -/
def barrierDst (e : EId) (sc : Nat) : EId :=
  match sc with
  | 0 => e
  | 1 => enginePort (eDie e)
  | 2 => enginePort (eDie e)
  | _ => enginePort 0

/-- Which instance of an entry's barrier state an element uses. -/
def barrierPlace (e : EId) (sc : Nat) : Nat :=
  match sc with
  | 0 => e
  | 1 => if isCore e then sorusOf e else 65536 + e
  | 2 => eDie e
  | _ => 0

def execBar (a b : Reg) (s : State) : Host.Outcome State Fault Refusal :=
  withAct s (fun A =>
    let desc := A.reg a
    let sc := b.toNat
    match barFault s A desc sc with
    | some f => finish (s, some f)
    | none =>
      let s1 := armSlot s A (descQ desc) (descEntry desc) .barrier
      let s2 := s1.inject s.ctxNo s.cur (some (barrierDst s.cur sc)) (.barrier sc A.frond (BitVec.ofNat 4 (descQ desc)))
      .next (s2.endAct s.cur A))

/-- The state of a barrier instance; fresh when it has no entry. -/
def Ctx.barrier (C : Ctx) (sc place : Nat) : Barrier :=
  (C.barriers.find? (fun b => b.scope == sc && b.place == place)).getD
    { scope := sc, place := place, episode := 0, counts := [], waiting := [] }

def Ctx.setBarrier (C : Ctx) (b : Barrier) : Ctx :=
  { C with barriers := b :: C.barriers.filter (fun x => !(x.scope == b.scope && x.place == b.place)) }

/-- Count an arrival: the episode completes when every member's count has passed it. -/
def Barrier.arrive (b : Barrier) (ms : List EId) (e : EId) (fr : Bool) (q : BitVec 4) : Barrier :=
  let k := (tget b.counts e).getD 0 + 1
  let b1 := { b with counts := tset b.counts e k, waiting := b.waiting ++ [(e, fr, q, k)] }
  if ms.all (fun m => decide (b1.episode < (tget b1.counts m).getD 0)) then { b1 with episode := b1.episode + 1 } else b1

/-- BARRIER_ARRIVAL: arrival k is counted; a completed episode fires its continuations (R193). -/
def execBarrierArrival (k : Nat) (s : State) : Host.Outcome State Fault Refusal :=
  arrival s k (fun f =>
    match f.body, tget s.ctxs f.ctx with
    | .barrier sc fr q, some C =>
      let ms := C.scopeMembers f.src sc
      let b := (C.barrier sc (barrierPlace f.src sc)).arrive ms f.src fr q
      let due := b.waiting.filter (fun w => w.2.2.2 ≤ b.episode)
      let b1 := { b with waiting := b.waiting.filter (fun w => b.episode < w.2.2.2) }
      let s1 := (s.land f).updCtx f.ctx (fun C => C.setBarrier b1)
      due.foldl (fun s w => s.fire f.ctx (barrierDst f.src sc) w.1 w.2.1 w.2.2.1.toNat
        [BitVec.ofNat 64 w.2.2.2, BitVec.ofNat 64 sc, BitVec.ofNat 64 ms.length]) s1
    | _, _ => s)

/-! ### Scope entries (R69, R187, R194) -/

/-- The rectangle in a 32-bit word (R69). -/
def rectOf (x : Nat) : Rect :=
  { die := x % 2, x0 := x / 2 % 128, y0 := x / 2 ^ 8 % 64, w := x / 2 ^ 14 % 128, h := x / 2 ^ 21 % 64 }

def Rect.word (r : Rect) : Nat := r.die + r.x0 * 2 + r.y0 * 2 ^ 8 + r.w * 2 ^ 14 + r.h * 2 ^ 21

/-- The 32-bit words 1–5 of an entry of 24 bytes. -/
def entryWord (bs : List Byte) (j : Nat) : Nat := leNat ((bs.drop (4 * j)).take 4)

/-- A rectangle that an entry may hold: not empty, within the cores of the die, its reserved bits zero. -/
def rectOk (x : Nat) : Bool :=
  let r := rectOf x
  decide (x / 2 ^ 27 = 0) && decide (1 ≤ r.w) && decide (1 ≤ r.h) && decide (r.x0 + r.w ≤ 64) && decide (r.y0 + r.h ≤ 32)

/-- The reserved bits, rectangles and INDEX of a scope entry's 24 bytes are valid (R69). -/
def scopeOk (bs : List Byte) : Bool :=
  let h := entryWord bs 0
  let n := h / 64 % 4 + 1
  decide (4 ≤ h % 32) && decide (h / 256 = 0) && decide (entryWord bs 5 = 0) &&
  (List.range 4).all (fun j => if j < n then rectOk (entryWord bs (1 + j)) else decide (entryWord bs (1 + j) = 0))

def scopeIndex (bs : List Byte) : Nat := entryWord bs 0 % 32

def scopeOf (bs : List Byte) : Scope :=
  let h := entryWord bs 0
  { mem := h / 32 % 2 == 1, rects := (List.range (h / 64 % 4 + 1)).map (fun j => rectOf (entryWord bs (1 + j))) }

/-- Does every rectangle cover elements of the partition only? -/
def Ctx.coversOwn (C : Ctx) (S : Scope) : Bool := S.rects.all (fun r => r.elems.all (fun e => isCore e && C.owns e))

/-- Has the entry a barrier episode with some arrivals but not all? -/
def Ctx.episodeOpen (C : Ctx) (sc : Nat) : Bool :=
  C.barriers.any (fun b => b.scope == sc && b.counts.any (fun p => decide (b.episode < p.2)))

/-- Write an entry of a context's scope table; its episode counts restart (R193, R194). -/
def Ctx.setScope (C : Ctx) (i : Nat) (S : Scope) : Ctx :=
  { C with scopes := tset C.scopes i S, barriers := C.barriers.filter (fun b => b.scope != i) }

/-- SCW. Its 24 bytes are one access, split as R155 splits any. -/
def execScw (a : Reg) (s : State) : Host.Outcome State Fault Refusal :=
  withAct s (fun A =>
    if !s.isSup then faultNow s 0x03 0 (insnExtra (.scw a) 0)
    else match loadBytes s { aps := [0], rd := true, align := 8 } (A.reg a) 24 with
    | (t, .error f) => finish (t, some f)
    | (t, .ok bs) =>
      match t.ctxAt s.cur with
      | none => faultNow s 0x19 0 (leWord (bs.take 4))
      | some C =>
        let S := scopeOf bs
        let i := scopeIndex bs
        if scopeOk bs && C.coversOwn S && !C.episodeOpen i then retire (t.updCtx s.ctxNo (fun C => C.setScope i S)) A 4
        else finish (t, some { code := 0x19, faddr := 0, extra := leWord (bs.take 4) }))

/-- Doubleword w of scope entry i as SCR reads it: fixed and empty entries hold only INDEX. -/
def Ctx.scopeWord (C : Ctx) (i w : Nat) : Word :=
  match (if i < 4 then none else tget C.scopes i) with
  | none => if w = 0 then BitVec.ofNat 64 i else 0
  | some S =>
    let h := i + (if S.mem then 32 else 0) + (S.rects.length - 1) * 64
    let ws := h :: S.rects.map Rect.word
    BitVec.ofNat 64 (ws.getD (2 * w) 0 + ws.getD (2 * w + 1) 0 * 2 ^ 32)

def execScr (d a b : Reg) (s : State) : Host.Outcome State Fault Refusal :=
  withAct s (fun A =>
    let x := A.reg a
    let w := A.reg b
    if fld x 63 5 ≠ 0 then faultNow s 0x19 0 x
    else if 2 < w.toNat then faultNow s 0x19 0 w
    else
      let v := match s.ctxAt s.cur with | some C => C.scopeWord x.toNat w.toNat | none => 0
      retire s (A.setReg d v) 4)

end Sys2Proof.Machine
end

