-- ==== Sys2Proof/Machine/Messages.lean ====
section
/-!
DEFINITION. Messages, channels, events and bins: majors 0x0A and 0x0B (R116–R144) and their events.
-/
namespace Sys2Proof.Machine

/-! ### Naming a channel (R118) -/

/-- The destination and channel of a message address; none: coordinates that no position has. -/
def msgTarget (e : EId) (a : Word) : Except Flt (Option EId × BitVec 4) :=
  let ap := apOf a
  let bits := match ap with
    | 0 => decide (fld a 55 19 = 0)
    | 1 => !isMemCore e && decide (fld a 55 35 = 0) && decide (fld a 31 19 = 0)
    | 2 => decide (fld a 55 48 = 0) && decide (fld a 31 19 = 0)
    | 3 => decide (fld a 55 48 = 0) && decide (fld a 31 19 = 0)
    | _ => false
  if !bits || ptagOf a != 0 || fld a 18 4 != 0 then .error { code := 0x20, faddr := a, extra := 0 }
  else .ok (if ap = 0 then some e else onMesh (targetOf e a), a.setWidth 4)

/-! ### Sends (R123, R128–R131) -/

/-- What comes back for a send of the executing element: its unit, and the notice's words (R121). -/
def sendRet (s : State) (in1 : Word) (fn marker : Nat) (rest : List Word) : Ret :=
  { credit := some s.cur
    notice := some { in1 := in1, in2 := BitVec.ofNat 64 (fn * 2 ^ 8 + marker), rest := rest }
    cmd := none }

/-- Send one message with one unit of allowance; status in d (R128). -/
def sendOne (s : State) (A : Act) (d : Reg) (dst : Option EId) (b : Body) : Host.Outcome State Fault Refusal :=
  if (s.elem s.cur).avail < 1 then retire s (A.setReg d 1) 4
  else retire ((s.takeUnit 1).inject s.ctxNo s.cur dst b) (A.setReg d 0) 4

def Act.mbs (A : Act) : List Word := A.mb.toList

def execSend (d a : Reg) (s : State) : Host.Outcome State Fault Refusal :=
  withAct s (fun A =>
    match msgTarget s.cur (A.reg a) with
    | .error f => finish (s, some f)
    | .ok (dst, q) => sendOne s A d dst (.msg q (plainMsg A.mbs) (sendRet s (A.reg a) 0 0 (A.mbs.take 5))))

/-- The source descriptor of SENDB (R129). -/
def bulkOk (x : Word) : Bool :=
  decide (fld x 63 29 = 0) && decide (1 ≤ fld x 28 16) && decide (fld x 28 16 ≤ 4096) && decide (fld x 15 0 + fld x 28 16 ≤ 0x10000)

def execSendb (d a b : Reg) (s : State) : Host.Outcome State Fault Refusal :=
  withAct s (fun A =>
    match msgTarget s.cur (A.reg a) with
    | .error f => finish (s, some f)
    | .ok (dst, q) =>
      let x := A.reg b
      if !bulkOk x then faultNow s 0x21 (BitVec.ofNat 64 (fld x 15 0)) x
      else match ownCheck s (fld x 15 0) (fld x 28 16) with
      | some f => finish (s, some f)
      | none =>
        if (s.elem s.cur).avail < 1 then retire s (A.setReg d 1) 4
        else match ownSource s (fld x 15 0) (fld x 28 16) with
        | .error f => finish (s, some f)
        | .ok bs =>
          sendOne s A d dst (.bulk q { kind := .plain, words := words8 (A.mbs.take 6 ++ [BitVec.ofNat 64 bs.length]), region := true }
            bs (sendRet s (A.reg a) 1 0 (A.mbs.take 5))))

/-- The die whose work-queue unit holds the queue of a scope entry (R130). -/
def workDie (C : Ctx) (e : EId) (sc : Nat) : Nat :=
  if sc ≤ 2 then eDie e
  else if sc = 3 then 0
  else match tget C.scopes sc with
    | some S => (S.rects.head?.map (·.die)).getD 0
    | none => 0

def execSendw (d a : Reg) (s : State) : Host.Outcome State Fault Refusal :=
  withAct s (fun A =>
    let x := A.reg a
    let sc := fld x 4 0
    match s.ctxAt s.cur with
    | none => faultNow s 0x23 0 x
    | some C =>
      let ms := C.scopeMembers s.cur sc
      if fld x 7 5 ≠ 0 ∨ fld x 63 12 ≠ 0 ∨ ms.isEmpty then faultNow s 0x23 0 x
      else sendOne s A d (some (enginePort (workDie C s.cur sc)))
        (.work sc ms (BitVec.ofNat 4 (fld x 11 8)) (plainMsg A.mbs) (sendRet s 0 2 0 (A.mbs.take 5))))

def execSendh (d : Reg) (s : State) : Host.Outcome State Fault Refusal :=
  withAct s (fun A => sendOne s A d (some hostLink) (.hostRec A.mbs (sendRet s 0 4 0 (A.mbs.take 5))))

/-! ### Key-routed sends (R139, R140) -/

def keyMix (x : BitVec 32) : BitVec 32 := (x ^^^ (x >>> 16)) * 0x045D9F3B#32

/-- The candidate that a key selects among n (R139). -/
def keyIndex (key : BitVec 32) (n : Nat) : Nat :=
  let x := keyMix (keyMix key)
  (x ^^^ (x >>> 16)).toNat * n / 2 ^ 32

/-- Lane i of a vector register in lanes of 32 bits. -/
def lane32 (v : Vec) (i : Nat) : BitVec 32 := BitVec.ofNat 32 (v.toNat / 2 ^ (32 * i))

/-- Group items by destination, destinations in the order of their first item, items in lane order. -/
def groupItems (l : List (EId × (BitVec 32 × BitVec 32))) : List (EId × List (BitVec 32 × BitVec 32)) :=
  let dests := l.foldl (fun acc p => if acc.contains p.1 then acc else acc ++ [p.1]) []
  dests.map (fun t => (t, (l.filter (fun p => p.1 == t)).map Prod.snd))

/-- SENDK: the reserved bits of the descriptor (0x2B) are judged before its scope (0x23): R140 gives no order (log 23). -/
def execSendk (d a b : Reg) (s : State) : Host.Outcome State Fault Refusal :=
  withAct s (fun A =>
    let x := A.reg d
    let E := s.elem s.cur
    let set := fld x 10 8
    if fld x 7 5 ≠ 0 ∨ fld x 15 11 ≠ 0 ∨ fld x 63 19 ≠ 0 then faultNow s 0x2B 0 x
    else match (match s.ctxAt s.cur with | some C => C.scopeMembers s.cur (fld x 4 0) | none => []) with
    | [] => faultNow s 0x23 0 x
    | m :: ms =>
      let cand := m :: ms
      let mask := if fld x 18 16 = 0 then BitVec.allOnes 64 else vget 0 E.k (fld x 18 16)
      let keys := vget 0 E.v a.toNat
      let vals := vget 0 E.v b.toNat
      let lanes := (List.range 16).filter (fun i => mask.getLsbD i)
      let items := lanes.map (fun i => (cand.getD (keyIndex (lane32 keys i) cand.length) 0, (lane32 keys i, lane32 vals i)))
      let groups := groupItems items
      if E.avail < groups.length then retire s (A.setReg d 1) 4
      else
        let t := groups.foldl (fun t g =>
          t.inject s.ctxNo s.cur (some g.1) (.items (BitVec.ofNat 3 set) g.2
            (sendRet s (bitsAt 2 60 ||| bitsAt g.1 32 ||| BitVec.ofNat 64 set) 3 0 []))) (s.takeUnit groups.length)
        retire t (A.setReg d 0) 4)

/-! ### The allowance notice (R125, R132) -/

/-- The armed allowance notice becomes due when AVAIL reaches THRESH, and stays due; a due notice enters the notice buffer as
soon as an entry is free, and its arming is then spent (R125, R132). -/
def State.settleAllow (s : State) (e : EId) : State :=
  let E := s.elem e
  match E.allowArm with
  | some (t, q, due) =>
    if !due && decide (E.avail < t) then s
    else if E.notices.length < 4 then
      s.updElem e (fun E => { E with
        allowArm := none
        notices := E.notices ++ [{ q := q, words := words8 [2, BitVec.ofNat 64 E.avail] }] })
    else s.updElem e (fun E => { E with allowArm := some (t, q, true) })
  | none => s

def execAllow (d a : Reg) (s : State) : Host.Outcome State Fault Refusal :=
  withAct s (fun A =>
    let x := A.reg a
    let t := fld x 4 0
    if fld x 7 5 ≠ 0 ∨ fld x 63 12 ≠ 0 ∨ 16 < t then faultNow s 0x2C 0 x
    else
      let arm := if t = 0 then none else some (t, BitVec.ofNat 4 (fld x 11 8), false)
      let avail := BitVec.ofNat 64 (s.elem s.cur).avail
      retire ((s.updElem s.cur (fun E => { E with allowArm := arm })).settleAllow s.cur) (A.setReg d avail) 4)

/-! ### Bindings (R133, R134) -/

/-- The binding in a word (R133). -/
def bindingOf (x : Word) : Binding :=
  { prio := BitVec.ofNat 7 (fld x 14 8), floor := x.getLsbD 15, entry := BitVec.ofNat 16 (fld x 31 16),
    wp := BitVec.ofNat 16 (fld x 47 32), rsize := BitVec.ofNat 8 (fld x 55 48) }

/-- The fields of a binding word are valid, the overlap of receive regions apart. -/
def bindFieldsOk (x : Word) : Bool :=
  decide (fld x 7 4 = 0) && decide (fld x 63 56 = 0) && !x.getLsbD 16 && decide (fld x 39 32 = 0) &&
  decide (fld x 47 32 + 256 * (1 + fld x 55 48) ≤ 0x10000)

/-- Does a receive region overlap that of another bound channel? -/
def regionOverlap (chans : Vector Chan 16) (q : Nat) (b : Binding) : Bool :=
  let lo := b.wp.toNat + 256
  let hi := lo + 256 * b.rsize.toNat
  b.rsize != 0 && (List.range 16).any (fun j =>
    j != q && (match (vget Chan.reset chans j).bind with
      | some o => o.rsize != 0 && decide (lo < o.wp.toNat + 256 + 256 * o.rsize.toNat) && decide (o.wp.toNat + 256 < hi)
      | none => false))

/-- The channel set that an activation's own channel instructions act on (R355). -/
def State.chansOf (s : State) (A : Act) : Vector Chan 16 :=
  if A.frond then (match s.frondOf s.cur with | some f => f.chans | none => (s.elem s.cur).chans) else (s.elem s.cur).chans

/-- BIND (R133). A receive region that a message of the earlier binding still occupies makes the new one busy too (log 19). -/
def execBind (a : Reg) (s : State) : Host.Outcome State Fault Refusal :=
  withAct s (fun A =>
    let x := A.reg a
    let q := fld x 3 0
    if !bindFieldsOk x || regionOverlap (s.chansOf A) q (bindingOf x) then faultNow s 0x22 0 x
    else retire (s.updChan s.cur A.frond q (fun c => { c with bind := some (bindingOf x), wait := 0 })) A 4)

/-- UNBIND: the reserved bits (0x22) are judged before the armed continuation (0x25): R134 gives no order (log 23). -/
def execUnbind (a : Reg) (s : State) : Host.Outcome State Fault Refusal :=
  withAct s (fun A =>
    let x := A.reg a
    let q := fld x 3 0
    if fld x 63 4 ≠ 0 then faultNow s 0x22 0 x
    else
      let c := s.chan s.cur A.frond q
      match c.bind with
      | none => retire s A 4
      | some _ =>
        if (match c.cont with | some k => k.kind.awaitsFiring | none => false) then faultNow s 0x25 0 x
        else retire (s.updChan s.cur A.frond q (fun c => { c with bind := none, cont := none })) A 4)

def execPrio (a : Reg) (s : State) : Host.Outcome State Fault Refusal :=
  withAct s (fun A =>
    let x := A.reg a
    let q := fld x 3 0
    if fld x 7 4 ≠ 0 ∨ fld x 63 16 ≠ 0 then faultNow s 0x22 0 x
    else match (s.chan s.cur A.frond q).bind with
    | none => faultNow s 0x24 0 x
    | some b =>
      let b1 := { b with prio := BitVec.ofNat 7 (fld x 14 8), floor := x.getLsbD 15 }
      retire (s.updChan s.cur A.frond q (fun c => { c with bind := some b1 })) A 4)

/-! ### Bins (R141–R143) -/

/-- Bytes of one bin, and its entries. -/
def binCap (capl : BitVec 3) : Nat := 2 ^ capl.toNat - 1
def binStride (kind capl : BitVec 3) : Nat := if kind = 4 then 4 * (binCap capl + 1) else 8

def BinSet.stride (b : BinSet) : Nat := binStride b.kind b.capl
def BinSet.extent (b : BinSet) : Nat := b.count * b.stride

/-- The 32-bit words of a bin after BINCFG. -/
def binInit (kind capl : BitVec 3) : List Nat :=
  if kind = 4 then 0 :: List.replicate (binCap capl) 0xFFFFFFFF else [0, if kind = 3 then 0xFFFFFFFF else 0]

/-- Does a bin set's extent overlap another configured set? -/
def binOverlap (E : Elem) (i : Nat) (b : BinSet) : Bool :=
  (List.range 8).any (fun j => j != i && (match vget none E.bins j with
    | some o => decide (b.base < o.base + o.extent) && decide (o.base < b.base + b.extent)
    | none => false))

def wordsBytes (l : List Nat) : List Byte := l.flatMap (leBytes 4)

/-- BINCFG sets every bin of a set to its initial value; the executing element stores them itself (R28, R141). -/
def State.binFill (s : State) (b : BinSet) : State :=
  s.deviceWrite s.cur s.cur b.base ((List.replicate b.count (wordsBytes (binInit b.kind b.capl))).flatten)

/-- Hand the receive-and-accumulate unit its new state: a release, which waits for the core's earlier posted writes (R178). -/
def binPush (s t : State) (A : Act) : Host.Outcome State Fault Refusal :=
  if (s.postedOf s.cur).isEmpty then retire t A 4 else stall s

/-- BINCFG: the fault address of code 0x26 is register b, or zero where COUNT is 0. Code 0x63 of a frond is judged first, then 0x26, then
0x27: R142 gives no order (log 23). -/
def execBincfg (a b : Reg) (s : State) : Host.Outcome State Fault Refusal :=
  withAct s (fun A =>
    let x := A.reg a
    let base := A.reg b
    let E := s.elem s.cur
    let i := fld x 2 0
    let n := fld x 28 16
    let bs : BinSet := {
      kind := BitVec.ofNat 3 (fld x 6 4), capl := BitVec.ofNat 3 (fld x 10 8), count := n, base := fld base 15 0, applied := 0, isSealed := false }
    if A.frond then faultNow s 0x63 0 0
    else if x.getLsbD 3 || x.getLsbD 7 || fld x 15 11 != 0 || fld x 63 29 != 0 then
      faultNow s 0x26 (if n = 0 then 0 else base) x
    else if n = 0 then binPush s (s.updElem s.cur (fun E => { E with bins := vset E.bins i none })) A
    else if 4 < fld x 6 4 ∨ 4096 < n ∨ (if fld x 6 4 = 4 then ¬(2 ≤ fld x 10 8 ∧ fld x 10 8 ≤ 6) else fld x 10 8 ≠ 0) ∨
        fld base 63 16 ≠ 0 ∨ bs.base % 64 ≠ 0 ∨ 0x10000 < bs.base + bs.extent ∨ binOverlap E i bs = true then
      faultNow s 0x26 base x
    else match vget none E.bins i with
    | some o =>
      if !o.isSealed then faultNow s 0x27 0 x
      else binPush s ((s.binFill bs).updElem s.cur (fun E => { E with bins := vset E.bins i (some bs) })) A
    | none => binPush s ((s.binFill bs).updElem s.cur (fun E => { E with bins := vset E.bins i (some bs) })) A)

/-- The checks that BINSEAL and BINRD share: the set, or the fault. The reserved bits of a (0x26) are judged before the set (0x28): R143
gives no order (log 23). -/
def binSetAt (s : State) (A : Act) (x : Word) : Except Flt BinSet :=
  if A.frond then .error { code := 0x63, faddr := 0, extra := 0 }
  else if fld x 63 3 ≠ 0 then .error { code := 0x26, faddr := 0, extra := x }
  else match vget none (s.elem s.cur).bins (fld x 2 0) with
    | none => .error { code := 0x28, faddr := 0, extra := x }
    | some b => .ok b

def execBinseal (d a : Reg) (s : State) : Host.Outcome State Fault Refusal :=
  withAct s (fun A =>
    match binSetAt s A (A.reg a) with
    | .error f => finish (s, some f)
    | .ok b =>
      binPush s (s.updElem s.cur (fun E => { E with bins := vset E.bins (fld (A.reg a) 2 0) (some { b with isSealed := true }) }))
        (A.setReg d (BitVec.ofNat 64 b.applied)))

def execBinrd (d a b : Reg) (s : State) : Host.Outcome State Fault Refusal :=
  withAct s (fun A =>
    match binSetAt s A (A.reg a) with
    | .error f => finish (s, some f)
    | .ok B =>
      let i := A.reg b
      if B.count ≤ i.toNat then faultNow s 0x26 0 (A.reg a)
      else retire s (A.setReg d (leWord (s.deviceReadOwn s.cur (B.base + B.stride * i.toNat) 8))) 4)

/-- The words of a bin after one item (R141). -/
def binApply (kind capl : BitVec 3) (ws : List Nat) (v : BitVec 32) : List Nat :=
  let c := (ws.getD 0 0 + 1) % 2 ^ 32
  let old := ws.getD 1 0
  match kind.toNat with
  | 0 => [c, old]
  | 1 => [c, (old + v.toNat) % 2 ^ 32]
  | 2 => [c, Nat.max old v.toNat]
  | 3 => [c, Nat.min old v.toNat]
  | _ => c :: (sortBy id (ws.drop 1 ++ [v.toNat])).take (binCap capl)

/-- Apply one item to a bin set of element e. -/
def State.applyItem (s : State) (e : EId) (b : BinSet) (it : BitVec 32 × BitVec 32) : State :=
  let o := b.base + b.stride * (it.1.toNat % b.count)
  let bs := s.deviceReadOwn e o b.stride
  let ws := (List.range (b.stride / 4)).map (fun j => leNat ((bs.drop (4 * j)).take 4))
  s.deviceWrite (unitOf e) e o (wordsBytes (binApply b.kind b.capl ws it.2))

/-! ### Event requests (R135–R138) -/

/-- Send an event request for the name in register a (R136). -/
def eventReq (s : State) (a : Reg) (op : Nat) (v : Act → Word) : Host.Outcome State Fault Refusal :=
  withAct s (fun A =>
    let x := A.reg a
    if fld x 63 16 ≠ 0 then faultNow s 0x29 0 x
    else retire (s.inject s.ctxNo s.cur (some (eventPort x.toNat)) (.evReq op (x.setWidth 16) (v A))) A 4)

def execEvset (a b : Reg) (s : State) := eventReq s a 0 (fun A => A.reg b)
def execEvclr (a : Reg) (s : State) := eventReq s a 1 (fun _ => 0)
def execEvadd (a b : Reg) (s : State) := eventReq s a 2 (fun A => A.reg b)

def execEvarm (a b : Reg) (s : State) : Host.Outcome State Fault Refusal :=
  withAct s (fun A =>
    let desc := A.reg a
    let cond := A.reg b
    let q := descQ desc
    let c := s.chan s.cur A.frond q
    if !descOk desc || descKind desc != 2 || c.bind.isNone || c.cont.isSome then faultNow s 0x2A 0 desc
    else if !condOk cond then faultNow s 0x29 0 cond
    else
      let s1 := armSlot s A q (descEntry desc) (.event cond)
      retire (s1.inject s.ctxNo s.cur (some (eventPort (fld cond 15 0))) (.evArm cond A.frond (BitVec.ofNat 4 q))) A 4)

/-- TEST of a condition for a value (R137). -/
def condHolds (cond v : Word) : Bool :=
  let t := fld cond 63 24
  match fld cond 17 16 with
  | 0 => decide (v ≠ 0)
  | 1 => decide (t ≤ v.toNat)
  | 2 => decide (v = 0)
  | _ => decide (v.toNat = t)

/-- ACT of a condition on a value (R137). -/
def condAct (cond v : Word) : Word :=
  match fld cond 19 18 with
  | 1 => 0
  | 2 => v - BitVec.ofNat 64 (fld cond 63 24)
  | _ => v

/-- test_waiters (R138): the waiters are taken in the order added; the value is changed before the next is tested. -/
def testWaiters (s : State) (ctx name : Nat) (v : Word) : List Waiter → State × Word × List Waiter
  | [] => (s, v, [])
  | w :: ws =>
    if condHolds w.cond v then
      testWaiters (s.fire ctx (eventPort name) w.elem w.frond w.q.toNat [v, BitVec.ofNat 64 name]) ctx name (condAct w.cond v) ws
    else
      let r := testWaiters s ctx name v ws
      (r.1, r.2.1, w :: r.2.2)

/-- Put an event back into its context's table; an entry with value zero and no waiter is freed (R135). -/
def Ctx.setEvent (C : Ctx) (name : Nat) (v : Word) (ws : List Waiter) : Ctx :=
  { C with events := if v = 0 ∧ ws.isEmpty = true then tdel C.events name else tset C.events name { value := v, waiters := ws } }

/-- Entries of the table of a die, of all contexts. -/
def State.eventCount (s : State) (die : Nat) : Nat :=
  s.ctxs.foldl (fun n p => n + (p.2.events.filter (fun x => (x.1 < 0x8000) == (die == 0))).length) 0

/-- A request that finds its table or its wait list full spills, which EVC3 counts (R135, R385). -/
def State.noteSpill (s : State) (e : EId) (spill : Bool) : State :=
  if spill && isElem e then s.updElem e (fun E => { E with evc := vset E.evc 3 (vget 0 E.evc 3 + 1) }) else s

/-- Serve one request of element e on a name: the value, the new waiter if any, then test_waiters. -/
def State.serveEvent (s : State) (ctx : Nat) (e : EId) (name : Nat) (f : Word → Word) (new : List Waiter) : State :=
  match tget s.ctxs ctx with
  | none => s
  | some C =>
    let old := tget C.events name
    let ev := old.getD { value := 0, waiters := [] }
    let spill := (old.isNone && decide (4096 ≤ s.eventCount (if name < 0x8000 then 0 else 1))) ||
      (!new.isEmpty && decide (8 ≤ ev.waiters.length))
    let (s1, v, ws) := testWaiters (s.noteSpill e spill) ctx name (f ev.value) (ev.waiters ++ new)
    s1.updCtx ctx (fun C => C.setEvent name v ws)

/-- EVENT_REQUEST: the event table applies request k (R136). -/
def execEventRequest (k : Nat) (s : State) : Host.Outcome State Fault Refusal :=
  arrival s k (fun f =>
    match f.body with
    | .evReq op name v =>
      (s.land f).serveEvent f.ctx f.src name.toNat (fun V => if op = 0 then v else if op = 1 then 0 else V + v) []
    | _ => s)

/-- EVENT_ARM: the event table adds the waiter of arm request k and tests it at once (R138). -/
def execEventArm (k : Nat) (s : State) : Host.Outcome State Fault Refusal :=
  arrival s k (fun f =>
    match f.body with
    | .evArm cond fr q => (s.land f).serveEvent f.ctx f.src (fld cond 15 0) id [{ elem := f.src, frond := fr, q := q, cond := cond }]
    | _ => s)

/-! ### Acceptance (R119–R125, R130, R131, R141, R356) -/

/-- Accept a message into a holding queue; its unit of allowance goes back. It waits while the queue is full. -/
def State.accept (s : State) (f : Flight) (e : EId) (q : Nat) (m : Msg) (ret : Ret) : State :=
  match s.enqueue e q m with
  | none => s
  | some t => ((t.land f).cmdAccepted f ret.cmd).giveBack f ret.credit

/-- Must a message wait until the frond is released: an evaluation message for a member (R356)? -/
def waitsForRelease (s : State) (e : EId) (m : Msg) : Bool :=
  s.isHeldMember e && (match m.kind with | .eval _ _ _ _ => true | _ => false)

/-- Does a message wait for a fenced element to be remapped rather than be refused: a matrix completion, a fault packet, which its
sender holds until it is accepted, and a firing (R278, R356, R366; log 39)? -/
def outlastsFence (m : Msg) (ret : Ret) : Bool := ret.cmd.isSome || m.kind == .packet || m.kind == .firing

/-- MESSAGE_ACCEPT: short class-C message k is accepted, refused with a notice, or waits (R119, R120). A firing whose frond was
released before its holding queue had room reaches its slot (R356). -/
def execMessageAccept (k : Nat) (s : State) : Host.Outcome State Fault Refusal :=
  arrival s k (fun f =>
    match f.body with
    | .msg q m ret =>
      match s.refusal f with
      | some r => if r == 4 && outlastsFence m ret then s else s.refuse f ret r
      | none => match f.dst with
        | some e =>
          if waitsForRelease s e m then s
          else if m.kind == .firing && !s.holdsFirings e then (s.land f).fireSlot e false q.toNat m.words
          else s.accept f e q.toNat m ret
        | none => s
    | _ => s)

/-- BULK_MESSAGE_ACCEPT: the payload of bulk message k is written into the receive region, its header queued (R122). -/
def execBulkMessageAccept (k : Nat) (s : State) : Host.Outcome State Fault Refusal :=
  arrival s k (fun f =>
    match f.body with
    | .bulk q m payload ret =>
      match s.refusal f with
      | some r => s.refuse f ret r
      | none => match f.dst with
        | none => s
        | some e =>
          if s.isHeldMember e then s
          else
            let c := s.chan e (s.leads e) q.toNat
            match c.bind with
            | none => s
            | some b =>
              if b.rsize.toNat * 256 < payload.length then s.refuse f ret 5
              else if c.regionBusy || decide (4 ≤ c.queue.length) then s
              else
                let p := b.wp.toNat + 256
                let m1 := { m with words := vset m.words 7 (BitVec.ofNat 64 p) }
                (s.deviceWrite f.src e p payload).accept f e q.toNat m1 ret
    | _ => s)

/-- ALLOWANCE_RETURN: the unit on its way in k raises AVAIL (R123). -/
def execAllowanceReturn (k : Nat) (s : State) : Host.Outcome State Fault Refusal :=
  arrival s k (fun f =>
    match f.body, f.dst with
    | .credit, some e => ((s.land f).updElem e (fun E => { E with avail := Nat.min 16 (E.avail + 1) })).settleAllow e
    | _, _ => s)

/-- UNDELIVERABLE_NOTICE: notice k arrives, is counted, and enters the notice buffer or sets OVF (R123, R125). It enters before an allowance
notice that its unit makes due (log 18). -/
def execUndeliverableNotice (k : Nat) (s : State) : Host.Outcome State Fault Refusal :=
  arrival s k (fun f =>
    match f.body, f.dst with
    | .notice ws, some e =>
      ((s.land f).updElem e (fun E =>
        let E1 := { E with undel := E.undel + 1, avail := Nat.min 16 (E.avail + 1) }
        if !E.nen then E1
        else if E.notices.length < 4 then { E1 with notices := E.notices ++ [{ q := E.nq, words := ws }] }
        else { E1 with ovf := true })).settleAllow e
    | _, _ => s)

/-- NOTICE_DELIVER: the oldest notice in the buffer of element e enters its channel's holding queue (R125). -/
def execNoticeDeliver (e : EId) (s : State) : Host.Outcome State Fault Refusal :=
  let E := s.elem e
  match E.notices with
  | [] => .next s
  | n :: ns =>
    if s.isFenced e || !s.moving ((s.ctxOf e).getD 0) then .next s
    else match s.enqueue e n.q.toNat { kind := .plain, words := n.words, region := false } with
    | none => .next s
    | some t => .next ((t.updElem e (fun E => { E with notices := ns })).settleAllow e)

/-- WORK_ITEM_ACCEPT: item k is accepted by its unit, which holds 256 items per context (R130). -/
def execWorkItemAccept (k : Nat) (s : State) : Host.Outcome State Fault Refusal :=
  arrival s k (fun f =>
    match f.body, tget s.ctxs f.ctx with
    | .work sc ms q m ret, some C =>
      let die := eDie (f.dst.getD f.src)
      let now := C.scopeMembers f.src sc
      if (C.work.filter (fun i => i.die == die)).length < 256 then
        ((s.land f).updCtx f.ctx (fun C => { C with
          work := C.work ++ [{ die := die, scope := sc, members := if now.isEmpty then ms else now, q := q, msg := m }]
        })).giveBack f ret.credit
      else s
    | _, _ => s)

/-- Is a member idle on a channel, for the delivery of a work item (R130)? A fenced member, which refuses what is addressed to it (R373),
is not: R130 does not name it (log 24). -/
def State.idleOn (s : State) (e : EId) (q : Nat) : Bool :=
  let E := s.elem e
  let c := s.chan e false q
  c.bind.isSome && c.queue.isEmpty && c.cont.isNone && !s.isComposed e && decide (E.mode ≠ .frozen) && !s.isFenced e &&
  (match E.act with | some A => A.chan.toNat != q | none => true)

/-- The items of a die's unit that may be delivered now, in the order accepted: each the oldest of its queue, with an idle
member. -/
def deliverable (s : State) (die : Nat) : List WorkItem → List Nat → List (WorkItem × EId)
  | [], _ => []
  | i :: is, seen =>
    if i.die ≠ die ∨ seen.contains i.scope = true then deliverable s die is seen
    else
      let rest := deliverable s die is (i.scope :: seen)
      match i.members.find? (fun e => s.idleOn e i.q.toNat) with
      | some e => (i, e) :: rest
      | none => rest

/-- WORK_ITEM_DELIVER: a unit delivers items in the order in which it accepted them: the first that is the oldest of its queue
and has an idle member, to the first such member (R130). -/
def execWorkItemDeliver (ctx : Nat) (die : Nat) (s : State) : Host.Outcome State Fault Refusal :=
  match tget s.ctxs ctx with
  | none => .next s
  | some C =>
    match (deliverable s die C.work []).head? with
    | none => .next s
    | some (i, e) =>
      if !s.moving ctx then .next s
      else match s.enqueue e i.q.toNat i.msg with
      | none => .next s
      | some t => .next (t.updCtx ctx (fun C => { C with work := C.work.erase i }))

/-- HOST_RECORD_WRITE: record k is written into the host queue, refused, or waits for room (R131, R407). -/
def execHostRecordWrite (k : Nat) (s : State) : Host.Outcome State Fault Refusal :=
  arrival s k (fun f =>
    match f.body, tget s.ctxs f.ctx with
    | .hostRec ws ret, some C =>
      if !C.hq.en then s.refuse f ret 6
      else if C.hq.full s f.ctx then s
      else
        let (t, r) := s.ringPut f.ctx C.hq 64 ws
        ((t.land f).updCtx f.ctx (fun C => { C with hq := r })).giveBack f ret.credit
    | _, _ => s)

/-- BIN_ITEMS: item message k is applied to its bin set, or refused whole (R141, R143, R356). -/
def execBinItems (k : Nat) (s : State) : Host.Outcome State Fault Refusal :=
  arrival s k (fun f =>
    match f.body with
    | .items set items ret =>
      match s.refusal f with
      | some r => s.refuse f ret r
      | none => match f.dst with
        | none => s
        | some e =>
          if s.isComposed e then s
          else match vget none (s.elem e).bins set.toNat with
          | none => s.refuse f ret 8
          | some b =>
            if b.isSealed then s.refuse f ret 7
            else
              let t := items.foldl (fun t it => t.applyItem e b it) s
              let b1 := { b with applied := b.applied + items.length }
              ((t.land f).updElem e (fun E => { E with bins := vset E.bins set.toNat (some b1) })).giveBack f ret.credit
    | _ => s)

end Sys2Proof.Machine
end

