-- ==== Sys2Proof/Machine/Numbers.lean ====
section
/-!
DEFINITION. Number formats, exact values and rounding (R197–R207, R213–R215).
-/
namespace Sys2Proof.Machine

/-- An exact value: NaN, an infinity, or (−1)^neg × m × 2^e with a sign on zero. -/
inductive FVal where
  | nan
  | inf (neg : Bool)
  | fin (neg : Bool) (m : Nat) (e : Int)
  deriving DecidableEq, Repr

/-- A number format (R151, R197–R203). -/
inductive Fmt where
  /-- sign, eb exponent bits with bias 2^(eb−1) − 1, mb trailing bits -/
  | ieee (eb mb : Nat)
  /-- binary8 with precision p (R201) -/
  | bin8 (uns finite : Bool) (p : Nat)
  | int (signed : Bool) (w : Nat)
  deriving DecidableEq, Repr

def Fmt.f64 : Fmt := .ieee 11 52
def Fmt.f32 : Fmt := .ieee 8 23
def Fmt.f16 : Fmt := .ieee 5 10
def Fmt.bf16 : Fmt := .ieee 8 7

/-- Bits of a code. -/
def Fmt.bits : Fmt → Nat
  | .ieee eb mb => 1 + eb + mb
  | .bin8 _ _ _ => 8
  | .int _ w => w

/-- The canonical NaN (R200); an integer format gives 0 (R205). -/
def Fmt.nanCode : Fmt → Nat
  | .ieee eb mb => (2 ^ eb - 1) * 2 ^ mb + 2 ^ (mb - 1)
  | .bin8 uns _ _ => if uns then 0xFF else 0x80
  | .int _ _ => 0

/-- Trailing bits, bias, and the largest finite magnitude code. -/
def Fmt.trail : Fmt → Nat
  | .ieee _ mb => mb
  | .bin8 _ _ p => p - 1
  | .int _ _ => 0

def Fmt.bias : Fmt → Int
  | .ieee eb _ => 2 ^ (eb - 1) - 1
  | .bin8 uns _ p => if uns then 2 ^ (8 - p) else 2 ^ (7 - p)
  | .int _ _ => 0

def Fmt.maxMag : Fmt → Nat
  | .ieee eb mb => (2 ^ eb - 1) * 2 ^ mb - 1
  | .bin8 uns finite _ => if uns then (if finite then 0xFE else 0xFD) else (if finite then 0x7F else 0x7E)
  | .int signed w => if signed then 2 ^ (w - 1) - 1 else 2 ^ w - 1

/-- Has the format an infinity? -/
def Fmt.hasInf : Fmt → Bool
  | .ieee _ _ => true
  | .bin8 _ finite _ => !finite
  | .int _ _ => false

def Fmt.isInt : Fmt → Bool
  | .int _ _ => true
  | _ => false

def Fmt.unsigned : Fmt → Bool
  | .bin8 uns _ _ => uns
  | .int signed _ => !signed
  | _ => false

/-- A magnitude code with its sign. -/
def Fmt.signed (F : Fmt) (neg : Bool) (mag : Nat) : Nat :=
  match F with
  | .ieee eb mb => mag + (if neg then 2 ^ (eb + mb) else 0)
  | .bin8 uns _ _ => if neg && !uns && mag != 0 then mag + 0x80 else mag
  | .int _ _ => mag

/-- The value of a magnitude code (R201). -/
def Fmt.magVal (F : Fmt) (neg : Bool) (mag : Nat) : FVal :=
  let t := F.trail
  let e := mag / 2 ^ t
  let f := mag % 2 ^ t
  if e = 0 then .fin neg f (1 - F.bias - t) else .fin neg (2 ^ t + f) (e - F.bias - t)

/-- The exact value of a code. -/
def Fmt.decode (F : Fmt) (c : Nat) : FVal :=
  match F with
  | .ieee eb mb =>
    let neg := c / 2 ^ (eb + mb) % 2 == 1
    let mag := c % 2 ^ (eb + mb)
    if mag / 2 ^ mb = 2 ^ eb - 1 then (if mag % 2 ^ mb = 0 then .inf neg else .nan) else F.magVal neg mag
  | .bin8 uns finite _ =>
    if uns then
      if c = 0xFF then .nan else if c = 0xFE ∧ finite = false then .inf false else F.magVal false c
    else
      if c = 0x80 then .nan
      else if c % 0x80 = 0x7F ∧ finite = false then .inf (decide (0x80 ≤ c))
      else if c = 0 then .fin false 0 0
      else F.magVal (decide (0x80 ≤ c)) (c % 0x80)
  | .int signed w =>
    let v : Int := if signed then sextNat c w else (c % 2 ^ w : Nat)
    .fin (decide (v < 0)) v.natAbs 0

/-- Round up from the candidate below: modes nearest-even 0, zero 1, upward 2, downward 3 (R204). `code` is the lower
candidate's code, `rem` of `half * 2` the part beyond it. -/
def roundsUp (rm : Nat) (neg : Bool) (code rem half : Nat) : Bool :=
  match rm with
  | 0 => decide (half < rem) || (decide (rem = half) && decide (code % 2 = 1))
  | 1 => false
  | 2 => !neg && decide (0 < rem)
  | _ => neg && decide (0 < rem)

/-- The magnitude of an integer format, or of an integral value: m × 2^e rounded to an integer. -/
def roundNat (rm : Nat) (neg : Bool) (m : Nat) (e : Int) : Nat :=
  if 0 ≤ e then m * 2 ^ e.toNat
  else
    let r := (-e).toNat
    let c := m / 2 ^ r
    if roundsUp rm neg c (m % 2 ^ r) (2 ^ (r - 1)) then c + 1 else c

/-- The magnitude code of m × 2^e in a floating format with an unbounded largest exponent. -/
def Fmt.roundMag (F : Fmt) (rm : Nat) (neg : Bool) (m : Nat) (e : Int) : Nat :=
  if m = 0 then 0
  else
    let t := F.trail
    let qmin : Int := 1 - F.bias - t
    let q : Int := max (e + (Nat.log2 m : Int) - t) qmin
    if q ≤ e then (q - qmin).toNat * 2 ^ t + m * 2 ^ (e - q).toNat
    else
      let r := (q - e).toNat
      let c := (q - qmin).toNat * 2 ^ t + m / 2 ^ r
      if roundsUp rm neg c (m % 2 ^ r) (2 ^ (r - 1)) then c + 1 else c

/-- The code of an integer, saturated to the format's range. -/
def Fmt.ofInt (F : Fmt) (v : Int) : Nat :=
  match F with
  | .int signed w =>
    if signed then
      let lo : Int := -(2 ^ (w - 1) : Nat)
      let hi : Int := (2 ^ (w - 1) : Nat) - 1
      ((max lo (min hi v)) % (2 ^ w : Nat)).toNat
    else (max 0 (min (((2 ^ w : Nat) : Int) - 1) v)).toNat
  | _ => 0

/-- The infinity of a format that has one. -/
def Fmt.infCode (F : Fmt) (neg : Bool) : Nat := F.signed neg (F.maxMag + 1)

/-- Overflow (R205, rule 4). -/
def Fmt.overflow (F : Fmt) (rm : Nat) (sat neg : Bool) : Nat :=
  if sat || !F.hasInf then F.signed neg F.maxMag
  else if rm = 0 || (rm = 2 && !neg) || (rm = 3 && neg) then F.infCode neg
  else F.signed neg F.maxMag

/-- round_to(F, v, rm, sat) (R205). -/
def Fmt.round (F : Fmt) (v : FVal) (rm : Nat := 0) (sat : Bool := false) : Nat :=
  match v with
  | .nan => F.nanCode
  | .inf neg =>
    match F with
    | .int signed w => if neg then (if signed then 2 ^ (w - 1) else 0) else F.maxMag
    | _ =>
      if F.unsigned && neg then (if sat then 0 else F.nanCode)
      else if sat || !F.hasInf then F.signed neg F.maxMag
      else F.infCode neg
  | .fin neg m e =>
    match F with
    | .int _ _ =>
      if F.unsigned && neg then 0
      else
        let r : Int := roundNat rm neg m e
        F.ofInt (if neg then -r else r)
    | _ =>
      let c := F.roundMag rm neg m e
      if F.unsigned && neg && m != 0 then (if c = 0 then 0 else if sat then 0 else F.nanCode)
      else if F.maxMag < c then F.overflow rm sat neg
      else F.signed neg c

/-! ### Exact arithmetic (R197, R218) -/

def FVal.neg : FVal → FVal
  | .nan => .nan
  | .inf s => .inf (!s)
  | .fin s m e => .fin (!s) m e

/-- A signed integer multiple of 2^e, with the sign of a zero given. -/
def FVal.ofInt (v : Int) (e : Int) (zeroNeg : Bool) : FVal :=
  if v = 0 then .fin zeroNeg 0 e else .fin (decide (v < 0)) v.natAbs e

/-- A value's numerator over 2^e, for e at or below its exponent. -/
def numerator (s : Bool) (m : Nat) (e0 e : Int) : Int :=
  let v : Int := m * 2 ^ (e0 - e).toNat
  if s then -v else v

/-- Exact sum; an exact zero is −0 only when both terms are −0. -/
def FVal.add : FVal → FVal → FVal
  | .nan, _ => .nan
  | _, .nan => .nan
  | .inf s, .inf t => if s = t then .inf s else .nan
  | .inf s, .fin _ _ _ => .inf s
  | .fin _ _ _, .inf t => .inf t
  | .fin s m e, .fin t n g =>
    let q := min e g
    FVal.ofInt (numerator s m e q + numerator t n g q) q (s && t && decide (m = 0) && decide (n = 0))

def FVal.mul : FVal → FVal → FVal
  | .nan, _ => .nan
  | _, .nan => .nan
  | .inf s, .inf t => .inf (s != t)
  | .inf s, .fin t n _ => if n = 0 then .nan else .inf (s != t)
  | .fin s m _, .inf t => if m = 0 then .nan else .inf (s != t)
  | .fin s m e, .fin t n g => .fin (s != t) (m * n) (e + g)

/-- Order of values, −0 equal to +0: less, equal, greater as −1, 0, 1; none when unordered. -/
def FVal.cmp : FVal → FVal → Option Int
  | .nan, _ => none
  | _, .nan => none
  | .inf s, .inf t => some (if s = t then 0 else if s then -1 else 1)
  | .inf s, .fin _ _ _ => some (if s then -1 else 1)
  | .fin _ _ _, .inf t => some (if t then 1 else -1)
  | .fin s m e, .fin t n g =>
    let q := min e g
    let d := numerator s m e q - numerator t n g q
    some (if d < 0 then -1 else if d = 0 then 0 else 1)

def FVal.isNeg : FVal → Bool
  | .nan => false
  | .inf s => s
  | .fin s _ _ => s

/-- The order of FMIN, FMAX and VMAXI: −0 below +0 (R218, R223). -/
def FVal.ord (x y : FVal) : Option Int :=
  match x.cmp y with
  | some 0 => some (if x.isNeg && !y.isNeg then -1 else if !x.isNeg && y.isNeg then 1 else 0)
  | r => r

def FVal.isNan (x : FVal) : Bool := match x with | .nan => true | _ => false

/-- Rounded to an integral value; the sign of zero is kept. -/
def FVal.integral (rm : Nat) : FVal → FVal
  | .fin s m e => .fin s (roundNat rm s m e) 0
  | v => v

/-- floor(log2) of a positive finite m × 2^e. -/
def expOf (m : Nat) (e : Int) : Int := e + Nat.log2 m

/-- The integer that a finite value truncates to. -/
def truncInt (s : Bool) (m : Nat) (e : Int) : Int :=
  let v : Int := roundNat 1 s m e
  if s then -v else v

/-! ### Seeds (R213) -/

def rcpTable : List Nat := [240, 212, 187, 164, 144, 125, 108, 93, 78, 65, 53, 42, 31, 22, 13, 4]
def rsqTable : List Nat := [241, 214, 191, 171, 154, 138, 124, 112, 95, 76, 60, 46, 34, 23, 13, 4]

/-- floor((m' − 1) × n), for m' in [1, 2) the significand of m. -/
def fracIndex (m n : Nat) : Nat := m * n / 2 ^ Nat.log2 m - n

def seedRcp : FVal → FVal
  | .nan => .nan
  | .inf s => .fin s 0 0
  | .fin s m e =>
    if m = 0 then .inf s else .fin s (256 + rcpTable.getD (fracIndex m 16) 0) (-9 - expOf m e)

def seedRsq : FVal → FVal
  | .nan => .nan
  | .inf s => if s then .nan else .fin false 0 0
  | .fin s m e =>
    if m = 0 then .inf s
    else if s then .nan
    else
      let q := expOf m e
      let h := (q % 2).toNat
      .fin false (256 + rsqTable.getD (8 * h + fracIndex m 8) 0) (-9 - (q - h) / 2)

/-! ### Range reduction (R214, R215) -/

structure FredConst where
  log2e : Nat
  c1 : Nat
  c2 : Nat
  c3 : Nat
  sq : Nat

def fredConst (F : Fmt) : FredConst :=
  if F = .f64 then
    { log2e := 0x3FF71547652B82FE, c1 := 0x3FE62E42FEE00000, c2 := 0x3DEA39EF35600000, c3 := 0x3BE93C7673007E5F,
      sq := 0x6A09E667F3BCD }
  else { log2e := 0x3FB8AA3B, c1 := 0x3F317000, c2 := 0x38060000, c3 := 0xB102E308, sq := 0x3504F3 }

/-- One fused step of .re: round(t − n × C). -/
def fredStep (F : Fmt) (n t : Nat) (c : Nat) : Nat := F.round ((F.decode t).add ((F.decode n).mul (F.decode c)).neg)

/-- The split of a positive finite value for .k and .m: k, and the numerator and exponent of m. -/
def fredSplit (F : Fmt) (m : Nat) (e : Int) : Int × Nat × Int :=
  let l := Nat.log2 m
  let q := e + l
  let frac := m * 2 ^ F.trail / 2 ^ l - 2 ^ F.trail
  if (fredConst F).sq ≤ frac then (q + 1, m, -(l : Int) - 1) else (q, m, -(l : Int))

/-- FRED operation b on lane x, with the old lane of d (R214). -/
def fred (F : Fmt) (b x old : Nat) : Nat :=
  let v := F.decode x
  let K := fredConst F
  match b with
  | 0 => F.round (v.integral 0)
  | 1 => match v with
    | .fin _ _ _ =>
      let d := v.add (v.integral 0).neg
      match d with
      | .fin _ 0 _ => F.round (.fin false 0 0)
      | _ => F.round d
    | _ => F.round (.fin false 0 0)
  | 2 => F.round ((F.decode (F.round (v.mul (F.decode K.log2e)))).integral 0)
  | 3 => match v, F.decode old with
    | .fin _ _ _, .fin _ _ _ => fredStep F old (fredStep F old (fredStep F old x K.c1) K.c2) K.c3
    | _, _ => F.round (.fin false 0 0)
  | 4 => match v with
    | .nan => F.nanCode
    | .inf s => if s then F.nanCode else F.round (.inf false)
    | .fin s m e =>
      if m = 0 then F.round (.inf true)
      else if s then F.nanCode
      else F.round (FVal.ofInt (fredSplit F m e).1 0 false)
  | _ => match v with
    | .fin false m e =>
      if m = 0 then F.round (.fin false 0 0)
      else
        let r := fredSplit F m e
        F.round ((FVal.fin false r.2.1 r.2.2).add (.fin true 1 0))
    | _ => F.round (.fin false 0 0)

/-! ### Helpers (R226) -/

/-- A bound on exponents: every format rounds to the same result beyond it. -/
def clampExp (n : Int) : Int := max (-8192) (min 8192 n)

def fscale (F : Fmt) (x y : Nat) : Nat :=
  match F.decode x, F.decode y with
  | .nan, _ => F.nanCode
  | _, .nan => F.nanCode
  | .inf s, _ => F.round (.inf s)
  | .fin s m _, .inf t => if m = 0 then x else if t then F.round (.fin s 0 0) else F.round (.inf s)
  | .fin s m e, .fin t n g => if m = 0 then x else F.round (.fin s m (e + clampExp (truncInt t n g)))

def fexpo (F : Fmt) (x : Nat) : Nat :=
  match F.decode x with
  | .nan => F.nanCode
  | .inf _ => F.round (.inf false)
  | .fin _ m e => if m = 0 then F.round (.inf true) else F.round (FVal.ofInt (expOf m e) 0 false)

def fmant (F : Fmt) (x : Nat) : Nat :=
  match F.decode x with
  | .nan => F.nanCode
  | .inf s => F.round (.inf s)
  | .fin s m _ => if m = 0 then x else F.round (.fin s m (-(Nat.log2 m : Int)))

/-- FCLASS: the class of a code, one bit set (R220). -/
def fclass (F : Fmt) (c : Nat) : Nat :=
  match F, F.decode c with
  | .ieee _ mb, .nan => if c / 2 ^ (mb - 1) % 2 = 1 then 2 ^ 9 else 2 ^ 8
  | _, .nan => 2 ^ 9
  | _, .inf s => if s then 1 else 2 ^ 7
  | .ieee eb mb, .fin s m _ =>
    if m = 0 then (if s then 2 ^ 3 else 2 ^ 4)
    else if c % 2 ^ (eb + mb) < 2 ^ mb then (if s then 2 ^ 2 else 2 ^ 5)
    else (if s then 2 ^ 1 else 2 ^ 6)
  | _, .fin _ _ _ => 0

/-! ### Format codes (R35, R151) -/

/-- The format of an element type z (R35); integer types as signed. -/
def zFmt (z : Nat) : Fmt :=
  match z with
  | 0 => .f64
  | 1 => .f32
  | 2 => .f16
  | 3 => .bf16
  | 4 => .int true 64
  | 5 => .int true 32
  | 6 => .int true 16
  | _ => .int true 8

/-- The lane width of an element type. -/
def zWidth (z : Nat) : Nat := (zFmt z).bits

/-- The element format of a format code; none for raw and for unassigned codes (R151). -/
def codeFmt (c : Nat) : Option Fmt :=
  if c = 1 then some .f64
  else if c = 2 then some .f32
  else if c = 3 then some .f16
  else if c = 4 then some .bf16
  else if 0x10 ≤ c ∧ c ≤ 0x13 then some (.int true (8 * 2 ^ (c - 0x10)))
  else if 0x14 ≤ c ∧ c ≤ 0x17 then some (.int false (8 * 2 ^ (c - 0x14)))
  else if 0x80 ≤ c ∧ c ≤ 0xF7 ∧ c / 16 % 2 = 0 ∧ 1 ≤ c % 16 ∧ c % 16 ≤ 7 then
    some (.bin8 (c / 64 % 2 == 1) (c / 32 % 2 == 1) (c % 16))
  else none

end Sys2Proof.Machine
end

