-- ==== Sys2Proof/Machine/Sheets.lean ====
section
/-!
DEFINITION. Sheets as their engine holds them: cells, buffers, the graph, input writes, edits and the request queue
(R229–R246, R254–R256, R260).
-/
namespace Sys2Proof.Machine

/-! ### Cells and their values (R230–R233) -/

/-- Element bytes of a format code; a raw FMT counts one byte (R151, R232). -/
def fmtBytes (c : Nat) : Nat := match codeFmt c with | some F => F.bits / 8 | none => 1

def CellEntry.size (c : CellEntry) : Nat := c.rows * c.cols * fmtBytes c.fmt.toNat
def CellEntry.isInput (c : CellEntry) : Bool := c.entry == 0xFFFF
def CellEntry.isRange (c : CellEntry) : Bool := c.entry == 0xFFFE
def CellEntry.isFormula (c : CellEntry) : Bool := !c.isInput && !c.isRange
/-- The CUR buffer, and the next buffer. -/
def CellEntry.curBuf (c : CellEntry) : Word := if c.cur then c.buf1 else c.buf0
def CellEntry.nextBuf (c : CellEntry) : Word := if c.cur then c.buf0 else c.buf1
/-- Is precedent i lagged? -/
def CellEntry.lagged (c : CellEntry) (i : Nat) : Bool := c.lag.getLsbD i
/-- The precedents with their LAG bits. -/
def CellEntry.precs (c : CellEntry) : List (Nat × Bool) := (List.range c.prec.length).map (fun i => (c.prec.getD i 0, c.lagged i))

def cellWordOf (sheet e : Nat) : Word := BitVec.ofNat 64 (sheet + e * 2 ^ 16)

/-- The keys of n bytes of a buffer of a cell homed at e; none for a byte that no page maps. -/
def State.bufKey (s : State) (home : EId) (buf : Word) (i : Nat) : Option Nat :=
  if isMemCore home then
    match xlate s home ((fld buf 51 0 + i) % 2 ^ 52) with
    | .ok t => some (hbmKey (t.phys ((fld buf 51 0 + i) % 2 ^ 52)))
    | .error _ => none
  else some (s.ownKey home (fld buf 15 0 + i))

/-- Read n bytes of a buffer from byte o; a byte that no page maps, or of a unit in error, is free (log 4). -/
def State.bufRead (s : State) (home : EId) (buf : Word) (o : Nat) : Nat → List Byte
  | 0 => []
  | n + 1 =>
    (match s.bufKey home buf o with
     | some k => s.deviceRead k 1
     | none => [(s.free o).setWidth 8]) ++ s.bufRead home buf (o + 1) n

/-- Write bytes into a buffer from byte o. -/
def State.bufWrite (s : State) (home : EId) (buf : Word) (o : Nat) : List Byte → State
  | [] => s
  | b :: bs =>
    (match s.bufKey home buf o with
     | some k => if s.barred (s.keyOf home) k 1 then s else { s with mem := memSet s.mem k b }
     | none => s).bufWrite home buf (o + 1) bs

/-- The errors that writing n bytes of a buffer clears; a byte that the HBM controllers bar is not written, and clears none (R157, R419). -/
def State.bufClean (s : State) (home : EId) (buf : Word) (o n : Nat) : State :=
  let keys := ((List.range n).filterMap (fun i => s.bufKey home buf (o + i))).filter (fun k => !s.barred (s.keyOf home) k 1)
  { s with poison := s.poison.filter (fun k => !(List.range (eccUnit k)).all (fun j => keys.contains (k + j))) }

/-- The device writes bytes into a cell's buffer (R233). -/
def State.cellWrite (s : State) (home : EId) (buf : Word) (o : Nat) (bs : List Byte) : State :=
  let s := if isMemCore home then s else s.noteOwn (unitOf home) home (fld buf 15 0 + o) bs.length
  (if s.poison.isEmpty then s else s.bufClean home buf o bs.length).bufWrite home buf o bs

/-! ### The sheet table (R229) -/

def Sheet.blank : Sheet :=
  { gen := 0, cells := [], reqs := [], wave := none, edits := [], writes := [], reads := [], progs := [], run := none,
    halted := none, passed := [] }

def BreakItem.isCell (it : BreakItem) : Bool := match it with | .cell _ => true | _ => false
def BreakItem.isNode (it : BreakItem) : Bool := match it with | .node _ => true | _ => false

/-- The wave or the program that items of this sort belong to ends: they are neither matched nor let pass any more, and a sheet that
one of them halted stays halted (R388). -/
def Sheet.endItems (S : Sheet) (sort : BreakItem → Bool) : Sheet :=
  { S with
    halted := S.halted.map (fun it => if sort it then .ended else it)
    passed := S.passed.filter (fun it => !sort it) }

/-- A halted sheet continues, and the matched item is not matched again (R388, R398). -/
def Sheet.resume (S : Sheet) : Sheet := { S with halted := none, passed := S.halted.toList.filter (fun it => decide (it ≠ .ended)) ++ S.passed }

def State.sheet (s : State) (ctx n : Nat) : Option Sheet := (tget s.ctxs ctx).bind (fun C => tget C.sheets n)

def State.updSheet (s : State) (ctx n : Nat) (g : Sheet → Sheet) : State :=
  s.updCtx ctx (fun C => match tget C.sheets n with
    | some S => { C with sheets := tset C.sheets n (g S) }
    | none => C)

def Sheet.cell (S : Sheet) (e : Nat) : Option CellEntry := tget S.cells e
def Sheet.updCell (S : Sheet) (e : Nat) (g : CellEntry → CellEntry) : Sheet :=
  match S.cell e with
  | some c => { S with cells := tset S.cells e (g c) }
  | none => S

def State.updCell (s : State) (ctx n e : Nat) (g : CellEntry → CellEntry) : State := s.updSheet ctx n (fun S => S.updCell e g)

/-- Cell entries that an engine holds, of all contexts. -/
def State.cellCount (s : State) (die : Nat) : Nat :=
  s.ctxs.foldl (fun n p => p.2.sheets.foldl (fun n q => if q.1 / 32 = die then n + q.2.cells.length else n) n) 0

/-- Is the context running, so that its engines work (R251, R330)? -/
def State.engineRuns (s : State) (ctx : Nat) : Bool :=
  match tget s.ctxs ctx with
  | some C => decide (C.switch = .running)
  | none => false

/-- Do the engines still serve what a stalled form waits for: the context runs, or stops for a gang switch and an element stalls in
an instruction that completes first (R251, R331, R375)? -/
def State.engineServes (s : State) (ctx : Nat) : Bool :=
  match tget s.ctxs ctx with
  | some C => decide (C.switch = .running) || (decide (C.switch = .stopping) && C.elems.any s.completesFirst)
  | none => false

/-- Requests of the 16 places; truncation requests stand in places of their own (R260). -/
def Sheet.queued (S : Sheet) : Nat :=
  (S.reqs.filter (fun r => match r with | .truncation _ => false | _ => true)).length

/-- Put a truncation request at the head, after those placed there before it. -/
def Sheet.pushHead (S : Sheet) (sn : Nat) : Sheet :=
  let isT := fun r : WaveReq => match r with | .truncation _ => true | _ => false
  { S with reqs := S.reqs.filter isT ++ [.truncation sn] ++ S.reqs.filter (fun r => !isT r) }

/-! ### The graph (R231, R236–R238, R246) -/

/-- Unlagged edges of a binding to defined precedents. -/
def Sheet.edges (S : Sheet) (ps : List (Nat × Bool)) : List Nat :=
  ps.filterMap (fun p => if !p.2 && (S.cell p.1).isSome then some p.1 else none)

/-- One round of the ranks. -/
def rankRound (S : Sheet) (r : Tbl Nat) : Tbl Nat :=
  S.cells.map (fun p => (p.1, if p.2.isInput then 0 else
    1 + (S.edges p.2.precs).foldl (fun m x => Nat.max m ((tget r x).getD 0)) 0))

def iterate {α : Type} (f : α → α) : Nat → α → α
  | 0, x => x
  | n + 1, x => iterate f n (f x)

/-- The rank of every cell (R237); the unlagged graph has no cycle, so as many rounds as cells settle it. -/
def Sheet.ranks (S : Sheet) : Tbl Nat := iterate (rankRound S) S.cells.length []

def Sheet.rank (S : Sheet) (e : Nat) : Nat := (tget S.ranks e).getD 0

/-- Cells that name a marked cell become marked. -/
def markRound (S : Sheet) (m : List Nat) : List Nat :=
  S.cells.foldl (fun m p => if p.2.prec.any m.contains then sinsert m p.1 else m) m

/-- The formula and range cells that depend on a cell directly or through ranges. -/
def Sheet.users (S : Sheet) (e : Nat) : List Nat :=
  let round := fun m : List Nat => S.cells.foldl (fun m p =>
    if p.2.prec.any (fun x => x == e || (m.contains x && (match S.cell x with | some c => c.isRange | none => false)))
    then sinsert m p.1 else m) m
  iterate round S.cells.length []

/-- The cells that have a lagged precedent, with ranges transparent. -/
def Sheet.laggers (S : Sheet) : List Nat :=
  let own := (S.cells.filter (fun p => p.2.precs.any Prod.snd)).map Prod.fst
  let round := fun m : List Nat => S.cells.foldl (fun m p =>
    if p.2.prec.any (fun x => m.contains x && (match S.cell x with | some c => c.isRange | none => false))
    then sinsert m p.1 else m) m
  iterate round S.cells.length own

/-- The cells that depend on one of the given cells, directly or transitively; the given cells are among them. -/
def Sheet.closure (S : Sheet) (m : List Nat) : List Nat := iterate (markRound S) S.cells.length m

/-- Join the expansions of precedents; none when one has none. -/
def joinAll (f : Nat × Bool → Option (List (Nat × Bool))) : List (Nat × Bool) → Option (List (Nat × Bool))
  | [] => some []
  | p :: ps => match f p, joinAll f ps with
    | some l, some r => some (l ++ r)
    | _, _ => none

/-- Expand one precedent (R238): cells with their lag, or none when one is dangling or a range lies too deep. -/
def Sheet.expand (S : Sheet) : Nat → Bool → Nat × Bool → Option (List (Nat × Bool))
  | 0, lag, p => match S.cell p.1 with
    | none => none
    | some c => if c.isRange then none else some [(p.1, lag || p.2)]
  | d + 1, lag, p => match S.cell p.1 with
    | none => none
    | some c => if c.isRange then joinAll (S.expand d (lag || p.2)) c.precs else some [(p.1, lag || p.2)]

/-- What one precedent names after range expansion (R237): a cell that is not defined, or a range that lies too deep, names itself. -/
def Sheet.members (S : Sheet) : Nat → Bool → Nat × Bool → List (Nat × Bool)
  | 0, lag, p => [(p.1, lag || p.2)]
  | d + 1, lag, p => match S.cell p.1 with
    | none => [(p.1, lag || p.2)]
    | some c => if c.isRange then c.precs.flatMap (S.members d (lag || p.2)) else [(p.1, lag || p.2)]

/-- The slots of a cell's evaluation, at most 256, ranges at most four deep. -/
def Sheet.slots (S : Sheet) (c : CellEntry) : Option (List (Nat × Bool)) :=
  match joinAll (S.expand 4 false) c.precs with
  | some l => if l.length ≤ 256 then some l else none
  | none => none

/-- Least number with a property among some. -/
def leastNat (l : List Nat) : Option Nat := l.foldl (fun m x => match m with | some y => some (Nat.min x y) | none => some x) none

/-- One round of the distances to cell x along precedent edges. -/
def distRound (S : Sheet) (x : Nat) (d : Tbl Nat) : Tbl Nat :=
  S.cells.foldl (fun d p =>
    if p.1 = x then d
    else match leastNat ((S.edges p.2.precs).filterMap (tget d)) with
      | some m => tset d p.1 (m + 1)
      | none => d) d

def walkCycle (S : Sheet) (dist : Tbl Nat) : Nat → List Nat → List Nat
  | 0, _ => []
  | d + 1, succ =>
    match leastNat (succ.filter (fun p => tget dist p == some (d + 1))) with
    | none => []
    | some p => p :: walkCycle S dist d (match S.cell p with | some c => S.edges c.precs | none => [])

/-- The cycle that a binding of x would close: the shortest, the least of those; empty when there is none (R246). -/
def Sheet.cycle (S : Sheet) (x : Nat) (ps : List (Nat × Bool)) : List Nat :=
  let succ := S.edges ps
  let dist := iterate (distRound S x) S.cells.length [(x, 0)]
  match leastNat (succ.filterMap (tget dist)) with
  | none => []
  | some d => x :: walkCycle S dist d succ

/-! ### Input writes (R244) -/

/-- Mark the dependants of a cell: stale when no wave is in flight, otherwise NEXT (R243). -/
def Sheet.markUsers (S : Sheet) (e : Nat) : Sheet :=
  (S.users e).foldl (fun T u => T.updCell u (fun c =>
    if S.wave.isSome then { c with next := true } else { c with state := .stale })) S

/-- Apply a write to a defined input cell whose write is not taken: the open copy, the bytes, WPEND, the dependants. -/
def State.putCell (s : State) (ctx n e : Nat) (doff : Nat) (bs : List Byte) : State :=
  match (s.sheet ctx n).bind (·.cell e) with
  | none => s
  | some c =>
    let s1 := if c.wpend then s else s.cellWrite c.home c.nextBuf 0 (s.bufRead c.home c.curBuf 0 c.size)
    let s2 := s1.cellWrite c.home c.nextBuf doff bs
    s2.updSheet ctx n (fun S => (S.updCell e (fun c => { c with wpend := true })).markUsers e)

/-- Can the engine take a write to a cell now: apply it, or hold it in the write queue of 32? -/
def Sheet.canWrite (S : Sheet) (e : Nat) : Bool :=
  match S.cell e with
  | some c => !c.wtaken || decide (S.writes.length < 32)
  | none => true

/-- Apply or hold an accepted write. -/
def State.writeCell (s : State) (ctx n e doff : Nat) (bs : List Byte) (ck : Option (Nat × Nat)) : State :=
  match (s.sheet ctx n).bind (·.cell e) with
  | none => s
  | some c =>
    if c.wtaken then
      s.updSheet ctx n (fun S => { S with writes := S.writes ++ [{ cell := e, doff := doff, bytes := bs, checkpoint := ck }] })
    else s.putCell ctx n e doff bs

/-- The committed value of a cell. Of a range cell, to which R231 gives no value, it is the bytes of its buffer (log 33). -/
def State.committed (s : State) (ctx n e : Nat) : List Byte :=
  match (s.sheet ctx n).bind (·.cell e) with
  | some c => s.bufRead c.home c.curBuf 0 c.size
  | none => []

/-! ### Reports and messages of an engine (R253) -/

/-- A report of the engine that holds sheet n about a request of element e. -/
def State.reportOn (s : State) (ctx n : Nat) (e : EId) (org : Origin) (code : Nat) (faddr extra : Word) : State :=
  let p : Packet := {
    code := code, kind := 1, chan := org.chan, cont := org.cont, coord := e, frond := org.frond, pc := org.pc,
    wp := org.wp, faddr := faddr, extra := extra, entry := org.entry, wd := org.wd, pseq := 0 }
  s.engineReport ctx (enginePort (n / 32)) p

/-- A message of the engine that holds a sheet. -/
def State.engineSend (s : State) (ctx n : Nat) (dst : EId) (q : Nat) (ws : List Word) : State :=
  s.deviceSend ctx (enginePort (n / 32)) dst q ws none

/-! ### Edits (R245–R247, R255, R256) -/

/-- The report record of an edit. -/
def reportBytes (status n e gen : Nat) (cyc : List Nat) : List Byte :=
  leBytes 64 (status + Nat.min 16 cyc.length * 2 ^ 8 + n * 2 ^ 16 + e * 2 ^ 48 + gen % 2 ^ 48 * 2 ^ 64 +
    (List.range 16).foldl (fun v i => v + cyc.getD i 0 * 2 ^ (128 + 16 * i)) 0)

/-- Does the cell allow the edit: CBIND needs an input cell, the others a defined one? -/
def Sheet.editKind (S : Sheet) (op e : Nat) : Nat :=
  match S.cell e with
  | none => 2
  | some c => if op = 1 ∧ c.isInput = false then 3 else 0

/-- The sheet after a drop (R255): every cell that names the dropped one becomes stale; none when its last cell went. -/
def Sheet.drop (S : Sheet) (e : Nat) : Option Sheet :=
  let U := S.markUsers e
  let names := fun c : CellEntry => c.prec.contains e && !c.isInput
  let T := { U with
    cells := tmap (fun c => if names c then { c with state := .stale } else c) (tdel U.cells e)
    writes := S.writes.filter (fun w => w.cell != e) : Sheet }
  if T.cells.isEmpty then none else some T

/-- Drop a cell. With a sheet's last cell its queued wave requests and its running program are gone too, without a completion, of which
R255 says nothing (log 31). -/
def State.dropCell (s : State) (ctx n e : Nat) : State :=
  s.updCtx ctx (fun C => match tget C.sheets n with
    | none => C
    | some S => match S.drop e with
      | some T => { C with sheets := tset C.sheets n T }
      | none => { C with sheets := tdel C.sheets n })

/-- Apply an edit to the graph as it stands: the state, the STATUS of its report, and the cycle. A loader's binding leaves
the cell fresh (R70). -/
def State.applyEdit (s : State) (ctx n : Nat) (d : Edit) (loader : Bool) : State × Nat × List Nat :=
  match s.sheet ctx n with
  | none => (s, 2, [])
  | some S =>
    if S.editKind d.op d.cell ≠ 0 then (s, 2, [])
    else if d.op = 3 then (s.dropCell ctx n d.cell, 0, [])
    else
      let ps := (List.range d.prec.length).map (fun i => (d.prec.getD i 0, d.lag.getLsbD i))
      let cyc := S.cycle d.cell ps
      if !cyc.isEmpty then (s, 1, cyc)
      else
        let bind := fun c : CellEntry => { c with
          q := d.q
          entry := d.entry
          lag := d.lag
          prec := d.prec
          state := if loader then c.state else .stale }
        (s.updSheet ctx n (fun S =>
          let T := S.updCell d.cell bind
          if loader then T else T.markUsers d.cell), 0, [])

/-- Write the report record of an edit, at an offset of the requester's scratchpad when it is written, pooled where it leads a frond by then
(log 62). -/
def State.writeReport (s : State) (ctx n : Nat) (d : Edit) (gen status : Nat) (cyc : List Nat) : State :=
  let gen := match s.sheet ctx n with | some S => S.gen | none => gen
  s.deviceWrite (unitOf d.src) d.src (fld d.desc 15 0) (reportBytes status n d.cell gen cyc)

/-- Apply a queued edit at a commit or an abandonment: record, message, and the report of a cycle (R247). -/
def State.queuedEdit (s : State) (ctx n : Nat) (gen : Nat) (d : Edit) : State × Bool :=
  let (t, status, cyc) := s.applyEdit ctx n d false
  let t1 := t.writeReport ctx n d gen status cyc
  let t2 := t1.engineSend ctx n d.src (fld d.desc 19 16)
    [0x15, BitVec.ofNat 64 (fld d.desc 15 0), BitVec.ofNat 64 status, cellWordOf n d.cell]
  (if status = 1 then t2.reportOn ctx n d.src d.org 0x42 (BitVec.ofNat 64 (fld d.desc 15 0)) (cellWordOf n d.cell) else t2,
   status != 0)

end Sys2Proof.Machine
end

