-- ==== Sys2Proof/Machine/Sequencer.lean ====
section
/-!
DEFINITION. The stream sequencer: the token ring, owner notices, frames, truncation, and what a wave's start and commit
do to streams (R309–R327).
-/
namespace Sys2Proof.Machine

def State.stream (s : State) (sn : Nat) : Option Stream := tget s.streams sn
def State.setStream (s : State) (sn : Nat) (st : Stream) : State := { s with streams := tset s.streams sn st }

/-- The engine port whose sequencer holds a stream (R309). -/
def streamPort (sn : Nat) : EId := enginePort (sn / 4096)

def Phase.num : Phase → Nat
  | .closed => 0 | .opening => 1 | .idle => 2 | .step => 3 | .committing => 4 | .truncating => 5 | .refeed => 6

/-- Word 3 of SSTAT (R342). PROV is 1 from the SGEN that opens a provisional step on (log 33). -/
def Stream.word3 (st : Stream) : Word :=
  BitVec.ofNat 64 (st.phase.num + (if st.prov.isSome then 2 ^ 3 else 0) + (if st.mask.isSome then 2 ^ 4 else 0) +
    (if st.ovf then 2 ^ 5 else 0) +
    (st.queue.filter (fun e => match e.kind with | .frame _ _ _ => true | _ => false)).length * 2 ^ 6 + st.cgen % 2 ^ 48 * 2 ^ 16)

/-! ### The ring (R324–R326) -/

def ringRec (kind flags : Nat) (body : List Nat) : List Byte :=
  leBytes 4 (4 + 4 * body.length + kind * 2 ^ 16 + flags * 2 ^ 24) ++ body.flatMap (leBytes 4)

def tokensRec (flags pos : Nat) (l : List (BitVec 32)) : List Byte := ringRec 1 flags (pos :: l.map BitVec.toNat)

/-- Tokens of one TOKENS record at most, for LENGTH to hold its bytes in 16 bits (R324). -/
def maxTokens : Nat := 16381

/-- The TOKENS RELEASED records of formerly withheld tokens from position c: one, or several where LENGTH cannot hold the bytes of one
(R323, R324; log 69). -/
def releasedRecs (c : Nat) (l : List (BitVec 32)) : List (List Byte) :=
  (List.range ((l.length + maxTokens - 1) / maxTokens)).map (fun i =>
    tokensRec 2 (c + maxTokens * i) ((l.drop (maxTokens * i)).take maxTokens))

def Stream.ringSize (st : Stream) : Nat := 2 ^ st.tmpl.ring

/-- Bytes of a ring of this size that records of these lengths take from write index w on, with the SKIPs before them. -/
def ringNeed (size : Nat) : Nat → List Nat → Nat
  | _, [] => 0
  | w, n :: ns =>
    let pad := if size < w % size + n then size - w % size else 0
    pad + n + ringNeed size (w + pad + n) ns

/-- Host address of offset o of a stream's ring: its accesses carry the context's function (R404). -/
def Stream.hostAt (st : Stream) (o : Nat) : Nat := Machine.hostAt (ctxFn st.ctx) (st.base + o)

/-- Free space of a ring, with RD read from the host; a read that completes with an error takes the bytes as they stand (log 33). -/
def State.ringFree (s : State) (st : Stream) : Nat :=
  let rd := s.hostWord (st.hostAt 8)
  if st.w < rd ∨ st.ringSize < st.w - rd then 0 else st.ringSize - (st.w - rd)

/-- Does a write of n bytes of host memory end in a PCIe error? -/
def State.hostFails (s : State) (h n : Nat) : Bool :=
  s.hostErrors.any (fun r => decide (h < r.1 + r.2) && decide (r.1 < h + n))

/-- Write one record, with a SKIP before it where it would wrap; with too little space, or on an error, it is not written
and OVF is set. The last part says that a write failed. RD is read for each record, and a TOKENS or INPUT record is left out as those
that R326 names are (log 33). -/
def State.putRecord (s : State) (st : Stream) (bs : List Byte) : State × Stream × Bool :=
  let at' := st.w % st.ringSize
  let pad := if st.ringSize < at' + bs.length then st.ringSize - at' else 0
  let skip := if pad = 0 then [] else leBytes 4 (pad + 4 * 2 ^ 16) ++ (List.range (pad - 4)).map (fun i => (s.free i).setWidth 8)
  let pos := if pad = 0 then at' else 0
  if s.ringFree st < bs.length + pad then (s, { st with ovf := true }, false)
  else if s.hostFails (st.hostAt (64 + at')) pad || s.hostFails (st.hostAt (64 + pos)) bs.length then (s, { st with ovf := true }, true)
  else (((s.hostWrite (st.hostAt (64 + at')) skip).hostWrite (st.hostAt (64 + pos)) bs), { st with w := st.w + pad + bs.length }, false)

/-- The sequencer reports an error on a write to a stream's ring (R344). -/
def State.reportRing (s : State) (sn : Nat) (st : Stream) : State :=
  s.engineReport st.ctx (streamPort sn) {
    code := 0x56, kind := 1, coord := st.owner, frond := s.frondOnly st.owner, faddr := bitsAt 9 60 ||| BitVec.ofNat 64 st.base,
    extra := BitVec.ofNat 64 sn, pseq := 0 }

/-- A PUBLICATION: its records in order, then W once (R325); an error on a write is reported, once for all writes of it that fail (R344,
log 33). -/
def State.publish (s : State) (sn : Nat) (st : Stream) (recs : List (List Byte)) : State × Stream :=
  let r := recs.foldl (fun (acc : State × Stream × Bool) bs =>
    let x := acc.1.putRecord acc.2.1 bs
    (x.1, x.2.1, acc.2.2 || x.2.2)) (s, st, false)
  let wFails := decide (r.2.1.w ≠ st.w) && r.1.hostFails (st.hostAt 0) 8
  let s1 := if decide (r.2.1.w ≠ st.w) && !wFails then r.1.hostWrite (st.hostAt 0) (wordBytes (BitVec.ofNat 64 r.2.1.w)) else r.1
  if r.2.2 || wFails then
    (s1.reportRing sn st, { r.2.1 with ovf := true })
  else (s1, r.2.1)

/-- Publish formerly withheld tokens from c on, if any: all of them, or none with OVF set where the ring lacks the space (R323, R326). -/
def State.release (s : State) (sn : Nat) (st : Stream) (l : List (BitVec 32)) : State × Stream :=
  let recs := releasedRecs st.c l
  if s.ringFree st < ringNeed st.ringSize st.w (recs.map List.length) then (s, { st with ovf := true }) else s.publish sn st recs

/-! ### Notices (R327) -/

/-- Send the owner a notice; `gen` is the committed generation that it names. -/
def State.ownerNotice (s : State) (sn : Nat) (st : Stream) (cause gen : Nat) (disc : Bool) (pos : Nat) (toks : List (BitVec 32)) :
    State :=
  let tok := fun j => (toks.getD j 0).toNat
  s.deviceSend st.ctx (streamPort sn) st.owner st.q.toNat
    ([0x30,
      BitVec.ofNat 64 (sn + cause * 2 ^ 16 + toks.length * 2 ^ 20 + (if disc then 2 ^ 24 else 0) + gen % 2 ^ 32 * 2 ^ 32),
      BitVec.ofNat 64 (st.g + st.c * 2 ^ 32),
      BitVec.ofNat 64 (st.r + (if 3 ≤ cause ∧ cause ≤ 5 then pos * 2 ^ 32 else 0))] ++
     (List.range 4).map (fun i => BitVec.ofNat 64 (tok (2 * i) + tok (2 * i + 1) * 2 ^ 32))) none

/-! ### Truncation and events (R313–R317, R323) -/

/-- The valid checkpoint slot with the largest position at or below a position. -/
def Stream.bestSlot (st : Stream) (pos : Nat) : Option (Nat × Nat) :=
  st.ck.foldl (fun best p => if p.2 ≤ pos then
      (match best with | some b => if b.2 < p.2 then some p else some b | none => some p)
    else best) none

/-- The block length BL, and the capacity of a stream (R310): the ROWS of cell KVE as it stands, also where an edit has changed or dropped
it (log 34). -/
def State.blockLen (s : State) (ctx : Nat) (t : Template) : Nat :=
  match (s.sheet ctx t.sheet).bind (·.cell t.kve) with
  | some c => c.rows
  | none => 0

def State.capacity (s : State) (st : Stream) : Nat := st.tmpl.kvn * s.blockLen st.ctx st.tmpl

/-- TRUNCATE to a position: a wave request at the head of the sheet's queue (R317). Of the input tokens those that find room below
the capacity are taken (R311; log 34). -/
def State.truncate (s : State) (sn : Nat) (st : Stream) (pos : Nat) (toks : List (BitVec 32)) (cause : Nat) (disc : Bool) : State :=
  let slot := (st.bestSlot pos).getD (0, 0)
  let tr : Truncation := { s := pos, toks := toks.take (s.capacity st - pos), cause := cause, slot := slot.1, ck := slot.2, disc := disc }
  (s.setStream sn { st with phase := .truncating, trunc := some tr }).updSheet st.ctx st.tmpl.sheet (fun S => S.pushHead sn)

/-- Does a queued event start a truncation when the queue is applied (R314, R336, R345)? -/
def Stream.truncates (st : Stream) (e : StreamEvent) : Bool :=
  match e.kind with
  | .frame pos play _ => !play && decide (st.f ≤ pos) && decide (pos ≤ st.c)
  | .violation _ => st.prov.isSome

/-- Apply one event of a stream (R316, R323). -/
def State.applyEvent (s : State) (sn : Nat) (st : Stream) (e : StreamEvent) (disc : Bool) : State :=
  let fault := fun (st : Stream) reason pos =>
    let r := s.publish sn st [ringRec 3 0 [reason, pos, e.seq % 2 ^ 32]]
    r.1.setStream sn r.2
  match e.kind with
  | .frame pos play toks =>
    if st.c < pos then fault st 2 pos
    else
      let st1 := { st with p := Nat.max st.p pos }
      if play then s.setStream sn st1
      else if pos < st.f then fault st1 1 pos
      else s.truncate sn st1 pos toks 3 disc
  | .violation u =>
    match st.prov with
    | none => s.setStream sn st
    | some _ =>
      let r := s.release sn st (st.kept.take (u - st.c))
      r.1.truncate sn { r.2 with c := u, kept := r.2.kept.drop (u - st.c) } u [] 5 disc

/-- Apply up to n queued events in stamp order; one that starts a truncation leaves the rest. -/
def State.applyEvents (s : State) (sn : Nat) (disc : Bool) : Nat → State
  | 0 => s
  | n + 1 =>
    match s.stream sn with
    | none => s
    | some st =>
      match st.phase, st.queue with
      | .truncating, _ => s
      | _, [] => s
      | _, e :: es => (s.applyEvent sn { st with queue := es } e disc).applyEvents sn disc n

/-- A boundary at which every queued event is applied at once. -/
def State.boundary (s : State) (sn : Nat) (disc : Bool) : State :=
  match s.stream sn with
  | some st => s.applyEvents sn disc st.queue.length
  | none => s

/-! ### Masks (R322, R323) -/

/-- Is a mask ready (R322)? One of a sheet that does not exist is not, whatever its MGEN (log 33). -/
def State.maskReady (s : State) (ctx : Nat) (m : MaskArm) : Bool :=
  match s.sheet ctx m.sheet with
  | some S => decide (m.gen ≤ S.gen)
  | none => false

/-- Does a mask value allow a token? -/
def maskAllows (value : List Byte) (t : BitVec 32) : Bool :=
  match value[t.toNat / 8]? with
  | some b => b.getLsbD (t.toNat % 8)
  | none => false

/-- A commit of the stream's sheet that made generation gen and moved c from an earlier value names CGEN (R311, R342). -/
def State.stampC (s : State) (sn c gen : Nat) : State :=
  match s.stream sn with
  | some st => if st.c = c then s else s.setStream sn { st with cgen := gen }
  | none => s

/-- Check the provisional tokens of a stream against a ready mask at a commit of sheet n. Where that is the stream's own sheet, its
generation is CGEN for the c that it sets; a commit of another sheet leaves CGEN (log 32). A mask cell that is a range cell has the bytes
of its buffer for a mask (log 33). -/
def State.checkMask (s : State) (n sn : Nat) (st : Stream) (p : Provisional) : State :=
  let value := s.committed st.ctx p.mask.sheet p.mask.cell
  let gen := match s.sheet st.ctx st.tmpl.sheet with | some S => S.gen | none => 0
  match (List.range p.n).find? (fun i => !maskAllows value (st.kept.getD (p.v + i - st.c) 0)) with
  | none =>
    let r := s.release sn st st.kept
    let st1 := { r.2 with c := r.2.g, kept := [], prov := none, cgen := if n = st.tmpl.sheet then gen else st.cgen }
    (r.1.setStream sn st1).ownerNotice sn st1 6 gen false 0 []
  | some i =>
    let st1 := { st with
      seq := (st.seq + 1) % 2 ^ 32
      prov := some { p with found := true }
      queue := st.queue ++ [{ seq := (st.seq + 1) % 2 ^ 32, kind := .violation (p.v + i) }] }
    let t := s.setStream sn st1
    if st.phase ≠ .idle then t
    else if n = st.tmpl.sheet then (t.boundary sn false).stampC sn st.c gen
    else t.boundary sn false

/-- At a commit of a sheet: every pending check whose mask lies on it, or whose own step has just committed, is tested, in the order of the
streams' numbers: R323 gives none (log 33). -/
def State.testMasks (s : State) (ctx n : Nat) (own : Option Nat) : State :=
  s.streams.foldl (fun s q =>
    match s.stream q.1 with
    | some st => match st.prov with
      | some p =>
        if st.ctx == ctx && p.committed && !p.found && (p.mask.sheet == n || own == some q.1) && s.maskReady ctx p.mask
        then s.checkMask n q.1 st p else s
      | none => s
    | none => s) s

/-! ### Waves of a stream (R317, R319, R320, R328) -/

/-- STATE and checkpoint cell i of a stream as they stand, while they are cells of one size, as R310 has them at SOPEN; none where edits
have since taken one of them, its size or the sheet away (log 34). -/
def State.checkpointPair (s : State) (st : Stream) (i : Nat) : Option (CellEntry × CellEntry) :=
  match s.sheet st.ctx st.tmpl.sheet with
  | none => none
  | some S =>
    match S.cell st.tmpl.stateCell, S.cell (st.tmpl.cke + i) with
    | some c, some k => if k.size = c.size then some (c, k) else none
    | _, _ => none

/-- Copy STATE's committed value into checkpoint cell i, as a pending or held write (R320). Nothing is copied without the two cells
(log 34). -/
def State.copyState (s : State) (sn : Nat) (st : Stream) (i : Nat) : State :=
  let s1 := match s.checkpointPair st i with
    | some (c, _) =>
      s.writeCell st.ctx st.tmpl.sheet (st.tmpl.cke + i) 0 (s.bufRead c.home c.curBuf 0 c.size) (some (sn, i))
    | none => s
  s1.setStream sn { st with ck := tdel st.ck i, ckPend := tset st.ckPend i st.g }

/-- Can the copy into a checkpoint cell be made now? -/
def State.canCopy (s : State) (st : Stream) (i : Nat) : Bool :=
  match s.sheet st.ctx st.tmpl.sheet with
  | some S => S.canWrite (st.tmpl.cke + i)
  | none => false

/-- At the start of a truncation's wave: STATE is restored from the checkpoint, its pending write discarded, and taken (R317). Without
the two cells nothing is restored, and STATE keeps its committed value (log 34). -/
def State.restoreState (s : State) (sn : Nat) : State :=
  match s.stream sn with
  | none => s
  | some st =>
    match st.trunc with
    | none => s
    | some tr =>
      let mark := fun (s : State) (taken : Bool) =>
        s.updCell st.ctx st.tmpl.sheet st.tmpl.stateCell (fun c => { c with wpend := false, wtaken := taken && c.isInput })
      match s.checkpointPair st tr.slot with
      | some (c, k) => mark (s.cellWrite c.home c.nextBuf 0 (s.bufRead k.home k.curBuf 0 k.size)) true
      | none => mark s false

/-- Checkpoint slots whose copies the committing wave has taken become valid. -/
def State.validateSlots (s : State) (ctx n : Nat) (S : Sheet) : State :=
  s.streams.foldl (fun s q =>
    match s.stream q.1 with
    | some st =>
      if st.ctx = ctx ∧ st.tmpl.sheet = n then
        let ready := st.ckPend.filter (fun p =>
          (match S.cell (st.tmpl.cke + p.1) with | some c => c.wtaken | none => false) &&
          !S.writes.any (fun w => w.checkpoint == some (q.1, p.1)))
        s.setStream q.1 { st with
          ck := ready.foldl (fun t p => tset t p.1 p.2) st.ck
          ckPend := ready.foldl (fun t p => tdel t p.1) st.ckPend }
      else s
    | none => s) s

/-- The end of a stream's part in a commit: the phase, the owner's notice with the generation that the commit makes, and the
events queued by now (R313, R319). -/
def State.endCommit (s : State) (sn : Nat) (st : Stream) (ph : Phase) (cause gen : Nat) (disc : Bool) (pos : Nat)
    (toks : List (BitVec 32)) : State :=
  ((s.setStream sn { st with phase := ph }).ownerNotice sn st cause gen disc pos toks).boundary sn false

/-- What a stream's own wave does within step 1 of its commit; `gen` is the generation that the commit makes. c rises also where the TOKENS
record finds too little space (log 33). -/
def State.streamCommit (s : State) (sn gen : Nat) : State :=
  match s.stream sn with
  | none => s
  | some st =>
    match st.phase with
    | .opening =>
      s.endCommit sn { st with cgen := gen } .idle 0 gen false 0 []
    | .committing =>
      if st.isFeed then
        let st1 := { st with r := st.r + st.fed, cgen := gen }
        s.endCommit sn st1 (if st1.r < st1.g then .refeed else .idle) 2 gen false 0 []
      else
        let n := st.posted.length
        let st1 := { st with g := st.g + n, r := st.g + n, cgen := gen }
        let prov := match st.prov with
          | some p => if st.stepMode = 2 then some { p with n := n, committed := true } else some p
          | none => none
        let r :=
          if prov.isSome then (s, { st1 with kept := st1.kept ++ st.posted, prov := prov })
          else if n = 0 then (s, st1)
          else s.publish sn { st1 with c := st1.g } [tokensRec 0 st.g st.posted]
        r.1.endCommit sn r.2 .idle 1 gen false 0 []
    | _ => s

/-- What a truncation's wave does within step 1 of its commit (R317). -/
def State.truncCommit (s : State) (sn gen : Nat) : State :=
  match s.stream sn with
  | none => s
  | some st =>
    match st.trunc with
    | none => s
    | some t =>
      let n := t.toks.length
      let st1 := { st with
        c := Nat.min st.c t.s + n
        g := t.s + n
        r := t.ck
        p := Nat.min st.p t.s
        cgen := gen
        prov := none
        kept := []
        trunc := none }
      let retract := ringRec 2 0 [t.s, st.c, st.g]
      let (s1, st2) := s.publish sn st1 (if n = 0 then [retract] else [retract, tokensRec 1 t.s t.toks])
      s1.endCommit sn st2 (if st2.r < st2.g then .refeed else .idle) t.cause gen t.disc t.s t.toks

end Sys2Proof.Machine
end

