-- ==== Sys2Proof/Machine/Cells.lean ====
section
/-!
DEFINITION. Waves, reads and wave programs of the sheet engine, and major 0x12 (R234–R263).
-/
namespace Sys2Proof.Machine

/-! ### Slots (R234, R238, R239, R264) -/

/-- A reference record (R239). -/
def refRecord (c : CellEntry) (buf : Word) (gen : Nat) : List Byte :=
  leBytes 64 (buf.toNat + c.rows % 2 ^ 16 * 2 ^ 64 + c.cols % 2 ^ 16 * 2 ^ 80 + c.fmt.toNat * 2 ^ 96 + gen % 2 ^ 48 * 2 ^ 128)

/-- What a slot holds for a cell: its value in a buffer, or a reference record. -/
def State.slotOf (s : State) (c : CellEntry) (buf : Word) (gen : Nat) : List Byte :=
  if isMemCore c.home then refRecord c buf gen else s.bufRead c.home buf 0 c.size

/-- Where slots one after another stand, each at a multiple of 64, and the length of them all (R238). -/
def slotPlaces (l : List (List Byte)) : List (Nat × List Byte) × Nat :=
  l.foldl (fun acc x =>
    let p := (acc.2 + 63) / 64 * 64
    (acc.1 ++ [(p, x)], p + x.length)) ([], 0)

/-- The payload of slots; the spec gives the bytes between them no value: free (log 4). -/
def State.layout (s : State) (l : List (List Byte)) : List Byte :=
  l.foldl (fun acc x =>
    acc ++ (List.range ((64 - acc.length % 64) % 64)).map (fun i => (s.free (acc.length + i)).setWidth 8) ++ x) []

/-! ### Reads (R235, R257) -/

/-- Serve a read from the committed generation and send its completion; for a sheet that does not exist the generation is 0 (log 31).
The bytes between the slots stay as they are (the spec's program 11: `still zero`). The offset is that of the requester's scratchpad when
the read is served, pooled where it leads a frond by then (log 62). -/
def State.serveRead (s : State) (ctx : Nat) (src : EId) (head : Word) (cells : List Nat) (desc : Word) : State :=
  let n := fld head 5 0
  let S := s.sheet ctx n
  let gen := match S with | some S => S.gen | none => 0
  let found := cells.map (fun e => match S.bind (·.cell e) with
    | some c => if c.isRange then none else some c
    | none => none)
  let (slots, len) := slotPlaces (found.map (fun o => match o with
    | some c => s.slotOf c c.curBuf gen
    | none => []))
  let status : Nat := if found.any Option.isNone then 3 else if fld desc 31 16 < len then 2 else 0
  let t := if status = 0 then slots.foldl (fun s p => s.deviceWrite (unitOf src) src (fld desc 15 0 + p.1) p.2) s else s
  t.deviceSend ctx (enginePort (n / 32)) src (fld desc 35 32)
    [0x10, BitVec.ofNat 64 gen, BitVec.ofNat 64 (status + (if status = 0 then len else 0) * 2 ^ 16), head] (some src)

/-- Is a read held: it names a cell of the set of the wave in flight, an input whose taken write a formula of the set
depends on, or an earlier read of the element is held (R235, R243)? -/
def Sheet.holds (S : Sheet) (src : EId) (cells : List Nat) : Bool :=
  S.reads.any (fun r => r.src == src) ||
  match S.wave with
  | none => false
  | some w => cells.any (fun e => w.set.contains e ||
      ((match S.cell e with | some c => c.wtaken | none => false) && (S.users e).any w.set.contains))

/-- CRD_SERVE: read k is served, or held until the wave ends. -/
def execCrdServe (k : Nat) (s : State) : Host.Outcome State Fault Refusal :=
  arrival s k (fun f =>
    match f.body with
    | .crd head cells desc =>
      if !s.engineRuns f.ctx then s
      else
        let hold := match s.sheet f.ctx (fld head 5 0) with | some S => S.holds f.src cells | none => false
        if hold then (s.land f).updSheet f.ctx (fld head 5 0) (fun S => { S with
          reads := S.reads ++ [{ src := f.src, head := head, cells := cells, desc := desc }] })
        else (s.land f).serveRead f.ctx f.src head cells desc
    | _ => s)

/-! ### Wave programs (R248–R250) -/

def nodeKind (w : Word) : Nat := fld w 3 0
def nodeTarget (w : Word) : Nat := fld w 31 16
def nodeCell (w : Word) : Nat := fld w 47 32
def nodeArg (w : Word) : Nat := fld w 63 48

/-- The node that runs after node i when control would move to n: the innermost WHILE whose body holds i and whose TARGET
is n, otherwise n. -/
def nodeAfter (nodes : List Word) (i n : Nat) : Nat :=
  (List.range nodes.length).foldl (fun best j =>
    let w := nodes.getD j 0
    if nodeKind w = 2 ∧ j < i ∧ i < nodeTarget w ∧ nodeTarget w = n then j else best) n

/-- The program stops: its message goes to the channel that CRUN named. -/
def State.stopProgram (s : State) (ctx n : Nat) (r : ProgRun) (gen status : Nat) : State :=
  (s.updSheet ctx n (fun S => { S.endItems BreakItem.isNode with
    run := none
    reqs := S.reqs.filter (fun q => decide (q ≠ .program)) })).engineSend ctx n r.src r.q.toNat
    [0x14, BitVec.ofNat 64 gen, BitVec.ofNat 64 (status + r.node % 2 ^ 16 * 2 ^ 16), BitVec.ofNat 64 r.waves]

/-- A predicate: none when the cell is not defined or is a range (R249). -/
def State.predicate (s : State) (S : Sheet) (e : Nat) : Option Bool :=
  match S.cell e with
  | none => none
  | some c =>
    if c.isRange then none
    else
      let code := leNat (s.bufRead c.home c.curBuf 0 (fmtBytes c.fmt.toNat))
      match codeFmt c.fmt.toNat with
      | none => some (code != 0)
      | some F => match F.decode code with
        | .fin _ m _ => some (m != 0)
        | _ => some true

/-- The word of a breakpoint register that matches (R388, R398). -/
def Ctx.breakAt (C : Ctx) (n mode : Nat) (same : Word → Bool) : Option Word :=
  C.bkpts.toList.find? (fun w => fld w 3 2 == mode && (w.getLsbD 12 || fld w 11 6 == n) && same w)

/-- Halt a sheet at a breakpoint and report it (R372, R388). -/
def State.haltSheet (s : State) (ctx n : Nat) (it : BreakItem) (e : EId) (faddr bp : Word) : State :=
  (s.updSheet ctx n (fun S => { S with halted := some it })).engineReport ctx (enginePort (n / 32))
    { code := 0x76, kind := 1, coord := e, frond := s.frondOnly e, faddr := faddr, extra := bp, pseq := 0 }

/-- A matched item proceeds, or is over: it may be matched again from now on. -/
def Sheet.unpass (S : Sheet) (it : BreakItem) : Sheet := { S with passed := S.passed.filter (fun x => decide (x ≠ it)) }

/-- Move a running program to its next node. -/
def State.goNode (s : State) (ctx n : Nat) (nodes : List Word) (r : ProgRun) (next : Nat) : State :=
  s.updSheet ctx n (fun S => { S with run := some { r with node := nodeAfter nodes r.node next, waiting := false } })

/-- One node of a running program. -/
def State.runNode (s : State) (ctx n : Nat) (C : Ctx) (S : Sheet) (r : ProgRun) (nodes : List Word) : State :=
  match nodes[r.node]? with
  | none => s.stopProgram ctx n r S.gen 0
  | some w =>
    match nodeKind w with
    | 1 =>
      if (match r.budget with | some b => decide (b ≤ r.waves) | none => false) then s.stopProgram ctx n r S.gen 2
      else if S.queued < 16 then
        s.updSheet ctx n (fun S => { S with reqs := S.reqs ++ [.program], run := some { r with waiting := true } })
      else s
    | 4 =>
      (s.inject ctx (enginePort (n / 32)) (some (eventPort (nodeArg w))) (.evReq 2 (BitVec.ofNat 16 (nodeArg w)) 1)).goNode
        ctx n nodes r (r.node + 1)
    | 5 =>
      if !C.hq.en then s.goNode ctx n nodes r (r.node + 1)
      else if C.hq.full s ctx then s
      else
        let (t, q) := s.ringPut ctx C.hq 64 [0x15, BitVec.ofNat 64 (nodeArg w), BitVec.ofNat 64 n, BitVec.ofNat 64 S.gen]
        (t.updCtx ctx (fun C => { C with hq := q })).goNode ctx n nodes r (r.node + 1)
    | 6 => s.stopProgram ctx n r S.gen 0
    | _ =>
      match s.predicate S (nodeCell w) with
      | none => s.stopProgram ctx n r S.gen 3
      | some true => s.goNode ctx n nodes r (r.node + 1)
      | some false => s.goNode ctx n nodes r (nodeTarget w)

/-- WAVE_NODE: a running program executes its next node, unless it waits for a wave or meets a breakpoint. A matched node that
finds no room stays where it is, and is not matched again when it is tried again (R388). -/
def execWaveNode (ctx sheet : Nat) (s : State) : Host.Outcome State Fault Refusal :=
  match tget s.ctxs ctx, s.sheet ctx sheet with
  | some C, some S =>
    match S.run with
    | none => .next s
    | some r =>
      let nodes := S.progs.getD r.prog []
      if r.waiting || S.halted.isSome || !s.engineRuns ctx then .next s
      else match (if S.passed.contains (.node r.node) then none else C.breakAt sheet 3 (fun w => fld w 23 20 == r.prog && fld w 41 32 == r.node)) with
      | some w => .next (s.haltSheet ctx sheet (.node r.node) r.src (nodes.getD r.node 0) w)
      | none =>
        let t := s.runNode ctx sheet C S r nodes
        .next (if (t.sheet ctx sheet).bind (·.run) = some r then t else t.updSheet ctx sheet (fun S => S.unpass (.node r.node)))
  | _, _ => .next s

/-! ### Waves (R236–R242) -/

/-- The head request of a sheet starts a wave, if none is in flight: writes are taken, the set is fixed (R236). -/
def State.startWave (s : State) (ctx sheet : Nat) : State :=
  match s.sheet ctx sheet with
  | none => s
  | some S0 =>
    match S0.wave, S0.reqs with
    | none, r :: rs =>
      if S0.halted.isSome || !s.engineRuns ctx then s
      else
        let s1 := match r with | .truncation sn => s.restoreState sn | _ => s
        s1.updSheet ctx sheet (fun S =>
          let taken := (S.cells.filter (fun p => p.2.isInput && (p.2.wpend || p.2.wtaken))).map Prod.fst
          let lag := S.laggers
          let seed := (S.cells.filter (fun p => p.2.isFormula &&
            (decide (p.2.state = .stale) || decide (p.2.state = .faulted) || lag.contains p.1))).map Prod.fst
          let all := S.closure (taken.foldl sinsert (seed.foldl sinsert []))
          let set := (S.cells.filter (fun p => p.2.isFormula && all.contains p.1)).map Prod.fst
          let T := taken.foldl (fun S e => S.updCell e (fun c => { c with wpend := false, wtaken := true })) S
          let U := set.foldl (fun S e => S.updCell e (fun c => { c with state := .stale, inWave := true })) T
          { U with wave := some { req := r, set := set, failed := [] }, reqs := rs })
    | _, _ => s

/-- WAVE_START: the head request of a sheet starts a wave. -/
def execWaveStart (ctx sheet : Nat) (s : State) : Host.Outcome State Fault Refusal := .next (s.startWave ctx sheet)

/-- A cell of the wave in flight fails: report 0x45 (R253). -/
def State.failCell (s : State) (ctx n e reason value : Nat) : State :=
  match s.sheet ctx n with
  | none => s
  | some S =>
    match S.cell e with
    | none => s
    | some c =>
      let s1 := s.updSheet ctx n (fun S => { S.updCell e (fun c => { c with state := .faulted }) with
        wave := S.wave.map (fun w => { w with failed := w.failed ++ [(e, S.rank e)] }) })
      s1.engineReport ctx (enginePort (n / 32)) {
        code := 0x45, kind := 1, chan := c.q.toNat, coord := c.home
        frond := s.frondAt c.home (c.entry.setWidth 64), pc := c.entry.setWidth 64
        faddr := cellWordOf n e, extra := BitVec.ofNat 64 (reason + value % 2 ^ 32 * 2 ^ 32), pseq := 0 }

/-- Is a stale cell of the set ready: is every unlagged precedent, after range expansion, outside the set or fresh (R237)? One that is not
defined is outside it, and the cell will fail. -/
def Sheet.cellReady (S : Sheet) (w : Wave) (e : Nat) : Bool :=
  match S.cell e with
  | none => false
  | some c => decide (c.state = .stale) && (c.precs.flatMap (S.members 4 false)).all (fun p => p.2 || !w.set.contains p.1 ||
      (match S.cell p.1 with | some d => decide (d.state = .fresh) | none => true))

/-- The evaluation message of a cell (R240). Its in7 is WP + 256 of the binding of channel Q: execBulkMessageAccept writes it for a bulk
message and entryWords for a short one, which `words8` leaves 0 here. -/
def State.sendEval (s : State) (ctx n : Nat) (S : Sheet) (w : Wave) (e : Nat) (c : CellEntry) (slots : List (Nat × Bool)) : State :=
  let gen := S.gen + 1
  let bytes := s.layout (slots.map (fun p => match S.cell p.1 with
    | none => []
    | some d =>
      if !p.2 && (w.set.contains p.1 || d.wtaken) then s.slotOf d d.nextBuf gen else s.slotOf d d.curBuf S.gen))
  let ws := words8 [0x11, BitVec.ofNat 64 (n + e * 2 ^ 16 + gen % 2 ^ 32 * 2 ^ 32), c.nextBuf, c.curBuf, BitVec.ofNat 64 gen,
    BitVec.ofNat 64 slots.length, BitVec.ofNat 64 bytes.length]
  let m : Msg := { kind := .eval ctx n e gen, words := ws, region := !bytes.isEmpty }
  let ret : Ret := { credit := none, notice := none, cmd := none }
  (s.updCell ctx n e (fun c => { c with state := .evaluating })).inject ctx (enginePort (n / 32)) (some c.home)
    (if bytes.isEmpty then .msg c.q m ret else .bulk c.q m bytes ret)

/-- EVAL_DISPATCH: the ready cell that comes first by (rank, e) is dispatched, or meets a breakpoint (R237, R388). -/
def execEvalDispatch (ctx sheet : Nat) (s : State) : Host.Outcome State Fault Refusal :=
  match tget s.ctxs ctx, s.sheet ctx sheet with
  | some C, some S =>
    match S.wave with
    | none => .next s
    | some w =>
      if S.halted.isSome || !w.failed.isEmpty || !s.engineRuns ctx then .next s
      else match sortBy (fun e => S.rank e * 65536 + e) (w.set.filter (S.cellReady w)) with
      | [] => .next s
      | e :: _ =>
        match S.cell e with
        | none => .next s
        | some c =>
          let bp := if S.passed.contains (.cell e) then none else
            match C.breakAt sheet 1 (fun w => fld w 51 32 == c.entry.toNat) with
            | some w => some w
            | none => C.breakAt sheet 2 (fun w => fld w 19 16 == c.q.toNat)
          match bp with
          | some bw => .next (s.haltSheet ctx sheet (.cell e) c.home (cellWordOf sheet e) bw)
          | none =>
            let s1 := s.updSheet ctx sheet (fun S => S.unpass (.cell e))
            match S.slots c with
            | none => .next (s1.failCell ctx sheet e 4 0)
            | some l => .next (s1.sendEval ctx sheet S w e c l)
  | _, _ => .next s

/-- CWAIT continuations of a sheet whose generation has been reached are fired (R262). -/
def State.fireWaits (s : State) (ctx n gen : Nat) : State :=
  match tget s.ctxs ctx with
  | some C =>
    let due := C.waits.filter (fun w => w.sheet == n && decide (w.gen ≤ gen))
    let s1 := s.updCtx ctx (fun C => { C with waits := C.waits.filter (fun w => !(w.sheet == n && decide (w.gen ≤ gen))) })
    due.foldl (fun s w => s.fire ctx (enginePort (n / 32)) w.src w.frond w.q.toNat [0x13, BitVec.ofNat 64 gen, BitVec.ofNat 64 n]) s1
  | none => s

/-- The completion of a wave to whoever asked for it (R260), and the running program's part in it. -/
def State.waveDone (s : State) (ctx n : Nat) (w : Wave) (gen status refused : Nat) : State :=
  match w.req with
  | .core src q =>
    let first := match sortBy (fun p : Nat × Nat => p.2 * 65536 + p.1) w.failed with
      | p :: _ => cellWordOf n p.1
      | [] => 0
    s.engineSend ctx n src q.toNat
      [0x12, BitVec.ofNat 64 gen, BitVec.ofNat 64 (status + w.set.length % 2 ^ 16 * 2 ^ 16), first, BitVec.ofNat 64 refused]
  | .program =>
    match (s.sheet ctx n).bind (·.run) with
    | none => s
    | some r =>
      if status = 0 then
        s.goNode ctx n (match s.sheet ctx n with | some S => S.progs.getD r.prog [] | none => []) { r with waves := r.waves + 1 } (r.node + 1)
      else s.stopProgram ctx n r gen (if status = 3 then 4 else 1)
  | _ => s

/-- Steps 3–7 of R241, after a commit or an abandonment. A held write of a cell that an edit of step 4 has made a formula or range is
applied at step 5 all the same (log 35). -/
def State.afterWave (s : State) (ctx n : Nat) (w : Wave) (gen status : Nat) : State :=
  let S := (s.sheet ctx n).getD Sheet.blank
  let s1 := s.updSheet ctx n (fun S => { S.endItems BreakItem.isCell with reads := [], edits := [], writes := [] })
  let s2 := S.reads.foldl (fun s r => s.serveRead ctx r.src r.head r.cells r.desc) s1
  let s2 := s2.updSheet ctx n (fun T => { T with writes := S.writes })
  let (s3, refused) := S.edits.foldl (fun (acc : State × Nat) d =>
    let (t, bad) := acc.1.queuedEdit ctx n gen d
    (t, acc.2 + (if bad then 1 else 0))) (s2, 0)
  let held := match s3.sheet ctx n with | some T => T.writes | none => []
  let s4 := held.foldl (fun s h => s.putCell ctx n h.cell h.doff h.bytes) (s3.updSheet ctx n (fun T => { T with writes := [] }))
  let s5 := s4.updSheet ctx n (fun T => { T with cells := tmap (fun c =>
    if c.next then { c with next := false, state := .stale } else c) T.cells })
  (s5.waveDone ctx n w gen status refused).fireWaits ctx n gen

/-- ABANDON the wave in flight (R242). -/
def State.abandonWave (s : State) (ctx n status : Nat) : State :=
  match s.sheet ctx n with
  | none => s
  | some S =>
    match S.wave with
    | none => s
    | some w =>
      let back := fun c : CellEntry =>
        let c1 := if c.inWave then { c with inWave := false, state := if c.state = .faulted then .faulted else .stale } else c
        if c1.wtaken then { c1 with wtaken := false, wpend := true } else c1
      let gone := w.set.map (fun e => (n, e, (S.gen + 1) % 2 ^ 32))
      let s1 := s.updCtx ctx (fun C => { C with abandoned := gone ++ C.abandoned.filter (fun p => !gone.contains p) })
      (s1.updSheet ctx n (fun S => { S with
        cells := tmap back S.cells
        wave := none })).afterWave ctx n w S.gen status |>.startWave ctx n

/-- WAVE_ABANDON: a wave with a failed cell is abandoned once no cell of its set is evaluating (R242). -/
def execWaveAbandon (ctx sheet : Nat) (s : State) : Host.Outcome State Fault Refusal :=
  match s.sheet ctx sheet with
  | none => .next s
  | some S =>
    match S.wave with
    | none => .next s
    | some w =>
      if w.failed.isEmpty || S.halted.isSome || !s.engineRuns ctx ||
        S.cells.any (fun p => p.2.inWave && decide (p.2.state = .evaluating)) then .next s
      else .next (s.abandonWave ctx sheet 1)

/-- WAVE_COMMIT: when every cell of the set is fresh, the wave commits and raises G, and the next queued request starts a wave,
all in one step (R241). R323 does not say where in that step a mask is tested: the model tests it last, after the queued events of the
streams and the edits (log 33). -/
def execWaveCommit (ctx sheet : Nat) (s : State) : Host.Outcome State Fault Refusal :=
  match s.sheet ctx sheet with
  | none => .next s
  | some S =>
    match S.wave with
    | none => .next s
    | some w =>
      let allFresh := w.set.all (fun e => match S.cell e with | some c => decide (c.state = .fresh) | none => true)
      if S.halted.isSome || !w.failed.isEmpty || !allFresh || !s.engineRuns ctx then .next s
      else
        let gen := (S.gen + 1) % 2 ^ 48
        let flip := fun c : CellEntry =>
          if c.inWave || c.wtaken then
            let c1 := { c with inWave := false, wtaken := false, cur := !c.cur, flipGen := gen % 2 ^ 32 }
            if c.isInput then { c1 with state := .fresh } else c1
          else c
        let s1 := s.validateSlots ctx sheet S
        let s2 := s1.updSheet ctx sheet (fun S => { S with cells := tmap flip S.cells, wave := none })
        let s3 := match w.req with
          | .stream sn => s2.streamCommit sn gen
          | .truncation sn => s2.truncCommit sn gen
          | _ => s2
        let s4 := s3.updSheet ctx sheet (fun S => { S with gen := gen })
        let own := match w.req with | .stream sn => some sn | _ => none
        .next (((s4.afterWave ctx sheet w gen 0).testMasks ctx sheet own).startWave ctx sheet)

/-! ### Requests that arrive at the engine (R244, R253, R258–R262) -/

/-- CELL_WRITE_APPLY: input write k is applied, held, refused with report 0x44, or waits for room (R244, R258). A refused one returns its
unit too (log 31). -/
def execCellWriteApply (k : Nat) (s : State) : Host.Outcome State Fault Refusal :=
  arrival s k (fun f =>
    match f.body with
    | .cwr cell doff bytes org =>
      let n := fld cell 5 0
      let e := fld cell 31 16
      let refuse := fun r : Nat => ((s.land f).giveBack f (some f.src)).reportOn f.ctx n f.src org 0x44 cell (BitVec.ofNat 64 r)
      if !s.engineServes f.ctx then s
      else match s.sheet f.ctx n with
      | none => refuse 1
      | some S =>
        match S.cell e with
        | none => refuse 1
        | some c =>
          if !c.isInput then refuse 2
          else if c.size < doff + bytes.length then refuse 3
          else if !S.canWrite e then s
          else ((s.land f).giveBack f (some f.src)).writeCell f.ctx n e doff bytes none
    | _ => s)

/-- Does an evaluation word name an evaluating cell of the wave in flight (R259)? -/
def Sheet.evaluating (S : Sheet) (word : Word) : Bool :=
  S.wave.isSome && decide ((S.gen + 1) % 2 ^ 32 = fld word 63 32) &&
  (match S.cell (fld word 31 16) with
   | some c => c.inWave && decide (c.state = .evaluating)
   | none => false)

/-- CDONE_REPORT: the engine receives the end of an evaluation, or learns that one was lost (R253, R259). Both are known by cell and
generation alone, so that one of an abandoned wave meets the cell's evaluation in the next wave, if that is in flight (log 31). -/
def execCdoneReport (k : Nat) (s : State) : Host.Outcome State Fault Refusal :=
  arrival s k (fun f =>
    if !s.engineRuns f.ctx then s
    else match f.body with
    | .cdone word status org =>
      let n := fld word 5 0
      let e := fld word 31 16
      let t := s.land f
      if (s.sheet f.ctx n).any (·.evaluating word) then
        if fld status 31 0 = 0 then t.updCell f.ctx n e (fun c => { c with state := .fresh })
        else t.failCell f.ctx n e 1 (fld status 31 0)
      else if (tget s.ctxs f.ctx).any (·.abandoned.contains (n, e, fld word 63 32)) then t
      else t.reportOn f.ctx n f.src org 0x44 word 4
    | .evalLost word reason value =>
      let t := s.land f
      match s.sheet f.ctx (fld word 5 0) with
      | none => t
      | some S => if S.evaluating word then t.failCell f.ctx (fld word 5 0) (fld word 31 16) reason value else t
    | _ => s)

/-- Serve CWAVE: a request for a wave, or the end of the wave in flight (R260); refused for a sheet that does not exist, with generation 0
(log 31). -/
def State.serveCwave (s : State) (f : Flight) (desc : Word) : State :=
  let n := fld desc 5 0
  let q := fld desc 19 16
  let t := s.land f
  let refused := fun gen : Nat => t.engineSend f.ctx n f.src q [0x12, BitVec.ofNat 64 gen, 2]
  match s.sheet f.ctx n with
  | none => if fld desc 9 8 = 1 then t else refused 0
  | some S =>
    if fld desc 9 8 = 1 then
      let t1 := match S.run with
        | some r => t.stopProgram f.ctx n r S.gen 4
        | none => t
      t1.abandonWave f.ctx n 3
    else if 16 ≤ S.queued ∨ S.run.isSome = true then refused S.gen
    else t.updSheet f.ctx n (fun S => { S with reqs := S.reqs ++ [.core f.src (BitVec.ofNat 4 q)] })

/-- Serve CRUN: the program starts, or its completion says that it does not (R261). -/
def State.serveCrun (s : State) (f : Flight) (desc budget : Word) : State :=
  let n := fld desc 5 0
  let q := fld desc 19 16
  let t := s.land f
  let no := fun gen : Nat => t.engineSend f.ctx n f.src q [0x14, BitVec.ofNat 64 gen, 0xFFFF0003]
  match s.sheet f.ctx n with
  | none => no 0
  | some S =>
    if S.run.isSome || !S.reqs.isEmpty || decide (S.progs.length ≤ fld desc 11 8) then no S.gen
    else t.updSheet f.ctx n (fun S => { S with run := some { prog := fld desc 11 8, src := f.src, q := BitVec.ofNat 4 q, budget := if fld budget 31 0 = 0 then none else some (fld budget 31 0), node := 0, waves := 0, waiting := false } })

/-- An engine port serves CWAVE, CRUN or CWAIT k; the table has no row for this, it is a move of its own. -/
def State.serveRequest (s : State) (k : Nat) : State :=
  match s.flight k with
  | none => s
  | some f =>
    if !(s.ready f && s.engineRuns f.ctx) then s
    else match f.body with
    | .cwave desc => s.serveCwave f desc
    | .crun desc budget => s.serveCrun f desc budget
    | .cwait w fr q =>
      let t := (s.land f).updCtx f.ctx (fun C => { C with
        waits := C.waits ++ [{ src := f.src, frond := fr, q := q, sheet := fld w 5 0, gen := fld w 63 16 }] })
      match s.sheet f.ctx (fld w 5 0) with
      | some S => t.fireWaits f.ctx (fld w 5 0) S.gen
      | none => t
    | _ => s

/-! ### Issue of the stalling forms (R252) -/

/-- Must a request of the executing element to a sheet's engine wait: an earlier posted write, or a message that a FENCE
orders before it, has not ended (R126, R192)? -/
def State.engineBusy (s : State) (n : Nat) : Bool :=
  (s.afterOf s.cur (some (enginePort (n / 32))) (.cwave (BitVec.ofNat 64 n))).any (fun i => (s.flight i).isSome)

def recWord (bs : List Byte) (i : Nat) : Word := leWord ((bs.drop (8 * i)).take 8)

/-- Read a record at a local address (R254, R332). -/
def readRecord (s : State) (a : Word) (n align : Nat) : State × Except Flt (List Byte) :=
  loadBytes s { aps := [0], rd := true, align := align } a n

/-- Is a buffer address of a cell well formed, and does the value fit (R232)? -/
def bufOk (home : EId) (buf : Word) (size : Nat) : Bool :=
  if isMemCore home then
    apOf buf == 8 && ptagOf buf == 0 && decide (fld buf 55 52 = 0) && decide (fld buf 5 0 = 0) && decide (fld buf 51 0 + size ≤ 2 ^ 52)
  else decide (fld buf 63 16 = 0) && decide (fld buf 5 0 = 0) && decide (fld buf 15 0 + size ≤ 0x10000)

/-- The doubleword of a cell record that sets a reserved bit (R70). -/
def recordReserved (r : Nat → Word) : Option Nat :=
  if fld (r 0) 31 22 ≠ 0 then some 0
  else if fld (r 1) 31 24 ≠ 0 ∨ fld (r 1) 63 48 ≠ 0 then some 1
  else if r 7 ≠ 0 then some 7
  else none

/-- The first field of a record that CDEF refuses: its doubleword (R254). -/
def defineFault (C : Ctx) (r : Nat → Word) : Option Nat :=
  let home := fld (r 2) 47 32
  let size := fld (r 0) 47 32 * fld (r 0) 63 48 * fmtBytes (fld (r 1) 7 0)
  match recordReserved r with
  | some i => some i
  | none =>
    if fld (r 0) 47 32 = 0 ∨ fld (r 0) 63 48 = 0 then some 0
    else if !fmtOk (fld (r 1) 7 0) then some 1
    else if apOf (r 2) != 2 || fld (r 2) 59 48 != 0 || fld (r 2) 31 0 != 0 || !isElem home || !C.owns home then some 2
    else if !bufOk home (r 3) size then some 3
    else if !bufOk home (r 4) size then some 4
    else if fld (r 3) 51 0 < fld (r 4) 51 0 + size ∧ fld (r 4) 51 0 < fld (r 3) 51 0 + size then some 4
    else if (if isMemCore home then 2 ^ 31 else 16384) < size then some 0
    else none

/-- Define a cell of a record (R254). -/
def State.defineCell (s : State) (ctx : Nat) (r : Nat → Word) : State :=
  let n := fld (r 0) 21 16
  let c : CellEntry := {
    rows := fld (r 0) 47 32, cols := fld (r 0) 63 48, fmt := BitVec.ofNat 8 (fld (r 1) 7 0), home := fld (r 2) 47 32, buf0 := r 3,
    buf1 := r 4, q := 0, entry := 0xFFFF, lag := 0, prec := [], state := .fresh, inWave := false, next := false, wpend := false,
    wtaken := false, cur := false, flipGen := 0 }
  let S := (s.sheet ctx n).getD Sheet.blank
  (s.updCtx ctx (fun C =>
    let S := (tget C.sheets n).getD Sheet.blank
    { C with sheets := tset C.sheets n { S with cells := tset S.cells (fld (r 0) 15 0) c } })).fireWaits ctx n S.gen

def execCdef (d a : Reg) (s : State) : Host.Outcome State Fault Refusal :=
  withAct s (fun A =>
    let at' := A.reg a
    match readRecord s at' 64 8 with
    | (t, .error f) => finish (t, some f)
    | (t, .ok bs) =>
      let r := recWord bs
      let C := (s.ctxAt s.cur).getD (Ctx.blank [] [])
      match defineFault C r with
      | some i => finish (t, some { code := 0x40, faddr := at', extra := r i })
      | none =>
        let n := fld (r 0) 21 16
        if s.engineBusy n then stall t
        else if (((s.sheet s.ctxNo n).bind (·.cell (fld (r 0) 15 0))).isSome) then finish (t, some { code := 0x43, faddr := 0, extra := 1 })
        else if 65536 ≤ s.cellCount (n / 32) then retire t (A.setReg d 2) 4
        else retire (t.defineCell s.ctxNo r) (A.setReg d 0) 4)

/-- The doubleword of a record that a binding refuses (R256). -/
def bindFault (r : Nat → Word) : Option Nat :=
  let n := fld (r 1) 15 12
  let entry := fld (r 1) 47 32
  let prec := fun i => fld (r (5 + i / 4)) (16 * (i % 4) + 15) (16 * (i % 4))
  if entry % 2 = 1 ∧ entry ≠ 0xFFFF then some 1
  else if 8 < n then some 1
  else if fld (r 1) 23 16 / 2 ^ n ≠ 0 then some 1
  else match (List.range 8).find? (fun i => decide (n ≤ i) && prec i != 0) with
    | some i => some (5 + i / 4)
    | none => if entry = 0xFFFF ∧ n ≠ 0 then some 1 else recordReserved r

/-- The report descriptor is valid (R247). -/
def repOk (x : Word) : Bool := decide (fld x 5 0 = 0) && decide (fld x 63 20 = 0)

/-- The edit that a record and a report descriptor ask for. -/
def editOf (s : State) (A : Act) (op : Nat) (r : Nat → Word) (desc : Word) : Edit :=
  let n := fld (r 1) 15 12
  { src := s.cur, op := op, cell := fld (r 0) 15 0, q := BitVec.ofNat 4 (fld (r 1) 11 8), entry := BitVec.ofNat 16 (fld (r 1) 47 32),
    lag := BitVec.ofNat 8 (fld (r 1) 23 16),
    prec := (List.range n).map (fun i => fld (r (5 + i / 4)) (16 * (i % 4) + 15) (16 * (i % 4))), desc := desc, org := s.origin A }

/-- The engine accepts an edit: it is refused, queued or applied (R245, R255, R256). -/
def submitEdit (s : State) (A : Act) (d : Reg) (n : Nat) (e : Edit) : Host.Outcome State Fault Refusal :=
  let rep := BitVec.ofNat 64 (fld e.desc 15 0)
  if s.engineBusy n then stall s
  else match s.sheet s.ctxNo n with
  | none => faultNow s 0x43 0 2
  | some S =>
    let k := S.editKind e.op e.cell
    if k ≠ 0 then faultNow s 0x43 0 (BitVec.ofNat 64 k)
    else if 64 ≤ S.edits.length then retire s (A.setReg d 2) 4
    else if S.wave.isSome then retire (s.updSheet s.ctxNo n (fun S => { S with edits := S.edits ++ [e] })) (A.setReg d 1) 4
    else
      let (t, status, cyc) := s.applyEdit s.ctxNo n e false
      let t1 := t.writeReport s.ctxNo n e S.gen status cyc
      if status = 1 then finish (t1, some { code := 0x41, faddr := rep, extra := cellWordOf n e.cell })
      else retire t1 (A.setReg d 0) 4

/-- CBIND and CREBIND up to the engine. -/
def bindEdit (s : State) (d a b : Reg) (op : Nat) : Host.Outcome State Fault Refusal :=
  withAct s (fun A =>
    let at' := A.reg a
    let desc := A.reg b
    match readRecord s at' 64 8 with
    | (t, .error f) => finish (t, some f)
    | (t, .ok bs) =>
      let r := recWord bs
      match bindFault r with
      | some i => finish (t, some { code := 0x40, faddr := at', extra := r i })
      | none =>
        if !repOk desc then finish (t, some { code := 0x40, faddr := 0, extra := desc })
        else if touchesArea t s.cur (.own (fld desc 15 0)) 64 then
          finish (t, some { code := 0x08, faddr := BitVec.ofNat 64 (fld desc 15 0), extra := 0 })
        else submitEdit t A d (fld (r 0) 21 16) (editOf s A op r desc))

def execCbind (d a b : Reg) (s : State) := bindEdit s d a b 1
def execCrebind (d a b : Reg) (s : State) := bindEdit s d a b 2

/-- A cell word is valid (R230). -/
def cellWordOk (x : Word) : Bool := decide (fld x 15 6 = 0) && decide (fld x 63 32 = 0)

def execCdrop (d a b : Reg) (s : State) : Host.Outcome State Fault Refusal :=
  withAct s (fun A =>
    let x := A.reg a
    let desc := A.reg b
    if !cellWordOk x then faultNow s 0x40 0 x
    else if !repOk desc then faultNow s 0x40 0 desc
    else
      let e : Edit := {
        src := s.cur, op := 3, cell := fld x 31 16, q := 0, entry := 0xFFFF, lag := 0, prec := [], desc := desc, org := s.origin A }
      submitEdit s A d (fld x 5 0) e)

/-! ### The posted forms (R252, R257–R262) -/

def execCrd (d a b : Reg) (s : State) : Host.Outcome State Fault Refusal :=
  withAct s (fun A =>
    let la := A.reg a
    let desc := A.reg b
    match readRecord s la 24 8 with
    | (t, .error f) => finish (t, some f)
    | (t, .ok bs) =>
      let head := recWord bs 0
      let n := fld head 11 8
      let cell := fun i => fld (recWord bs (1 + i / 4)) (16 * (i % 4) + 15) (16 * (i % 4))
      if fld head 7 6 ≠ 0 ∨ fld head 63 12 ≠ 0 ∨ n = 0 ∨ 8 < n then finish (t, some { code := 0x40, faddr := la, extra := head })
      else match (List.range 8).find? (fun i => decide (n ≤ i) && cell i != 0) with
      | some i => finish (t, some { code := 0x40, faddr := la, extra := recWord bs (1 + i / 4) })
      | none =>
        if fld desc 63 36 ≠ 0 ∨ fld desc 5 0 ≠ 0 ∨ 0x10000 < fld desc 15 0 + fld desc 31 16 then
          finish (t, some { code := 0x40, faddr := 0, extra := desc })
        else match ownDest t (fld desc 15 0) (fld desc 31 16) with
        | some f => finish (t, some f)
        | none =>
          if (t.elem t.cur).avail < 1 then retire t (A.setReg d 1) 4
          else
            let body : Body := .crd head ((List.range n).map cell) desc
            retire ((t.takeUnit 1).inject t.ctxNo t.cur (some (enginePort (fld head 5 0 / 32))) body) (A.setReg d 0) 4)

def execCwr (d a b : Reg) (s : State) : Host.Outcome State Fault Refusal :=
  withAct s (fun A =>
    let x := A.reg a
    let desc := A.reg b
    let off := fld desc 15 0
    let len := fld desc 28 16
    if !cellWordOk x then faultNow s 0x40 0 x
    else if fld desc 31 29 ≠ 0 ∨ len = 0 ∨ 4096 < len ∨ 0x10000 < off + len then faultNow s 0x40 0 desc
    else match ownCheck s off len with
    | some f => finish (s, some f)
    | none =>
      if (s.elem s.cur).avail < 1 then retire s (A.setReg d 1) 4
      else match ownSource s off len with
      | .error f => finish (s, some f)
      | .ok bs =>
        retire ((s.takeUnit 1).inject s.ctxNo s.cur (some (enginePort (fld x 5 0 / 32))) (.cwr x (fld desc 63 32) bs (s.origin A)))
          (A.setReg d 0) 4)

def execCdone (a b : Reg) (s : State) : Host.Outcome State Fault Refusal :=
  withAct s (fun A =>
    let x := A.reg a
    if fld x 15 6 ≠ 0 then faultNow s 0x40 0 x
    else retire (s.inject s.ctxNo s.cur (some (enginePort (fld x 5 0 / 32))) (.cdone x (A.reg b) (s.origin A))) A 4)

def execCwave (a : Reg) (s : State) : Host.Outcome State Fault Refusal :=
  withAct s (fun A =>
    let x := A.reg a
    if fld x 7 6 ≠ 0 ∨ 1 < fld x 9 8 ∨ fld x 15 10 ≠ 0 ∨ fld x 63 20 ≠ 0 then faultNow s 0x40 0 x
    else retire (s.inject s.ctxNo s.cur (some (enginePort (fld x 5 0 / 32))) (.cwave x)) A 4)

def execCrun (a b : Reg) (s : State) : Host.Outcome State Fault Refusal :=
  withAct s (fun A =>
    let x := A.reg a
    let y := A.reg b
    if fld x 7 6 ≠ 0 ∨ fld x 15 12 ≠ 0 ∨ fld x 63 20 ≠ 0 then faultNow s 0x40 0 x
    else if fld y 63 32 ≠ 0 then faultNow s 0x40 0 y
    else retire (s.inject s.ctxNo s.cur (some (enginePort (fld x 5 0 / 32))) (.crun x y)) A 4)

def execCwait (a b : Reg) (s : State) : Host.Outcome State Fault Refusal :=
  withAct s (fun A =>
    let x := A.reg a
    let y := A.reg b
    let q := descQ x
    let c := s.chan s.cur A.frond q
    if !descOk x || descKind x != 0 || c.bind.isNone || c.cont.isSome then faultNow s 0x40 0 x
    else if fld y 15 6 ≠ 0 then faultNow s 0x40 0 y
    else
      let s1 := armSlot s A q (descEntry x) (.cwait (BitVec.ofNat 64 (fld y 5 0)) (BitVec.ofNat 64 (fld y 63 16)))
      retire (s1.inject s.ctxNo s.cur (some (enginePort (fld y 5 0 / 32))) (.cwait y A.frond (BitVec.ofNat 4 q))) A 4)

/-! ### Status (R263) -/

def CellState.num : CellState → Nat
  | .fresh => 1 | .stale => 2 | .evaluating => 3 | .faulted => 4

/-- The state word of a cell. -/
def Sheet.cellStat (S : Sheet) (e : Nat) : Word :=
  match S.cell e with
  | none => 0
  | some c => BitVec.ofNat 64 (c.state.num + (if c.inWave then 2 ^ 3 else 0) + (if c.next then 2 ^ 4 else 0) +
      (if c.wpend then 2 ^ 5 else 0) + (if c.wtaken then 2 ^ 6 else 0) +
      (if c.prec.any (fun p => (S.cell p).isNone) then 2 ^ 7 else 0) +
      (if c.isInput then 0 else if c.isFormula then 2 ^ 8 else 2 ^ 9) + (if c.cur then 2 ^ 10 else 0) +
      S.rank e % 2 ^ 16 * 2 ^ 16 + c.flipGen % 2 ^ 32 * 2 ^ 32)

/-- The state word of a sheet. -/
def Sheet.stat (S : Sheet) : Word :=
  BitVec.ofNat 64 (S.gen % 2 ^ 48 + (if S.wave.isSome then 2 ^ 48 else 0) + (if S.run.isSome then 2 ^ 49 else 0) +
    S.queued % 32 * 2 ^ 50 + S.edits.length % 128 * 2 ^ 56 + 2 ^ 63)

def execCstat (d a b : Reg) (s : State) : Host.Outcome State Fault Refusal :=
  withAct s (fun A =>
    let x := A.reg a
    let whole := decide (b.toNat = 1)
    if (if whole then decide (fld x 63 6 ≠ 0) else !cellWordOk x) then faultNow s 0x40 0 x
    else if s.engineBusy (fld x 5 0) then stall s
    else
      let v := match s.sheet s.ctxNo (fld x 5 0) with
        | none => 0
        | some S => if whole then S.stat else S.cellStat (fld x 31 16)
      retire s (A.setReg d v) 4)

end Sys2Proof.Machine
end

