-- ==== Sys2Proof/Machine/Streams.lean ====
section
/-!
DEFINITION. Duplex streams: major 0x13 and its events (R309–R345).
-/
namespace Sys2Proof.Machine

/-! ### Checks and waiting (R331, R332) -/

/-- Is a stream number in a context's slice (R309)? -/
def Ctx.inSlice (C : Ctx) (sn : Nat) : Bool := decide (C.sliceFirst ≤ sn) && decide (sn < C.sliceFirst + C.sliceCount)

/-- The open stream of a stream word, after checks 1 and 2 of R332. -/
def streamAt (s : State) (x : Word) : Except Flt (Nat × Stream) :=
  let sn := fld x 12 0
  if fld x 63 13 ≠ 0 then .error { code := 0x50, faddr := 0, extra := x }
  else match s.ctxAt s.cur, s.stream sn with
  | some C, some st =>
    if C.inSlice sn && st.ctx == s.ctxNo then .ok (sn, st) else .error { code := 0x51, faddr := 0, extra := x }
  | _, _ => .error { code := 0x51, faddr := 0, extra := x }

/-- The same for an owner form, with check 3. -/
def ownedAt (s : State) (x : Word) : Except Flt (Nat × Stream) :=
  match streamAt s x with
  | .error f => .error f
  | .ok (sn, st) => if st.owner = s.cur then .ok (sn, st) else .error { code := 0x52, faddr := 0, extra := x }

/-- Must a request to a sequencer wait: posted writes and fenced messages before it (R126, R192)? -/
def State.streamBusy (s : State) (st : Stream) : Bool := s.engineBusy st.tmpl.sheet

/-- Is an input write of the executing element to a sheet still on its way (R318, R319)? -/
def State.cwrsInFlight (s : State) (n : Nat) : Bool :=
  s.fabric.any (fun f => f.src == s.cur && (match f.body with | .cwr cell _ _ _ => fld cell 5 0 == n | _ => false))

/-- A form that only needs an open stream. -/
def withStream (s : State) (a : Reg) (k : Act → Nat → Stream → Host.Outcome State Fault Refusal) :
    Host.Outcome State Fault Refusal :=
  withAct s (fun A =>
    match streamAt s (A.reg a) with
    | .error f => finish (s, some f)
    | .ok (sn, st) => k A sn st)

/-- A form of the owner. -/
def withOwned (s : State) (a : Reg) (k : Act → Nat → Stream → Host.Outcome State Fault Refusal) :
    Host.Outcome State Fault Refusal :=
  withAct s (fun A =>
    match ownedAt s (A.reg a) with
    | .error f => finish (s, some f)
    | .ok (sn, st) => k A sn st)

/-- The code 0x50 fault about a word. -/
def bad50 (s : State) (faddr w : Word) : Host.Outcome State Fault Refusal := faultNow s 0x50 faddr w

/-- Is the request queue of a stream's sheet full (R260)? One of a sheet that exists no longer counts as full (log 34). -/
def State.sheetFull (s : State) (ctx n : Nat) : Bool :=
  match s.sheet ctx n with
  | some S => decide (16 ≤ S.queued)
  | none => true

/-- Request a wave for a stream. -/
def State.requestWave (s : State) (sn : Nat) (st : Stream) : State :=
  s.updSheet st.ctx st.tmpl.sheet (fun S => { S with reqs := S.reqs ++ [.stream sn] })

/-! ### Templates (R310) -/

/-- The cells that a template names. -/
def Template.cells (t : Template) : List Nat :=
  (List.range t.kvn).map (t.kve + ·) ++ [t.stateCell] ++ (List.range t.ckn).map (t.cke + ·)

/-- Do the cells of a template meet R310 for a stream that is to be opened as sn? -/
def State.templateOk (s : State) (ctx sn : Nat) (t : Template) : Bool :=
  match s.sheet ctx t.sheet with
  | none => false
  | some S =>
    t.cells.all (fun e => match S.cell e with | some c => c.isInput | none => false) &&
    (List.range t.kvn).all (fun i => (S.cell (t.kve + i)).map (·.rows) == (S.cell t.kve).map (·.rows)) &&
    (List.range t.ckn).all (fun i =>
      (S.cell (t.cke + i)).map (fun c => (c.rows, c.cols, c.fmt)) == (S.cell t.stateCell).map (fun c => (c.rows, c.cols, c.fmt))) &&
    !s.streams.any (fun p => p.1 != sn && p.2.ctx == ctx && p.2.tmpl.sheet == t.sheet && p.2.tmpl.cells.any t.cells.contains)

/-! ### Opening and closing (R333, R334) -/

def Stream.opened (ctx : Nat) (t : Template) (owner : EId) (q : BitVec 4) (base : Nat) : Stream :=
  { ctx := ctx, tmpl := t, owner := owner, q := q, base := base, g := 0, p := 0, f := 0, c := 0, r := 0, seq := 0,
    cgen := 0, phase := .opening, ck := [], ckPend := [], queue := [], mask := none, prov := none, stepMode := 0,
    posted := [], fed := 0, isFeed := false, kept := [], trunc := none, w := 0, ovf := false }

/-- A stream's owner: an element, or coordinates that no position has. -/
def noPosition : EId := 65535

/-- Open a stream: W := 0 at B, the copy of STATE into slot 0, and a wave of the sheet. -/
def State.openStream (s : State) (sn : Nat) (st : Stream) : State :=
  let fails := s.hostFails (st.hostAt 0) 8
  let s1 := if fails then s.reportRing sn st
    else s.hostWrite (st.hostAt 0) (wordBytes 0)
  let st1 := { st with ovf := fails }
  ((s1.setStream sn st1).copyState sn st1 0).requestWave sn st1

def execSopen (d a : Reg) (s : State) : Host.Outcome State Fault Refusal :=
  withAct s (fun A =>
    let at' := A.reg a
    match readRecord s at' 32 8 with
    | (t, .error f) => finish (t, some f)
    | (t, .ok bs) =>
      let r := recWord bs
      let sn := fld (r 0) 12 0
      let tid := fld (r 0) 31 16
      if fld (r 0) 15 13 ≠ 0 ∨ fld (r 0) 63 32 ≠ 0 then bad50 t at' (r 0)
      else if apOf (r 2) ≠ 9 ∨ fld (r 2) 5 0 ≠ 0 then bad50 t at' (r 2)
      else if r 3 ≠ 0 then bad50 t at' (r 3)
      else match msgTarget t.cur (r 1) with
      | .error f => finish (t, some f)
      | .ok (dst, q) =>
        match t.ctxAt t.cur with
        | none => faultNow t 0x51 0 (BitVec.ofNat 64 sn)
        | some C =>
          if !C.inSlice sn then faultNow t 0x51 0 (BitVec.ofNat 64 sn)
          else match tget C.templates tid with
          | none => faultNow t 0x53 0 (BitVec.ofNat 64 tid)
          | some T =>
            if !t.templateOk t.ctxNo sn T then faultNow t 0x53 0 (BitVec.ofNat 64 tid)
            else if t.engineBusy T.sheet then stall t
            else if (t.stream sn).isSome then retire t (A.setReg d 0x8000000000000001) 4
            else
              let st := Stream.opened t.ctxNo T (dst.getD noPosition) q (fld (r 2) 55 0)
              if t.sheetFull t.ctxNo T.sheet || !t.canCopy st 0 then retire t (A.setReg d 0x8000000000000002) 4
              else retire (t.openStream sn st) (A.setReg d (BitVec.ofNat 64 sn)) 4)

def execSclose (d a : Reg) (s : State) : Host.Outcome State Fault Refusal :=
  withStream s a (fun A sn st =>
    if s.streamBusy st then stall s
    else if st.phase = .idle ∨ st.phase = .refeed then retire { s with streams := tdel s.streams sn } (A.setReg d 0) 4
    else retire s (A.setReg d 1) 4)

/-! ### Steps (R322, R335, R336) -/

/-- The step word. -/
def stepWord (status mode g : Nat) : Word := BitVec.ofNat 64 (status + mode * 2 ^ 4 + g % 2 ^ 32 * 2 ^ 32)

/-- How SGEN answers for the arming (R322): a mode, or none while the mask is pending. -/
def State.genMode (s : State) (st : Stream) : Option Nat :=
  match st.mask with
  | none => some 0
  | some m =>
    if s.maskReady st.ctx m then some 1
    else if m.deadline.toNat ≤ s.time % 2 ^ 64 then some 2
    else none

/-- Open a step in a mode. -/
def Stream.openStep (st : Stream) (mode : Nat) : Stream :=
  { st with
    phase := .step
    stepMode := mode
    mask := none
    prov := match st.mask with
      | some m => if mode = 2 then some { v := st.g, n := 0, committed := false, found := false, mask := m } else st.prov
      | none => st.prov }

/-- SGEN. One that answers status 3 leaves an armed mask as it is (log 33). -/
def execSgen (d a : Reg) (s : State) : Host.Outcome State Fault Refusal :=
  withOwned s a (fun A sn st =>
    if s.streamBusy st then stall s
    else if st.phase ≠ .idle then retire s (A.setReg d (stepWord 1 0 st.g)) 4
    else match s.genMode st with
    | none => retire s (A.setReg d (stepWord 2 0 st.g)) 4
    | some m =>
      if s.capacity st ≤ st.g then retire s (A.setReg d (stepWord 3 0 st.g)) 4
      else retire (s.setStream sn (st.openStep m)) (A.setReg d (stepWord 0 m st.g)) 4)

/-- The sequence stamp rises by one. -/
def Stream.stamp (st : Stream) : Stream := { st with seq := (st.seq + 1) % 2 ^ 32 }

/-- A step or chunk is discarded: the queue is applied (R313, R314). The caller has stamped a discarded step. -/
def State.discardStep (s : State) (sn : Nat) (st : Stream) : State := (s.setStream sn st).boundary sn true

/-- A step or chunk is accepted: the queued events below it are applied, its wave requested (R313, R328). -/
def State.acceptStep (s : State) (sn : Nat) (st : Stream) (g : Stream → Stream) : State :=
  let s1 := (s.setStream sn st.stamp).boundary sn false
  match s1.stream sn with
  | some st1 => (s1.setStream sn { g st1 with phase := .committing }).requestWave sn st1
  | none => s1

/-- n32 values of bytes. -/
def halfWords (bs : List Byte) : List (BitVec 32) :=
  (List.range (bs.length / 4)).map (fun i => BitVec.ofNat 32 (leNat ((bs.drop (4 * i)).take 4)))

/-- The tokens of SPOST, read as loads; those that it captured at its issue, if it has waited since (R336). -/
def readTokens (s : State) (off n : Nat) : State × Except Flt (List Byte) :=
  match (s.elem s.cur).tokens with
  | some bs => (s, .ok bs)
  | none => if n = 0 then (s, .ok []) else loadBytes s { aps := [0], rd := true, piece := 4 } (BitVec.ofNat 64 off) (4 * n)

/-- SPOST waits with the tokens that it has captured; a read that faults is made again when SPOST is served, where the checks
before it come first. -/
def stallTokens (s : State) (off n : Nat) : Host.Outcome State Fault Refusal :=
  match readTokens s off n with
  | (t, .ok bs) => stall (t.updElem t.cur (fun E => { E with tokens := some bs }))
  | (_, .error _) => stall s

def execSpost (d a b : Reg) (s : State) : Host.Outcome State Fault Refusal :=
  withOwned s a (fun A sn st =>
    let x := A.reg b
    let off := fld x 15 0
    let n := fld x 20 16
    if fld x 63 21 ≠ 0 ∨ 16 < n ∨ off % 4 ≠ 0 ∨ 0x10000 < off + 4 * n then bad50 s 0 x
    else if s.streamBusy st || s.cwrsInFlight st.tmpl.sheet then stallTokens s off n
    else if st.phase ≠ .step then faultNow s 0x54 0 st.word3
    else if s.capacity st < st.g + n then faultNow s 0x55 0 (BitVec.ofNat 64 st.g)
    else match readTokens s off n with
    | (t, .error f) => finish (t, some f)
    | (t, .ok bs) =>
      if st.queue.any st.truncates then retire (t.discardStep sn st.stamp) (A.setReg d 0x100) 4
      else if t.ringFree st < 2 * (8 + 4 * (n + st.g - st.c)) + 64 then retire t (A.setReg d 2) 4
      else if t.sheetFull st.ctx st.tmpl.sheet then retire t (A.setReg d 1) 4
      else retire (t.acceptStep sn st (fun st => { st with posted := halfWords bs, isFeed := false })) (A.setReg d 0) 4)

/-! ### Truncation, refeed, checkpoints and the floor (R337–R339, R343) -/

def execStrunc (d a b : Reg) (s : State) : Host.Outcome State Fault Refusal :=
  withOwned s a (fun A sn st =>
    let x := A.reg b
    let pos := fld x 31 0
    if fld x 63 32 ≠ 0 then bad50 s 0 x
    else if s.streamBusy st then stall s
    else if st.phase ≠ .idle then retire s (A.setReg d 1) 4
    else if pos < st.f ∨ st.g < pos then retire s (A.setReg d 2) 4
    else if st.prov.isSome then retire s (A.setReg d 3) 4
    else retire (s.truncate sn st pos [] 4 false) (A.setReg d 0) 4)

def execSrefeed (d a b : Reg) (s : State) : Host.Outcome State Fault Refusal :=
  withOwned s a (fun A sn st =>
    let x := A.reg b
    let n := fld x 31 0
    if fld x 63 32 ≠ 0 then bad50 s 0 x
    else if s.streamBusy st || s.cwrsInFlight st.tmpl.sheet then stall s
    else if st.phase ≠ .refeed then faultNow s 0x54 0 st.word3
    else if n = 0 ∨ st.g - st.r < n then faultNow s 0x55 0 (BitVec.ofNat 64 st.r)
    else if st.queue.any st.truncates then retire (s.discardStep sn st) (A.setReg d 0x100) 4
    else if s.sheetFull st.ctx st.tmpl.sheet then retire s (A.setReg d 1) 4
    else retire (s.acceptStep sn st (fun st => { st with fed := n, isFeed := true })) (A.setReg d 0) 4)

/-- The checkpoint slot of position g (R320). -/
def Stream.ckSlot (st : Stream) : Nat := st.g / st.tmpl.kint % st.tmpl.ckn

def execSckpt (d a : Reg) (s : State) : Host.Outcome State Fault Refusal :=
  withOwned s a (fun A sn st =>
    let i := st.ckSlot
    if s.streamBusy st then stall s
    else if st.phase ≠ .idle then retire s (A.setReg d 1) 4
    else if st.g % st.tmpl.kint ≠ 0 then retire s (A.setReg d 2) 4
    else if (st.bestSlot st.f).map Prod.fst = some i then retire s (A.setReg d 3) 4
    else if !s.canCopy st i then retire s (A.setReg d 4) 4
    else retire (s.copyState sn st i) (A.setReg d 0) 4)

/-- The highest floor: p, or what the truncation in flight leaves of p, so that f ≤ p at its commit too (R311, R321). -/
def Stream.floorBound (st : Stream) : Nat := match st.trunc with | some t => Nat.min st.p t.s | none => st.p

def execSfloor (d a b : Reg) (s : State) : Host.Outcome State Fault Refusal :=
  withStream s a (fun A sn st =>
    let x := A.reg b
    if fld x 63 32 ≠ 0 then bad50 s 0 x
    else if s.streamBusy st then stall s
    else if st.floorBound < fld x 31 0 then retire s (A.setReg d 1) 4
    else retire (s.setStream sn { st with f := Nat.max st.f (fld x 31 0) }) (A.setReg d 0) 4)

/-! ### Masks (R340) -/

/-- SMASK: a check counts as pending from SGEN on, while the provisional step is open or committing (log 33). -/
def execSmask (d a b : Reg) (s : State) : Host.Outcome State Fault Refusal :=
  withOwned s a (fun A sn st =>
    let at' := A.reg b
    match readRecord s at' 24 8 with
    | (t, .error f) => finish (t, some f)
    | (t, .ok bs) =>
      let r := recWord bs
      if !cellWordOk (r 0) then bad50 t at' (r 0)
      else if fld (r 1) 63 48 ≠ 0 then bad50 t at' (r 1)
      else if t.streamBusy st then stall t
      else if st.prov.isSome then retire t (A.setReg d 1) 4
      else
        let m : MaskArm := { sheet := fld (r 0) 5 0, cell := fld (r 0) 31 16, gen := fld (r 1) 47 0, deadline := r 2 }
        retire (t.setStream sn { st with mask := some m }) (A.setReg d 0) 4)

/-! ### Frames (R315, R316, R341, R412) -/

/-- The doubleword of a frame that R315 refuses. -/
def frameFault (r : Nat → Word) : Option Nat :=
  let n := fld (r 0) 35 32
  if fld (r 0) 63 37 ≠ 0 ∨ 8 < n ∨ ((r 0).getLsbD 36 = true ∧ n ≠ 0) then some 0
  else match (List.range 8).find? (fun j => decide (n ≤ j) && decide (fld (r (1 + j / 2)) (32 * (j % 2) + 31) (32 * (j % 2)) ≠ 0)) with
    | some j => some (1 + j / 2)
    | none => [5, 6, 7].find? (fun i => decide (r i ≠ 0))

/-- What a frame asks for. -/
def frameEvent (r : Nat → Word) : StreamEventKind :=
  .frame (fld (r 0) 31 0) ((r 0).getLsbD 36)
    ((List.range (fld (r 0) 35 32)).map (fun j => BitVec.ofNat 32 (fld (r (1 + j / 2)) (32 * (j % 2) + 31) (32 * (j % 2)))))

/-- Frames in a stream's queue. -/
def Stream.frames (st : Stream) : Nat :=
  (st.queue.filter (fun e => match e.kind with | .frame _ _ _ => true | _ => false)).length

/-- Accept a frame: it is stamped and queued; in IDLE it is applied at once. -/
def State.acceptFrame (s : State) (sn : Nat) (st : Stream) (k : StreamEventKind) : State :=
  let st1 := st.stamp
  let s1 := s.setStream sn { st1 with queue := st1.queue ++ [{ seq := st1.seq, kind := k }] }
  if st.phase = .idle then s1.boundary sn false else s1

def execSframe (d a b : Reg) (s : State) : Host.Outcome State Fault Refusal :=
  withStream s a (fun A sn st =>
    let at' := A.reg b
    match readRecord s at' 64 64 with
    | (t, .error f) => finish (t, some f)
    | (t, .ok bs) =>
      let r := recWord bs
      match frameFault r with
      | some i => bad50 t at' (r i)
      | none =>
        if t.streamBusy st then stall t
        else if st.tmpl.fq ≤ st.frames then retire t (A.setReg d 1) 4
        else retire (t.acceptFrame sn st (frameEvent r)) (A.setReg d 0) 4)

/-! ### Status (R342) -/

/-- The words that SSTAT reads. -/
def Stream.stat (st : Stream) (b : Nat) : Word :=
  match b with
  | 0 => BitVec.ofNat 64 (st.g + st.c * 2 ^ 32)
  | 1 => BitVec.ofNat 64 (st.p + st.f * 2 ^ 32)
  | 2 => BitVec.ofNat 64 (st.r + st.seq * 2 ^ 32)
  | _ => st.word3

/-- SSTAT. A stream number outside the context's slice, whose check R332 skips, reads zero as a CLOSED stream does (log 33). -/
def execSstat (d a b : Reg) (s : State) : Host.Outcome State Fault Refusal :=
  withAct s (fun A =>
    let x := A.reg a
    if fld x 63 13 ≠ 0 then bad50 s 0 x
    else match streamAt s x with
    | .error _ => retire s (A.setReg d 0) 4
    | .ok (sn, st) =>
      if s.streamBusy st then stall s
      else
        let t := if b.toNat = 4 then s.setStream sn { st with ovf := false } else s
        retire t (A.setReg d (st.stat b.toNat)) 4)

/-! ### Events at a boundary (R313, R316, R323) -/

/-- Apply the event at the head of a stream's queue, if it is of the kind asked for and the stream is IDLE. A commit, an acceptance
and a frame that meets an IDLE stream apply what is queued in their own step. -/
def State.drainOne (s : State) (sn : Nat) (violation : Bool) : State :=
  match s.stream sn with
  | none => s
  | some st =>
    if st.phase ≠ .idle ∨ s.engineRuns st.ctx = false then s
    else match st.queue with
    | [] => s
    | e :: _ => match e.kind with
      | .frame _ _ _ => if violation then s else s.applyEvents sn false 1
      | .violation _ => if violation then s.applyEvents sn false 1 else s

/-- FRAME_APPLY: the frame at the head of the queue is applied at a boundary (R316). -/
def execFrameApply (sn : Nat) (s : State) : Host.Outcome State Fault Refusal := .next (s.drainOne sn false)

/-- MASK_RESOLUTION_APPLY: the violation at the head of the queue is applied at a boundary (R323). -/
def execMaskResolutionApply (sn : Nat) (s : State) : Host.Outcome State Fault Refusal := .next (s.drainOne sn true)

end Sys2Proof.Machine
end

