-- ==== Sys2Proof/Machine/Fronds.lean ====
section
/-!
DEFINITION. Fronds: major 0x14, composition, and the start of activations (R86, R346–R365, R402, R403).
-/
namespace Sys2Proof.Machine

/-! ### Shapes (R346) -/

/-- The rectangles that a frond may have. -/
def frondShape (w h : Nat) : Bool := [(2, 1), (1, 2), (4, 1), (2, 2), (4, 2), (8, 2)].contains (w, h)

/-- The rectangle of a scope value for element e, if R346 admits one. -/
def frondRect (C : Ctx) (e : EId) (sc : Nat) : Option Rect :=
  let r : Option Rect :=
    if sc = 1 then some { die := eDie e, x0 := eX e / 4 * 4, y0 := eY e / 2 * 2, w := 4, h := 2 }
    else if sc < 4 then none
    else match tget C.scopes sc with
      | some S => match S.mem, S.rects with
        | false, [r] => some r
        | _, _ => none
      | none => none
  match r with
  | none => none
  | some r =>
    if frondShape r.w r.h && decide (r.x0 % Nat.min r.w 4 = 0) && decide (r.y0 % r.h = 0) &&
      r.elems.all (fun m => isCore m && C.owns m) && r.elems.contains e then some r else none

/-! ### COMPOSE (R354, R362) -/

/-- Is the element joining, composed or releasing? -/
def State.inFrond (s : State) (e : EId) : Bool := (s.frondWith e).isSome

/-- The joining frond that a COMPOSE of activation A forms. -/
def joiningFrond (A : Act) (leader : EId) (r : Rect) (sc : Nat) (binding : Word) : Frond :=
  { leader := leader, scope := sc, origin := mkE r.die r.x0 r.y0, w := r.w, h := r.h, composed := false, releasing := false, restart := none,
    binding := binding,
    regs := Vector.ofFn (fun i : Fin 32 => A.reg (BitVec.ofNat 6 i.val)), starts := 0,
    chans := Vector.replicate 16 Chan.reset, lastStart := [] }

def execCompose (d a b : Reg) (s : State) : Host.Outcome State Fault Refusal :=
  withCore (.compose d a b) s (fun A =>
    let x := A.reg a
    let sc := b.toNat
    if A.frond then faultNow s 0x63 0 0
    else if !bindFieldsOk x then faultNow s 0x60 0 x
    else match (s.ctxAt s.cur).bind (fun C => frondRect C s.cur sc) with
    | none => faultNow s 0x61 0 (BitVec.ofNat 64 sc)
    | some r =>
      if r.elems.any s.inFrond then retire s (A.setReg d 1) 4
      else if r.elems.any (fun m => decide ((s.elem m).mode = .fenced)) then retire s (A.setReg d 2) 4
      else
        let B := A.setReg d 0
        let t := s.endAct s.cur B
        .next { t with fronds := t.fronds ++ [joiningFrond B s.cur r sc x] })

/-- Start the first activation of a composed frond (R354). -/
def State.startFrond (s : State) (f : Frond) : State :=
  let e := f.leader
  let q := fld f.binding 3 0
  let b := bindingOf f.binding
  let bank := useBank (s.elem e).banks b.wp.toNat
  let A := { s.newAct e true q b true b.entry.toNat (words8 []) none with w := f.regs }
  let s1 := s.updFrond e (fun f => { f with starts := 1 })
  let s2 := s1.updElem e (fun E => { E with
    act := some A
    olds := []
    banks := bank.1
    evc := vset (if bank.2 then vset E.evc 4 (vget 0 E.evc 4 + 1) else E.evc) 6 (vget 0 E.evc 6 + 1) })
  s2.traceNote e 1 0 (some A)

/-- FROND_COMPOSED: every member of the leader's joining frond has joined; the frond is composed, its channel Q bound, and
its first activation starts as soon as the leader may start one (R354). -/
def execFrondComposed (leader : EId) (s : State) : Host.Outcome State Fault Refusal :=
  match s.fronds.find? (fun f => f.leader == leader && !f.composed && !f.releasing) with
  | none => .next s
  | some f =>
    let ok := f.members.all (fun m => (s.elem m).act.isNone && decide ((s.elem m).mode ≠ .fenced)) &&
      (match s.ctxAt leader with | some C => decide (C.switch = .running) | none => false)
    if !ok then .next s
    else
      let q := fld f.binding 3 0
      let c := { Chan.reset with bind := some (bindingOf f.binding) }
      let s1 := s.updFrond leader (fun f => { f with composed := true, chans := vset f.chans q c })
      if s1.canStart leader then .next (s1.startFrond f) else .next s1

/-- A frond activation that a fence interrupted starts again, from its last committed workspace (R359). -/
def State.restartFrond (s : State) (f : Frond) (A : Act) : State :=
  let e := f.leader
  let b : Binding := { prio := A.prio, floor := A.floor, entry := 0, wp := A.wp.setWidth 16, rsize := 0 }
  let bank := useBank (s.elem e).banks b.wp.toNat
  let A1 := s.newAct e true A.chan.toNat b A.cont A.entry.toNat A.inn A.msg
  let s1 := s.updFrond e (fun f => { f with restart := none })
  let s2 := s1.updElem e (fun E => { E with
    act := some A1
    olds := []
    banks := bank.1
    evc := vset (if bank.2 then vset E.evc 4 (vget 0 E.evc 4 + 1) else E.evc) 6 (vget 0 E.evc 6 + 1) })
  s2.traceNote e 1 0 (some A1)

/-- ACTIVATION_START: an idle element starts the activation that R86 selects, among the frond's channels if it leads one;
a composed frond's first activation is that of R354, and one that a fence interrupted starts again first (R359). -/
def execActivationStart (e : EId) (s : State) : Host.Outcome State Fault Refusal :=
  if !s.canStart e then .next s
  else match s.frondOf e with
  | some f => match f.restart with
    | some A => .next (s.restartFrond f A)
    | none => if f.starts ≠ 0 then .next ((s.startNext e true).getD s) else .next (s.startFrond f)
  | none => .next ((s.startNext e false).getD s)

/-! ### RELEASE (R363, R403) -/

/-- Does a channel hold a message or an armed continuation? -/
def Chan.holds (c : Chan) : Bool := !c.queue.isEmpty || c.cont.isSome

/-- The frond channels of a leader are dropped: what was armed in their slots is dropped with them. -/
def State.dropFrondArms (s : State) (e : EId) : State :=
  let mine := fun f : Flight => f.src == e && (match f.body with
    | .evArm _ fr _ => fr
    | .cwait _ fr _ => fr
    | _ => false)
  let t := s.updCtx ((s.ctxOf e).getD 0) (fun C => { C with
    events := tmap (fun v => { v with waiters := v.waiters.filter (fun w => !(w.frond && w.elem == e)) }) C.events
    barriers := C.barriers.map (fun b => { b with waiting := b.waiting.filter (fun w => !(w.2.1 && w.1 == e)) })
    waits := C.waits.filter (fun w => !(w.frond && w.src == e)) })
  (s.fabric.filter mine).foldl (fun s f => s.land f) t

/-- The held firings of a member's channel leave its holding queue for the slot that they fire (R356). -/
def State.fireHeld (s : State) (e : EId) (q : Nat) : State :=
  let held := (s.chan e false q).queue.filter (fun m => m.kind == .firing)
  held.foldl (fun s m => s.fireSlot e false q m.words)
    (s.updChan e false q (fun c => { c with queue := c.queue.filter (fun m => m.kind != .firing) }))

/-- The members of a frond that ends, but for its leader, have the firings that were held for them (R356). -/
def Frond.fireHeld (f : Frond) (s : State) : State :=
  (f.members.filter (· != f.leader)).foldl (fun s e => (List.range 16).foldl (fun s q => s.fireHeld e q) s) s

/-- End a frond at a RELEASE: the write-back to LWP, the digest, and the set-aside state of every member again. -/
def State.releaseFrond (s : State) (f : Frond) (A : Act) (lwp : Nat) (note : Option Nat) : State :=
  let e := f.leader
  let (s1, dg) := writeBack s A (fun i => scratchKey e (lwp + i)) lwp 65536
  let s2 := (s1.combine e A.chan.toNat dg).dropAct e
  let s3 := ({ s2 with fronds := s2.fronds.filter (fun g => g.leader != e) }).dropFrondArms e
  let s4 := f.fireHeld (match note with
    | some q => (s3.enqueue e q (plainMsg [0x40, BitVec.ofNat 64 lwp, f.word])).getD s3
    | none => s3)
  (s4.traceNote e 2 0 (some A)).stopBetween e

/-- The controller accepts a RELEASE: the cores are releasing, and the instruction stalls (R364). -/
def State.acceptRelease (s : State) : State :=
  s.updFrond s.cur (fun f => { f with composed := false, releasing := true })

/-- The releasing frond of a leader. -/
def State.releasingOf (s : State) (e : EId) : Option Frond := s.fronds.find? (fun f => f.leader == e && f.releasing)

/-- RELEASE: its answer is formed when it is first issued; with d := 0 the cores are releasing while it stalls, and the release
is complete when it is issued again (R363, R364). -/
def execRelease (d a : Reg) (s : State) : Host.Outcome State Fault Refusal :=
  withCore (.release d a) s (fun A =>
    let x := A.reg a
    let lwp := fld x 15 0
    let q := fld x 19 16
    match (if A.frond then s.releasingOf s.cur else none) with
    | some f => .next (s.releaseFrond f (A.setReg d 0) lwp (if x.getLsbD 20 then some q else none))
    | none =>
    match (if A.frond then s.frondOf s.cur else none) with
    | none => faultNow s 0x62 0 x
    | some f =>
      if fld x 63 21 ≠ 0 ∨ lwp % 256 ≠ 0 then faultNow s 0x60 0 x
      else if (List.range 16).any (fun j => j != A.chan.toNat && (vget Chan.reset f.chans j).holds) ||
          decide ((s.elem s.cur).avail < 16) || !(s.elem s.cur).mq.isEmpty then retire s (A.setReg d 1) 4
      else if x.getLsbD 20 && decide (4 ≤ (s.chan s.cur false q).queue.length) then retire s (A.setReg d 2) 4
      else stall s.acceptRelease)

/-! ### FRSTAT (R364) -/

/-- The state word of a core. -/
def State.frondStat (s : State) (t : EId) : Word :=
  match s.frondWith t with
  | none => 0
  | some f =>
    let held := if f.composed || f.releasing then (s.elem t).chans.toList.foldl (fun n c => n + c.queue.length) 0 else 0
    BitVec.ofNat 64 ((if f.composed then 2 else if f.releasing then 3 else 1) + f.index t * 2 ^ 2 + lg f.n * 2 ^ 6 + f.leader * 2 ^ 16 + Nat.min 64 held * 2 ^ 32)

/-- FRSTAT (R364): a fault of its address reports SIZE 0, and REMOTE as one of RLD does, which R160 does not list FRSTAT with (log 38). -/
def execFrstat (d a : Reg) (s : State) : Host.Outcome State Fault Refusal :=
  withCore (.frstat d a) s (fun A =>
    match remoteAt s s.cur (A.reg a) 1 false true with
    | .error f => finish (s, some f)
    | .ok pl =>
      let t := (rawOf s s.cur pl).1
      if !(s.postedTo s.cur t).isEmpty then stall s
      else retire s (A.setReg d (s.frondStat t)) 4)

end Sys2Proof.Machine
end

