-- ==== Sys2Proof/Machine/Matrix.lean ====
section
/-!
DEFINITION. The matrix unit of a sorus: major 0x11 (R266–R290) and its events.
-/
namespace Sys2Proof.Machine

/-! ### Shapes, slots, tiles (R266–R268) -/

/-- M and N of a shape (R268). -/
def shapeM (sh : BitVec 3) : Nat := match sh.toNat with | 1 => 32 | 2 => 16 | 3 => 64 | 4 => 16 | _ => 0
def shapeN (sh : BitVec 3) : Nat := match sh.toNat with | 1 => 32 | 2 => 64 | 3 => 16 | 4 => 16 | _ => 0

/-- An operand format: binary16, BF16 or binary8 (R267). -/
def operandFmt (c : Nat) : Bool := c == 3 || c == 4 || (decide (0x80 ≤ c) && fmtOk c)

/-- Element bytes of an operand format. -/
def operandBytes (c : Nat) : Nat := if 0x80 ≤ c then 1 else 2

def Slot.reset : Slot := { state := .free, owner := none, fmt := 0, releasing := false }

def State.slot (s : State) (so n : Nat) : Slot := (tget s.slots (so * 128 + n)).getD Slot.reset

/-- A slot that is FREE is unlisted. -/
def State.setSlot (s : State) (so n : Nat) (x : Slot) : State :=
  { s with slots := if x.state = .free then tdel s.slots (so * 128 + n) else tset s.slots (so * 128 + n) x }

def State.tile (s : State) (e : EId) (t : Nat) : Tile := vget Tile.blank (s.elem e).tiles t
def State.setTile (s : State) (e : EId) (t : Nat) (x : Tile) : State :=
  s.updElem e (fun E => { E with tiles := vset E.tiles t x })

/-- The member cores of an element's sorus. -/
def sorusCores (so : Nat) : List EId := (List.range 8).map (sorusMember so)

/-- Drop the bytes, and the errors, of n keys from a key on. -/
def State.zeroKeys (s : State) (key n : Nat) : State :=
  let keep := fun k => !(decide (key ≤ k) && decide (k < key + n))
  { s with mem := s.mem.filter (fun c => keep c.1), poison := s.poison.filter keep }

/-! ### Commands (R269) -/

/-- The tile that a command of a queue writes. -/
def Cmd.tile (c : Cmd) : Option Nat := match c.kind with | .product t _ _ _ _ _ _ => some t.toNat | .fill _ _ _ => none
def Cmd.isGang (c : Cmd) : Bool := match c.kind with | .product _ _ _ _ _ g _ => g | .fill _ _ _ => false
def Cmd.isFill (c : Cmd) : Bool := c.tile.isNone
def Cmd.running (c : Cmd) : Bool := c.started && !c.ended
def Cmd.unstarted (c : Cmd) : Bool := !c.started && !c.ended

def fillSlot (x : Word) : Nat := fld x 6 0
def fillCount (x : Word) : Nat := fld x 11 8

/-- The slots that a started command fills or reads (R282). -/
def Cmd.uses (c : Cmd) : List Nat :=
  if !c.running then [] else
  match c.kind with
  | .fill _ x _ => (List.range (fillCount x)).map (· + fillSlot x)
  | .product _ blocks oB _ _ _ bB =>
    (List.range (blocks * (bB.map Prod.fst).getD 1)).map (· + oB) ++
    c.shares.flatMap (fun h => match h.state with
      | .running _ => (List.range (blocks * h.bA)).map (· + h.aslot)
      | _ => [])

/-- Does a started command of the sorus read or fill a slot? -/
def State.slotUsed (s : State) (so n : Nat) : Bool :=
  (sorusCores so).any (fun i => (s.elem i).mq.any (fun c => c.uses.contains n))

/-- Is a tile busy (R276)? -/
def State.tileBusy (s : State) (e : EId) (t : Nat) : Bool :=
  (s.elem e).mq.any (fun c => !c.ended && c.tile == some t) ||
  (sorusCores (sorusOf e)).any (fun i => i != e && (s.elem i).mq.any (fun c => !c.ended && c.isGang && c.tile == some t &&
    c.shares.any (fun h => h.elem == e && (match h.state with | .waiting => true | .running _ => true | _ => false))))

/-- Does a share that has started write a tile? -/
def State.tileWritten (s : State) (e : EId) (t : Nat) : Bool :=
  (sorusCores (sorusOf e)).any (fun i => (s.elem i).mq.any (fun c => c.running && c.tile == some t &&
    c.shares.any (fun h => h.elem == e && (match h.state with | .running _ => true | _ => false))))

/-- A command, or a share of another core's command, that wrote a tile has ended, or one is about to start: the values of before
are read no more (R276), and the tile of a fenced core becomes unconfigured (R278). While another started share writes the tile
nothing changes. -/
def State.settleTile (s : State) (e : EId) (t : Nat) : State :=
  let T := s.tile e t
  if s.tileWritten e t then s else s.setTile e t (if T.doomed then Tile.blank else { T with hist := [] })

/-- A fenced core's tile becomes unconfigured, at once or when the started command that writes it ends (R278). -/
def State.dropTile (s : State) (e : EId) (t : Nat) : State :=
  s.setTile e t (if s.tileWritten e t then { s.tile e t with doomed := true } else Tile.blank)

def State.updCmd (s : State) (e : EId) (seq : BitVec 32) (g : Cmd → Cmd) : State :=
  s.updElem e (fun E => { E with mq := E.mq.map (fun c => if c.seq = seq then g c else c) })

/-- The status word (R286). -/
def State.mstat (s : State) (e : EId) : Word :=
  let E := s.elem e
  let tiles := (List.range 4).foldl (fun w t =>
    w + (s.tile e t).shape.toNat * 2 ^ (8 + 4 * t) + (if s.tileBusy e t then 2 ^ (11 + 4 * t) else 0)) 0
  BitVec.ofNat 64 (16 - E.mq.length + (if E.merr then 2 ^ 5 else 0) + (if E.holdArm then 2 ^ 6 else 0)
    + (if E.mq.any (fun c => c.held && c.unstarted) then 2 ^ 7 else 0) + tiles + E.lost * 2 ^ 24 + E.mseq.toNat % 2 ^ 16 * 2 ^ 32)

/-! ### Completions (R271, R275) -/

/-- The coordinate-and-bits word of a completion. -/
def Cmd.in1 (c : Cmd) (e : EId) : Word := BitVec.ofNat 64 (c.bits.toNat + e * 2 ^ 32 + memberOf e * 2 ^ 48)

def shareMask (c : Cmd) (p : ShareState → Bool) : Nat :=
  c.shares.foldl (fun m h => if p h.state then m ||| 2 ^ memberOf h.elem else m) 0

/-- The words of a completion with a STATUS, of the command as it ended. -/
def State.completionWords (s : State) (e : EId) (c : Cmd) (status : Nat) : List Word :=
  match c.kind with
  | .fill _ _ _ => [0x21, c.in1 e, BitVec.ofNat 64 status, c.seq.setWidth 64]
  | .product t _ _ _ rows gang _ =>
    let done := shareMask c (fun h => decide (h = .done))
    let fail := shareMask c (fun h => match h with | .failed _ => true | _ => false)
    let reasons := c.shares.foldl (fun w h => w + (match h.state with | .failed r => r * 2 ^ (4 * h.pos) | _ => 0)) 0
    [0x20, c.in1 e, BitVec.ofNat 64 (status + done * 2 ^ 8 + fail * 2 ^ 16 + rows * 2 ^ 24 + Nat.min 255 c.replaced * 2 ^ 32),
      c.seq.setWidth 64, if gang then BitVec.ofNat 64 reasons else 0, (s.tile e t.toNat).kcnt.setWidth 64]

/-- A command of core e ends with a STATUS: one completion goes to its issuer, or to each gang member. -/
def State.endCmd (s : State) (e : EId) (c : Cmd) (status : Nat) : State :=
  let ctx := (s.ctxOf e).getD 0
  let ws := s.completionWords e c status
  let dsts := if c.isGang then c.shares.map (·.elem) else [e]
  let ret : Ret := { credit := none, notice := none, cmd := some (e, c.seq) }
  let s1 := s.updCmd e c.seq (fun _ => { c with ended := true, held := false, comps := (List.range dsts.length).map (· + s.nextId) })
  let s2 := match c.tile with
    | some t => (c.shares.filter (fun h => decide (h.state = .done))).foldl (fun s h => s.settleTile h.elem t) s1
    | none => s1
  dsts.foldl (fun s d => s.inject ctx (unitOf e) (some d) (.msg c.q (plainMsg ws) ret)) s2

/-! ### Configuration (R280, R281) -/

def execMcfg (a : Reg) (t : BitVec 2) (s : State) : Host.Outcome State Fault Refusal :=
  withCore (.mcfg a t) s (fun A =>
    let x := A.reg a
    if 4 < x.toNat then faultNow s 0x34 0 x
    else if s.tileBusy s.cur t.toNat then faultNow s 0x33 0 (immN t)
    else
      let s1 := s.zeroKeys (tileKey s.cur t.toNat 0) 4096
      retire (s1.setTile s.cur t.toNat { Tile.blank with shape := x.setWidth 3 }) A 4)

/-- Members of a gang word, in ascending m. -/
def gangMembers (x : Word) : List Nat := (List.range 8).filter (fun m => x.getLsbD m)

/-- ASLOTp of a gang word. -/
def gangSlot (x : Word) (p : Nat) : Nat := fld x (14 + 8 * p) (8 + 8 * p)

def gangOk (e : EId) (x : Word) : Bool :=
  let n := (gangMembers x).length
  decide (1 ≤ n) && decide (n ≤ 4) && x.getLsbD (memberOf e) && !x.getLsbD 15 && !x.getLsbD 23 && !x.getLsbD 31 &&
  decide (fld x 63 39 = 0) && (List.range 4).all (fun p => decide (p < n) || gangSlot x p == 0)

def execMcfgGang (a : Reg) (s : State) : Host.Outcome State Fault Refusal :=
  withCore (.mcfgGang a) s (fun A =>
    let x := A.reg a
    if gangOk s.cur x then retire (s.updElem s.cur (fun E => { E with gang := x })) A 4 else faultNow s 0x34 0 x)

def execMzero (t : BitVec 2) (s : State) : Host.Outcome State Fault Refusal :=
  withCore (.mzero t) s (fun A =>
    let T := s.tile s.cur t.toNat
    if T.shape = 0 then faultNow s 0x30 0 (immN t)
    else if s.tileBusy s.cur t.toNat then faultNow s 0x33 0 (immN t)
    else retire ((s.zeroKeys (tileKey s.cur t.toNat 0) 4096).setTile s.cur t.toNat { T with kcnt := 0, hist := [] }) A 4)

/-! ### Claiming and releasing (R282) -/

/-- The claim word is valid. -/
def claimOk (x : Word) : Bool :=
  !x.getLsbD 7 && decide (fld x 63 12 = 0) && decide (1 ≤ fld x 11 8) && decide (fld x 11 8 ≤ 8) &&
  decide (fld x 6 0 + fld x 11 8 ≤ 128)

def claimRun (x : Word) : List Nat := (List.range (fld x 11 8)).map (· + fld x 6 0)

def execOclaim (d : BitVec 5) (a : Reg) (s : State) : Host.Outcome State Fault Refusal :=
  withCore (.oclaim d a) s (fun A =>
    let x := A.reg a
    let so := sorusOf s.cur
    if !claimOk x then faultNow s 0x34 0 x
    else if (claimRun x).all (fun n => decide ((s.slot so n).state = .free)) then
      retire ((claimRun x).foldl (fun s n => s.setSlot so n { state := .empty, owner := some s.cur, fmt := 0, releasing := false }) s)
        (A.setReg (c5 d) 0) 4
    else retire s (A.setReg (c5 d) 1) 4)

def State.ownsSlot (s : State) (e : EId) (n : Nat) : Bool := (s.slot (sorusOf e) n).owner == some e

/-- A release of a slot: FREE at once when no started command reads or fills it, otherwise later. -/
def State.releaseSlot (s : State) (so n : Nat) : State :=
  if s.slotUsed so n then s.setSlot so n { s.slot so n with releasing := true } else s.setSlot so n Slot.reset

def execOrelease (a : Reg) (s : State) : Host.Outcome State Fault Refusal :=
  withCore (.orelease a) s (fun A =>
    let x := A.reg a
    if !claimOk x then faultNow s 0x34 0 x
    else match (claimRun x).find? (fun n => !s.ownsSlot s.cur n) with
    | some n => faultNow s 0x32 0 (BitVec.ofNat 64 n)
    | none => retire ((claimRun x).foldl (fun s n => s.releaseSlot (sorusOf s.cur) n) s) A 4)

/-- SLOT_RELEASE_EFFECT: a released slot that no started command uses any more becomes FREE. -/
def execSlotReleaseEffect (sorus slot : Nat) (s : State) : Host.Outcome State Fault Refusal :=
  if (s.slot sorus slot).releasing && !s.slotUsed sorus slot then .next (s.setSlot sorus slot Slot.reset) else .next s

/-! ### Pushes (R283, R284) -/

/-- Push a command of the executing core; it takes the next sequence number, and starts after the core's earlier posted writes
(R178). -/
def State.push (s : State) (bits : BitVec 32) (q : BitVec 4) (kind : CmdKind) (held : Bool) (shares : List Share) : State :=
  s.updElem s.cur (fun E => { E with
    mseq := E.mseq + 1
    mq := E.mq ++ [{
      seq := E.mseq, bits := bits, q := q, kind := kind, held := held, after := (s.postedOf s.cur).map (·.id), started := false, startedAt := 0,
      filled := 0, ended := false, shares := shares, replaced := 0,
      comps := [] }] })

def queueFull (s : State) (e : EId) : Bool := decide (16 ≤ (s.elem e).mq.length)

/-- The fill descriptor is valid. -/
def fillOk (x : Word) : Bool :=
  !x.getLsbD 7 && decide (fld x 15 12 = 0) && !x.getLsbD 23 && decide (fld x 63 32 = 0) && decide (1 ≤ fillCount x) &&
  decide (fillCount x ≤ 8) && decide (fld x 21 20 ≠ 3) && operandFmt (fld x 31 24) && decide (fillSlot x + fillCount x ≤ 128)

/-- The slots of a fill. -/
def fillRun (x : Word) : List Nat := (List.range (fillCount x)).map (· + fillSlot x)
/-- Its size in bytes. -/
def fillLen (x : Word) : Nat := 2048 * fillCount x

/-- The checks of OFILL's source (R283, item 3); the offset of a local address counts its window (R145, R349). That bits [63:29] of a
weight-store offset are judged before its alignment, and that before the limit, is the model's choice (log 27). -/
def fillSource (s : State) (a x : Word) : Option Flt :=
  let len := fillLen x
  let mis : Flt := { code := 0x11, faddr := a, extra := MemX.word { size := 64, ptag := if fld x 21 20 = 2 then 0 else ptagOf a } }
  let lim : Flt := { code := 0x34, faddr := a, extra := a }
  if fld x 21 20 = 2 then
    if fld a 63 29 ≠ 0 then some lim
    else if a.toNat % 64 ≠ 0 then some mis
    else if 0x18000000 < a.toNat + len then some lim
    else none
  else
    let need : Need := { aps := [fld x 21 20], rd := true }
    match resolvePieces s s.cur need a [part 0 64] with
    | .error f => some f
    | .ok _ =>
      if a.toNat % 64 ≠ 0 then some mis
      else if 0x10000 < (if fld x 21 20 = 0 then localOffset s s.cur a else fld a 18 0) + len then some lim
      else if fld x 21 20 = 1 then none
      else match plan s s.cur need a len with
        | .error f => some f
        | .ok _ => none

def execOfill (a b : Reg) (s : State) : Host.Outcome State Fault Refusal :=
  withCore (.ofill a b) s (fun A =>
    let x := A.reg b
    if !fillOk x then faultNow s 0x34 0 x
    else match (fillRun x).find? (fun n => !s.ownsSlot s.cur n) with
    | some n => faultNow s 0x32 0 (BitVec.ofNat 64 n)
    | none =>
      match fillSource s (A.reg a) x with
      | some f => finish (s, some f)
      | none =>
        if queueFull s s.cur then faultNow s 0x31 0 (s.mstat s.cur)
        else retire (s.push (bitsOf (encode (.ofill a b))) (BitVec.ofNat 4 (fld x 19 16)) (.fill (A.reg a) x (s.leads s.cur)) false []) A 4)

/-- Push a product after its checks (R284). -/
def pushProduct (s : State) (A : Act) (i : Instr) (t k : BitVec 2) (q : BitVec 4) (oB : BitVec 7) (gang : Bool)
    (shares : List Share) : Host.Outcome State Fault Refusal :=
  let T := s.tile s.cur t.toNat
  let g := (s.elem s.cur).gang
  if T.shape = 0 then faultNow s 0x30 0 (immN t)
  else if gang && gangMembers g == [] then faultNow s 0x34 0 g
  else if queueFull s s.cur then faultNow s 0x31 0 (s.mstat s.cur)
  else
    let s1 := s.push (bitsOf (encode i)) q (.product t (k.toNat + 1) oB.toNat T.shape (shapeM T.shape) gang none)
      (s.elem s.cur).holdArm shares
    retire (s1.updElem s.cur (fun E => { E with holdArm := false })) A 4

def execMma (t k : BitVec 2) (q : BitVec 4) (o p : BitVec 7) (s : State) : Host.Outcome State Fault Refusal :=
  withCore (.mma t k q o p) s (fun A =>
    pushProduct s A (.mma t k q o p) t k q p false [{ pos := 0, elem := s.cur, aslot := o.toNat, state := .waiting, bA := 1, fA := 0 }])

/-- The shares of a ganged product: one for each member, in ascending m (R274). -/
def gangShares (e : EId) (g : Word) (o : Nat) : List Share :=
  let ms := gangMembers g
  (List.range ms.length).map (fun p =>
    { pos := p, elem := sorusMember (sorusOf e) (ms.getD p 0), aslot := gangSlot g p + o, state := .waiting, bA := 1, fA := 0 })

def execMmag (t k : BitVec 2) (q : BitVec 4) (o p : BitVec 7) (s : State) : Host.Outcome State Fault Refusal :=
  withCore (.mmag t k q o p) s (fun A => pushProduct s A (.mmag t k q o p) t k q p true (gangShares s.cur (s.elem s.cur).gang o.toNat))

/-! ### Starts (R269, R272, R274, R283) -/

/-- The tests of one slot of an operand: true when it is FULL, false when it must be waited for, or the status. With
`owner`, the slot must be owned by that core (R274). -/
def slotTest (s : State) (issuer : EId) (owner : Option EId) (n : Nat) : Except Nat Bool :=
  let x := s.slot (sorusOf issuer) n
  let okOwner := match x.owner, owner with
    | some o, some m => o == m && s.ctxOf o == s.ctxOf issuer
    | some o, none => s.ctxOf o == s.ctxOf issuer
    | none, _ => false
  if 127 < n ∨ x.state = .free ∨ okOwner = false then .error 3
  else if x.state = .empty ∧ x.owner = some issuer then .error 2
  else .ok (decide (x.state = .full))

/-- The tests of several slots in ascending order: the first that does not pass decides. -/
def slotTests (s : State) (issuer : EId) (owner : Option EId) : List Nat → Except Nat Bool
  | [] => .ok true
  | n :: ns =>
    match slotTest s issuer owner n with
    | .ok true => slotTests s issuer owner ns
    | r => r

/-- Test an operand of some blocks from its first slot (R267, R272): slots for each block when every slot is FULL, none
when one must be waited for, or the status. -/
def operandTest (s : State) (issuer : EId) (owner : Option EId) (first blocks dim : Nat) : Except Nat (Option Nat) :=
  let span := fun b => match slotTests s issuer owner ((List.range (blocks * b)).map (· + first)) with
    | .ok true => .ok (some b)
    | .ok false => .ok none
    | .error e => .error e
  if dim = 64 then
    match slotTest s issuer owner first with
    | .ok true => span (if operandBytes (s.slot (sorusOf issuer) first).fmt.toNat = 2 then 2 else 1)
    | .ok false => .ok none
    | .error e => .error e
  else span 1

/-- Every slot of the operand holds the first slot's format, and it is an operand format. -/
def sameFmt (s : State) (so first n : Nat) : Bool :=
  let f := (s.slot so first).fmt
  operandFmt f.toNat && (List.range n).all (fun i => (s.slot so (first + i)).fmt == f)

/-- Does an earlier arithmetic command of the queue still run (R269)? -/
def arithRunning (E : Elem) : Bool := E.mq.any (fun c => c.running && !c.isFill)

/-- All shares of a command fail with a reason. -/
def Cmd.failAll (c : Cmd) (reason : Nat) : Cmd :=
  { c with shares := c.shares.map (fun h => { h with state := .failed reason }) }

/-- The B operand's slots may be taken, for a product of core e. -/
def startProduct (s : State) (e : EId) (c : Cmd) (t blocks oB : Nat) (shape : BitVec 3) (gang : Bool)
    (set : Nat × BitVec 8 → CmdKind) : State :=
  let so := sorusOf e
  let fB := (s.slot so oB).fmt
  let start := fun (c : Cmd) (bB : Nat) => { c with started := true, startedAt := s.stepNo, kind := set (bB, fB) }
  let fail := fun st => s.endCmd e (c.failAll (if gang then 7 else 0)) st
  let tB := operandTest s e none oB blocks (shapeN shape)
  if gang then
    match tB with
    | .error st => fail st
    | .ok none => s
    | .ok (some bB) =>
      if sameFmt s so oB (blocks * bB) then s.updCmd e c.seq (fun c => start c bB) else fail 5
  else
    match c.shares with
    | [] => s
    | h :: _ =>
      match operandTest s e none h.aslot blocks (shapeM shape) with
      | .error st => fail st
      | .ok none => s
      | .ok (some bA) =>
        match tB with
        | .error st => fail st
        | .ok none => s
        | .ok (some bB) =>
          if sameFmt s so h.aslot (blocks * bA) && sameFmt s so oB (blocks * bB) then
            (s.settleTile e t).updCmd e c.seq (fun c => { start c bB with
              shares := [{ h with state := .running 0, bA := bA, fA := (s.slot so h.aslot).fmt }] })
          else fail 5

/-- Is the context of an element running, so that the unit may start work of its cores (R277)? -/
def State.ctxRuns (s : State) (e : EId) : Bool :=
  match s.ctxAt e with
  | some C => decide (C.switch = .running)
  | none => false

/-- MATRIX_COMMAND_START: command seq of core e starts if it stands at the head and the posted writes that its push released
have been performed (R178), or ends by the checks of its slots. -/
def execMatrixCommandStart (e : EId) (seq : Nat) (s : State) : Host.Outcome State Fault Refusal :=
  let E := s.elem e
  match E.mq.find? Cmd.unstarted with
  | none => .next s
  | some c =>
    if c.seq.toNat ≠ seq ∨ s.ctxRuns e = false ∨ c.after.any (fun k => (s.flight k).isSome) = true then .next s
    else match c.kind with
    | .fill _ x _ =>
      if (fillRun x).all (fun n => s.ownsSlot e n) then
        let s1 := (fillRun x).foldl (fun s n => s.setSlot (sorusOf e) n { s.slot (sorusOf e) n with state := .filling }) s
        .next (s1.updCmd e c.seq (fun c => { c with started := true, startedAt := s.stepNo }))
      else .next (s.endCmd e c 3)
    | .product t blocks oB shape rows gang _ =>
      if c.held || arithRunning E then .next s
      else .next (startProduct s e c t.toNat blocks oB shape gang (fun bB => .product t blocks oB shape rows gang (some bB)))

/-- The tests when share h of a ganged product would start: slots for each block of A, none when it must wait, or the
reason of its failure (R274). -/
def shareTest (s : State) (e : EId) (c : Cmd) (h : Share) : Except Nat (Option Nat) :=
  match c.kind with
  | .fill _ _ _ => .ok none
  | .product t blocks _ shape _ _ _ =>
    if (s.elem h.elem).mode = .frozen ∨ (s.elem h.elem).mode = .fenced ∨ s.isComposed h.elem = true then .error 1
    else if (s.tile h.elem t.toNat).shape ≠ shape then .error 2
    else match operandTest s e (some h.elem) h.aslot blocks (shapeM shape) with
    | .error 2 => .error 4
    | .error _ => .error 3
    | .ok none => .ok none
    | .ok (some bA) => if sameFmt s (sorusOf e) h.aslot (blocks * bA) then .ok (some bA) else .error 5

/-! ### Steps (R206, R207, R270, R272, R273) -/

/-- Do n bytes at a slot or tile key hold an uncorrectable error? -/
def State.badBytes (s : State) (key n : Nat) : Bool := s.poison.any (fun k => decide (key ≤ k) && decide (k < key + n))

/-- One element read: its value and whether +0 replaced it. -/
def State.slotElem (s : State) (key : Nat) (fmt : Nat) (i : Nat) : FVal × Bool :=
  let eb := operandBytes fmt
  if s.badBytes (key + eb * i) eb then (.fin false 0 0, true)
  else (((codeFmt fmt).getD .f32).decode (leNat (memRead s.mem (key + eb * i) eb)), false)

/-- The code of a tile element, +0 when it is replaced. -/
def State.tileElem (s : State) (e : EId) (t i : Nat) : Nat × Bool :=
  let key := tileKey e t (4 * i)
  if s.badBytes key 4 then (0, true) else (leNat (memRead s.mem key 4), false)

/-- One accumulation over a k-block (R207), with the payload that the step itself would give (R206). -/
def blockSum (acc : Nat) (xs ys : List FVal) (payload : Nat) : Nat :=
  match (xs.zip ys).foldl (fun v p => v.add (p.1.mul p.2)) (Fmt.f32.decode acc) with
  | .nan => 0x7FC00000 + (match Fmt.f32.decode acc with | .nan => Nat.min payload (acc % 2 ^ 22) | _ => payload)
  | v => Fmt.f32.round v

/-- An entry of the error log (R287). -/
def errEntry (slot what elem seq : Nat) : Word :=
  BitVec.ofNat 64 (slot + what * 2 ^ 8 + elem * 2 ^ 10 + seq % 2 ^ 31 * 2 ^ 32 + 2 ^ 63)

/-- Core e notes replacements: ERR, the log of eight, and LOST (R273, R286, R287). -/
def State.noteReplaced (s : State) (e : EId) (l : List Word) : State :=
  if l.isEmpty then s
  else s.updElem e (fun E => { E with
    merr := true
    merrLog := (E.merrLog ++ l).take 8
    lost := Nat.min 255 (E.lost + (l.length - (8 - E.merrLog.length))) })

/-- The numbers of the elements that were replaced. -/
def replacedIdx (l : List (FVal × Bool)) : List Nat := (List.range l.length).filter (fun i => (l.getD i (.nan, false)).2)

/-- One k-block of a share of a command: element sums of the first rows of the member's tile, KCNT, replacements. -/
def State.blockStep (s : State) (e : EId) (c : Cmd) (h : Share) (j t oB bB fb : Nat) (shape : BitVec 3) (rows : Nat) : State :=
  let so := sorusOf e
  let T := s.tile h.elem t
  let N := shapeN shape
  let fa := h.fA.toNat
  let a := (List.range (32 * rows)).map (s.slotElem (slotKey so (h.aslot + j * h.bA) 0) fa)
  let b := if rows = 0 then [] else (List.range (32 * N)).map (s.slotElem (slotKey so (oB + j * bB) 0) fb)
  let cols := (List.range N).map (fun n => (List.range 32).map (fun kk => (b.getD (N * kk + n) (.nan, false)).1))
  let old := (List.range (rows * N)).map (s.tileElem h.elem t)
  let rank := match s.ctxAt h.elem with | some C => C.rankOf h.elem | none => 0
  let payload := rank % 1024 * 2 ^ 12 + T.kcnt.toNat % 2 ^ 12
  let new := (List.range rows).flatMap (fun i =>
    let row := ((a.drop (32 * i)).take 32).map Prod.fst
    (List.range N).map (fun n => blockSum (old.getD (i * N + n) (0, false)).1 row (cols.getD n []) payload))
  let logged := fun first eb what (l : List Nat) => l.map (fun i => errEntry (first + eb * i / 2048) what (eb * i % 2048 / eb) c.seq.toNat)
  let reps := logged (h.aslot + j * h.bA) (operandBytes fa) 0 (replacedIdx a) ++
    logged (oB + j * bB) (operandBytes fb) 1 (replacedIdx b) ++
    ((List.range old.length).filter (fun i => (old.getD i (0, false)).2)).map (fun i => errEntry t 2 i c.seq.toNat)
  let snap := memRead s.mem (tileKey h.elem t 0) 4096
  let bad := (List.range 1024).filter (fun i => (s.tileElem h.elem t i).2)
  let bytes := new.flatMap (leBytes 4)
  let lo := tileKey h.elem t 0
  let s1 := { s with
    mem := memWrite s.mem lo bytes
    poison := s.poison.filter (fun k => !(decide (lo ≤ k) && decide (k < lo + bytes.length))) }
  let s2 := s1.setTile h.elem t { T with kcnt := T.kcnt + 1, hist := (snap, bad) :: T.hist }
  (s2.noteReplaced h.elem reps).updCmd e c.seq (fun c => { c with replaced := c.replaced + reps.length })

/-- Set the state of share p of a command. -/
def State.setShare (s : State) (e : EId) (c : Cmd) (p : Nat) (g : Share → Share) : State :=
  s.updCmd e c.seq (fun c => { c with shares := c.shares.map (fun h => if h.pos = p then g h else h) })

/-- May the context read banks of the weight store of a die that hold n bytes from an offset (R306)? -/
def Ctx.banksOk (C : Ctx) (die off n : Nat) : Bool :=
  (List.range 256).all (fun b =>
    decide (off + n ≤ b * 0x180000) || decide ((b + 1) * 0x180000 ≤ off) || C.soruses.contains (256 * die + b))

/-- The keys of the source bytes of a fill, or the STATUS that ends it (R283). -/
def fillKeys (s : State) (e : EId) (a x : Word) (pooled : Bool) : Except Nat (List Nat) :=
  let n := fillLen x
  match fld x 21 20 with
  | 2 =>
    let ok := match s.ctxAt e with | some C => C.banksOk (eDie e) a.toNat n | none => false
    if ok then .ok ((List.range n).map (fun i => weightKey (eDie e) (a.toNat + i))) else .error 4
  | 1 =>
    let t := sorusMember (sorusOf e) (fld a 34 32)
    if s.isFenced t then .error 8 else .ok ((List.range n).map (fun i => scratchKey t (fld a 15 0 + i)))
  | _ => .ok ((List.range n).map (fun i => if pooled then s.ownKey e (fld a 19 0 + i) else scratchKey e (fld a 15 0 + i)))

/-- Is the command the fill of the sorus that started first among those that have not ended (R270)? -/
def State.nextFill (s : State) (e : EId) (c : Cmd) : Bool :=
  (sorusCores (sorusOf e)).all (fun i => (s.elem i).mq.all (fun d => !(d.running && d.isFill) || decide (c.startedAt ≤ d.startedAt)))

/-- The started fill copies the bytes of its next slot raw and marks an element of uncorrectable bytes; the slot takes the format
and is FULL, also where a later fill of it has started (log 26). A source that cannot be read ends the fill, and its slots become EMPTY (R283). -/
def State.fillStep (s : State) (e : EId) (c : Cmd) (a x : Word) (pooled : Bool) : State :=
  let so := sorusOf e
  match fillKeys s e a x pooled with
  | .error st => ((fillRun x).foldl (fun s n => s.setSlot so n { s.slot so n with state := .empty }) s).endCmd e c st
  | .ok keys =>
    if fillCount x ≤ c.filled then s
    else
      let n := fillSlot x + c.filled
      let lo := slotKey so n 0
      let src := (keys.drop (2048 * c.filled)).take 2048
      let bad := (List.range src.length).filter (fun i =>
        let k := src.getD i 0
        decide (k < 2 ^ 60) && (poisonIn s k 1).isSome)
      let p := s.poison.filter (fun k => !(decide (lo ≤ k) && decide (k < lo + 2048)))
      let s1 := { s with mem := memWrite s.mem lo (src.map (memGet s.mem)), poison := bad.foldl (fun p i => sinsert p (lo + i)) p }
      (s1.setSlot so n { s1.slot so n with state := .full, fmt := BitVec.ofNat 8 (fld x 31 24) }).updCmd e c.seq
        (fun c => { c with filled := c.filled + 1 })

/-- MATRIX_STEP: a waiting share of a started ganged product starts or fails, a running share does its next k-block, or the fill
path of the sorus, which takes the started fills in the order in which they started (R270), copies the next slot of a fill. -/
def execMatrixStep (e : EId) (seq : Nat) (share : Nat) (s : State) : Host.Outcome State Fault Refusal :=
  match (s.elem e).mq.find? (fun c => c.running && c.seq.toNat == seq) with
  | none => .next s
  | some c =>
    match c.kind, c.shares.find? (fun h => h.pos == share) with
    | .product t blocks oB shape rows _ bB, some h =>
      match h.state with
      | .waiting =>
        let earlier := (c.shares.filter (fun g => decide (g.pos < share) && decide (g.state = .waiting))).all (fun g =>
          match shareTest s e c g with | .ok none => true | _ => false)
        if !earlier || !s.ctxRuns e then .next s
        else match shareTest s e c h with
        | .error r => .next (s.setShare e c share (fun h => { h with state := .failed r }))
        | .ok none => .next s
        | .ok (some bA) =>
          .next ((s.settleTile h.elem t.toNat).setShare e c share (fun h => { h with
            state := .running 0
            bA := bA
            fA := (s.slot (sorusOf e) h.aslot).fmt }))
      | .running j =>
        let s1 := s.blockStep e c h j t.toNat oB ((bB.map Prod.fst).getD 1) ((bB.map (·.2.toNat)).getD 0) shape rows
        let s2 := s1.setShare e c share (fun h => { h with state := if j + 1 < blocks then .running (j + 1) else .done })
        .next (if j + 1 < blocks ∨ h.elem = e then s2 else s2.settleTile h.elem t.toNat)
      | _ => .next s
    | .fill a x pooled, _ => .next (if s.nextFill e c then s.fillStep e c a x pooled else s)
    | _, _ => .next s

/-- MATRIX_COMMAND_END: a fill that has copied all its slots ends, or a product whose shares are all done or failed. -/
def execMatrixCommandEnd (e : EId) (seq : Nat) (s : State) : Host.Outcome State Fault Refusal :=
  match (s.elem e).mq.find? (fun c => c.running && c.seq.toNat == seq) with
  | none => .next s
  | some c =>
    match c.kind with
    | .fill _ x _ => .next (if fillCount x ≤ c.filled then s.endCmd e c 0 else s)
    | .product _ _ _ _ _ _ _ =>
      if c.shares.all (fun h => match h.state with | .done => true | .failed _ => true | _ => false) then
        let failed := c.shares.any (fun h => match h.state with | .failed _ => true | _ => false)
        .next (s.endCmd e c (if failed then 7 else if c.replaced ≠ 0 then 1 else 0))
      else .next s

/-! ### Slices (R276, R285) -/

/-- The index word's reserved bits are zero. -/
def sliceBitsOk (x : Word) : Bool := decide (fld x 7 6 = 0) && decide (fld x 63 14 = 0)

/-- Does LINE and FIRST name a slice of a tile of the shape? -/
def sliceOk (row : Bool) (shape : BitVec 3) (x : Word) : Bool :=
  let lines := if row then shapeM shape else shapeN shape
  let len := if row then shapeN shape else shapeM shape
  decide (fld x 5 0 < lines) && decide (fld x 13 8 % 16 = 0) && decide (fld x 13 8 + 16 ≤ len)

/-- The element of lane k of a slice. -/
def sliceElem (row : Bool) (shape : BitVec 3) (x : Word) (k : Nat) : Nat :=
  if row then fld x 5 0 * shapeN shape + fld x 13 8 + k else (fld x 13 8 + k) * shapeN shape + fld x 5 0

/-- Run a slice instruction after its checks. -/
def withSlice (i : Instr) (s : State) (row : Bool) (a : Reg) (t : BitVec 2) (k : Act → Tile → Word → Host.Outcome State Fault Refusal) :
    Host.Outcome State Fault Refusal :=
  withCore i s (fun A =>
    let x := A.reg a
    let T := s.tile s.cur t.toNat
    if !sliceBitsOk x then faultNow s 0x34 0 x
    else if T.shape = 0 then faultNow s 0x30 0 (immN t)
    else if !sliceOk row T.shape x then faultNow s 0x34 0 x
    else k A T x)

/-- The code that one lane reads: the element now, or on a busy tile freely one of its values in the command (R276); a value that held
an uncorrectable error is replaced by +0 (R273). -/
def sliceCode (s : State) (t : Nat) (busy : Bool) (hist : List (List Byte × List Nat)) (lane i : Nat) : Nat × Bool :=
  let now := s.tileElem s.cur t i
  if busy && !now.2 then
    match hist[(s.free lane).toNat % (hist.length + 1)]? with
    | some old => if old.2.contains i then (0, true) else (leNat ((old.1.drop (4 * i)).take 4), false)
    | none => now
  else now

/-- Sixteen lanes of 32 bits as a vector register. -/
def vecOf32 (l : List Nat) : Vec := BitVec.ofNat 512 ((List.range 16).foldl (fun v i => v + l.getD i 0 * 2 ^ (32 * i)) 0)

def sliceRead (i : Instr) (s : State) (row : Bool) (d : BitVec 5) (a : Reg) (t : BitVec 2) : Host.Outcome State Fault Refusal :=
  withSlice i s row a t (fun A T x =>
    let busy := s.tileBusy s.cur t.toNat
    let idx := fun k => sliceElem row T.shape x k
    let l := (List.range 16).map (fun k => sliceCode s t.toNat busy T.hist k (idx k))
    let reps := ((List.range 16).filter (fun k => (l.getD k (0, false)).2)).map (fun k =>
      errEntry t.toNat 2 (idx k) (s.free 16).toNat)
    retire ((s.noteReplaced s.cur reps).updElem s.cur (fun E => { E with v := vset E.v d.toNat (vecOf32 (l.map Prod.fst)) })) A 4)

def sliceWrite (i : Instr) (s : State) (row : Bool) (d : BitVec 5) (a : Reg) (t : BitVec 2) : Host.Outcome State Fault Refusal :=
  withSlice i s row a t (fun A T x =>
    if s.tileBusy s.cur t.toNat then faultNow s 0x33 0 (immN t)
    else
      let v := vget 0 (s.elem s.cur).v d.toNat
      retire ((List.range 16).foldl (fun s k =>
        let key := tileKey s.cur t.toNat (4 * sliceElem row T.shape x k)
        let s1 := s.zeroKeys key 4
        { s1 with mem := memWrite s1.mem key (leBytes 4 (lane32 v k).toNat) }) s) A 4)

def execMrdr (d : BitVec 5) (a : Reg) (t : BitVec 2) (s : State) := sliceRead (.mrdr d a t) s true d a t
def execMrdc (d : BitVec 5) (a : Reg) (t : BitVec 2) (s : State) := sliceRead (.mrdc d a t) s false d a t
def execMwrr (d : BitVec 5) (a : Reg) (t : BitVec 2) (s : State) := sliceWrite (.mwrr d a t) s true d a t
def execMwrc (d : BitVec 5) (a : Reg) (t : BitVec 2) (s : State) := sliceWrite (.mwrc d a t) s false d a t

/-! ### Status, errors, length patching, flushing (R286–R289) -/

def execMstat (d : BitVec 5) (s : State) : Host.Outcome State Fault Refusal :=
  withCore (.mstat d) s (fun A => retire s (A.setReg (c5 d) (s.mstat s.cur)) 4)

def execMerr (d : BitVec 5) (a : Reg) (s : State) : Host.Outcome State Fault Refusal :=
  withCore (.merr d a) s (fun A =>
    let x := A.reg a
    if fld x 7 3 ≠ 0 ∨ fld x 63 9 ≠ 0 then faultNow s 0x34 0 x
    else
      let v := (s.elem s.cur).merrLog.getD (fld x 2 0) 0
      let s1 := if x.getLsbD 8 then s.updElem s.cur (fun E => { E with merrLog := [], merr := false, lost := 0 }) else s
      retire s1 (A.setReg (c5 d) v) 4)

/-- The held command of a queue. -/
def Elem.heldCmd (E : Elem) : Option Cmd := E.mq.find? (fun c => c.held && c.unstarted)

def execMlenHold (s : State) : Host.Outcome State Fault Refusal :=
  withCore (.mlenHold) s (fun A =>
    let E := s.elem s.cur
    if E.holdArm || E.heldCmd.isSome then faultNow s 0x35 0 (s.mstat s.cur)
    else retire (s.updElem s.cur (fun E => { E with holdArm := true })) A 4)

/-- Patch ROWS of a held command and release it. -/
def Cmd.patch (c : Cmd) (rows : Nat) : Cmd :=
  { c with held := false, kind := match c.kind with
    | .product t b oB sh _ g bB => .product t b oB sh (Nat.min rows (shapeM sh)) g bB
    | k => k }

/-- MLEN.set. A frond takes code 0x63 before the other checks, among which R365 gives it no place (log 27). -/
def execMlenSet (a : Reg) (s : State) : Host.Outcome State Fault Refusal :=
  withCore (.mlenSet a) s (fun A =>
    let x := A.reg a
    let E := s.elem s.cur
    if A.frond then faultNow s 0x63 0 0
    else if fld x 15 3 ≠ 0 ∨ fld x 63 28 ≠ 0 then faultNow s 0x34 0 x
    else match E.heldCmd with
    | none => faultNow s 0x35 0 (s.mstat s.cur)
    | some c =>
      match vget none E.bins (fld x 2 0) with
      | none => faultNow s 0x28 0 x
      | some b =>
        if b.count ≤ fld x 27 16 then faultNow s 0x26 0 x
        else if !b.isSealed then faultNow s 0x36 0 x
        else
          let n := leNat (s.deviceReadOwn s.cur (b.base + b.stride * fld x 27 16) 4)
          retire (s.updCmd s.cur c.seq (fun c => c.patch n)) A 4)

/-- End every unstarted command of a core's queue with STATUS 6, in queue order. -/
def State.endUnstarted (s : State) (e : EId) : State :=
  (s.elem e).mq.foldl (fun s c => if c.unstarted then s.endCmd e (c.failAll (if c.isGang then 6 else 0)) 6 else s) s

/-- What MFLUSH does: the unstarted commands end, the unstarted shares of a started MMAG fail, and a hold is disarmed (R289). -/
def State.flush (s : State) (e : EId) : State :=
  (s.endUnstarted e).updElem e (fun E => { E with
    holdArm := false
    mq := E.mq.map (fun c =>
      if c.running && c.isGang then
        { c with shares := c.shares.map (fun h => if h.state = .waiting then { h with state := .failed 6 } else h) }
      else c) })

/-- At a fence of a core (R278): unstarted commands end with STATUS 6, its slots are freed, its tiles unconfigured; what a
started command uses follows when that command ends. That this happens at the fence, and not at the remap, and that an armed
MLEN.hold is disarmed, where R278 names the held command only, are the model's readings (log 40). -/
def State.fenceMatrix (s : State) (e : EId) : State :=
  if !isCore e then s
  else
    let so := sorusOf e
    let s1 := ((s.endUnstarted e).updElem e (fun E => { E with holdArm := false })).abandonShares e
    let s2 := (List.range 128).foldl (fun s n => if s.ownsSlot e n then s.releaseSlot so n else s) s1
    (List.range 4).foldl (fun s t => s.dropTile e t) s2

/-- At the remap of a fenced core, once no command of its sorus runs: what a started command held back follows (R278). -/
def State.freeMatrix (s : State) (e : EId) : State :=
  if !isCore e then s
  else
    let s1 := (List.range 128).foldl (fun s n => if s.ownsSlot e n then s.setSlot (sorusOf e) n Slot.reset else s) s
    (List.range 4).foldl (fun s t => s.setTile e t Tile.blank) s1

def execMflush (s : State) : Host.Outcome State Fault Refusal :=
  withCore (.mflush) s (fun A => retire (s.flush s.cur) A 4)

end Sys2Proof.Machine
end

