-- ==== Sys2Proof/Machine/System.lean ====
section
/-!
DEFINITION. Traps, the debug window, THAW and RETIRE, fencing and remapping, digests, tracing and breakpoints: major 0x17
(R366–R374, R386–R399).
-/
namespace Sys2Proof.Machine

/-! ### Privilege and targets (R389) -/

/-- A privileged form: code 0x03 on any element but the supervisor core. -/
def withSup (i : Instr) (s : State) (k : Act → Host.Outcome State Fault Refusal) : Host.Outcome State Fault Refusal :=
  withAct s (fun A => if s.isSup then k A else faultNow s 0x03 0 (insnExtra i 0))

/-- The element that a target address names: tag and offset are checked first, then the address as RLD's. -/
def targetElem (s : State) (a : Word) : Except Flt EId :=
  let off := if apOf a = 0 ∧ s.leads s.cur = true then fld a 22 0 else fld a 18 0
  if ptagOf a ≠ 0 ∨ off ≠ 0 then .error { code := 0x78, faddr := 0, extra := a }
  else match resolve s s.cur (apsRemote s.cur) a with
  | .error c => .error { code := 0x10, faddr := a, extra := MemX.word { ptag := ptagOf a, cause := c } }
  | .ok (.raw t _) => .ok t
  | .ok _ => .ok s.cur

/-- A privileged form with a target. -/
def withTarget (i : Instr) (s : State) (a : Reg) (k : Act → EId → Host.Outcome State Fault Refusal) :
    Host.Outcome State Fault Refusal :=
  withSup i s (fun A =>
    match targetElem s (A.reg a) with
    | .error f => finish (s, some f)
    | .ok t => k A t)

/-- Code 0x79 about a target. -/
def badState (s : State) (a : Word) (reason : Nat) : Host.Outcome State Fault Refusal := faultNow s 0x79 a (BitVec.ofNat 64 reason)

/-! ### TRAP (R390) -/

def execTrap (a b : Reg) (s : State) : Host.Outcome State Fault Refusal :=
  withAct s (fun A =>
    let t := s.takeFault s.cur { code := 0x71, faddr := A.reg a, extra := A.reg b }
    .next (t.updElem s.cur (fun E => { E with act := E.act.map (fun A => A.adv 4) })))

/-! ### The debug window (R370, R391) -/

/-- An item of the debug window. -/
inductive Item where
  | mem (p : Nat)
  | w (i : Nat) | pc | wp | chan | dead | wdcnt | digest | mb (i : Nat) | inn (i : Nat)
  | k (i : Nat) | v (i j : Nat) | spr (n : Nat) | region (i : Nat) | pregion (i : Nat) | binding (q : Nat) | cont (q : Nat)
  | state | weight | combo
  deriving DecidableEq, Repr

/-- The item at a window offset, of a target whose scratchpad has some size. -/
def itemAt (size off : Nat) : Option Item :=
  let o := off - 0x100000
  if off % 8 ≠ 0 then none
  else if off < 0x100000 then (if off + 8 ≤ size then some (.mem off) else none)
  else if o < 0x100 then some (.w (o / 8))
  else if o < 0x130 then [Item.pc, .wp, .chan, .dead, .wdcnt, .digest][(o - 0x100) / 8]?
  else if o < 0x200 then none
  else if o < 0x240 then some (.mb ((o - 0x200) / 8))
  else if o < 0x280 then some (.inn ((o - 0x240) / 8))
  else if o < 0x2C0 then some (.k ((o - 0x280) / 8))
  else if o < 0x400 then none
  else if o < 0x800 then some (.v ((o - 0x400) / 64) ((o - 0x400) / 8 % 8))
  else if o < 0x900 then (if 12 ≤ (o - 0x800) / 8 ∧ (o - 0x800) / 8 ≤ 15 then none else some (.spr ((o - 0x800) / 8)))
  else if o < 0x940 then some (.region ((o - 0x900) / 8))
  else if o < 0x980 then some (.pregion ((o - 0x940) / 8))
  else if o < 0xA00 then none
  else if o < 0xA80 then some (.binding ((o - 0xA00) / 8))
  else if o < 0xB00 then some (.cont ((o - 0xA80) / 8))
  else if o = 0xB00 then some .state
  else if o = 0xB08 then some .weight
  else if o = 0xB10 then some .combo
  else none

/-- May the item be written, on target t? -/
def Item.writable (i : Item) (t : EId) : Bool :=
  match i with
  | .wp => false | .chan => false | .digest => false | .binding _ => false | .cont _ => false | .state => false | .combo => false
  | .spr n => n == 6 || n == 7 || n == 9 || (decide (17 ≤ n) && decide (n ≤ 23))
  | .weight => isCore t
  | _ => true

/-- Does the item need the target to be frozen or stopped in an activation? -/
def Item.ofActivation (i : Item) : Bool :=
  match i with
  | .w _ => true | .pc => true | .wp => true | .chan => true | .dead => true | .wdcnt => true | .digest => true
  | .mb _ => true | .inn _ => true
  | _ => false

/-- Is an element running: it executes an activation, in its normal mode? -/
def State.isRunning (s : State) (e : EId) : Bool := decide ((s.elem e).mode = .normal) && (s.elem e).act.isSome

/-- Is the item available in the target's state? -/
def State.itemOpen (s : State) (t : EId) (i : Item) : Bool :=
  match i with
  | .mem _ => true
  | .state => true
  | i => if i.ofActivation then decide ((s.elem t).mode = .frozen) || decide ((s.elem t).mode = .stoppedIn) else !s.isRunning t

/-- The state word. -/
def State.stateWord (s : State) (t : EId) : Word :=
  let E := s.elem t
  let out : Bool := match s.ctxAt t with | some C => decide (C.switch = .out) | none => false
  let st : Nat :=
    if s.isFenced t then 5
    else if out then 6
    else match E.mode with
    | .frozen => 2
    | .stoppedBetween => 3
    | .stoppedIn => 4
    | .fenced => 5
    | .normal => if E.act.isSome then 1 else 0
  BitVec.ofNat 64 (st + (if s.isComposed t then 2 ^ 3 else 0) + (if s.leads t then 2 ^ 4 else 0) + E.lastFault.toNat * 2 ^ 8)

/-- A binding as a word (R133); zero when unbound. -/
def Chan.bindWord (c : Chan) (q : Nat) : Word :=
  match c.bind with
  | none => 0
  | some b => BitVec.ofNat 64 (q + b.prio.toNat * 2 ^ 8 + (if b.floor then 2 ^ 15 else 0) + b.entry.toNat * 2 ^ 16 +
      b.wp.toNat * 2 ^ 32 + b.rsize.toNat * 2 ^ 48)

/-- KIND of a continuation slot as the window reports it (R193). -/
def ContKind.num : ContKind → Nat
  | .now => 0 | .time _ => 1 | .event _ => 2 | .message => 3 | .barrier => 2 | .cwait _ _ => 2

def Chan.contWord (c : Chan) : Word :=
  match c.cont with
  | none => 0
  | some k => BitVec.ofNat 64 (k.entry.toNat + k.kind.num * 2 ^ 20 + 2 ^ 63)

/-- Read an item. A unit in error reads as a free value (log 4). -/
def State.readItem (s : State) (t : EId) (i : Item) : Word :=
  let E := s.elem t
  let act := fun f : Act → Word => match E.act with | some A => f A | none => 0
  match i with
  | .mem p => leWord (s.deviceReadOwn t p 8)
  | .w i => act (fun A => A.reg (BitVec.ofNat 6 i))
  | .pc => act (·.pc)
  | .wp => sprValue s t E.act 2
  | .chan => sprValue s t E.act 3
  | .dead => sprValue s t E.act 6
  | .wdcnt => sprValue s t E.act 8
  | .digest => sprValue s t E.act 11
  | .mb i => act (fun A => vget 0 A.mb i)
  | .inn i => act (fun A => vget 0 A.inn i)
  | .k i => vget 0 E.k i
  | .v i j => BitVec.ofNat 64 ((vget 0 E.v i).toNat / 2 ^ (64 * j))
  | .spr n => sprValue s t E.act n
  | .region i => vget 0 E.regions i
  | .pregion i => vget 0 E.pregions i
  | .binding q => (s.chan t (s.leads t) q).bindWord q
  | .cont q => (s.chan t (s.leads t) q).contWord
  | .state => s.stateWord t
  | .weight => if isCore t then E.weight.setWidth 64 else 0
  | .combo => E.combo

/-- Does a value break the rules of the register that it is written to? -/
def State.itemBad (s : State) (t : EId) (i : Item) (x : Word) : Bool :=
  match i with
  | .pc => !pcOk s t x.toNat
  | .dead => sprReserved 6 x
  | .wdcnt => sprReserved 8 x
  | .spr n => sprReserved n x
  | .region _ => !regionOk x 0x10000
  | .pregion _ => !regionOk x 0x100000
  | .weight => decide (x.toNat < 1) || decide (16 < x.toNat)
  | _ => false

/-- Replace doubleword j of a vector register. -/
def setVecWord (v : Vec) (j : Nat) (x : Word) : Vec :=
  (v &&& ~~~((BitVec.allOnes 64).setWidth 512 <<< (64 * j))) ||| (x.setWidth 512 <<< (64 * j))

/-- WDCNT := n. -/
def State.setWd (s : State) (A : Act) (n : Nat) : Act :=
  match A.wdHeld with
  | some _ => { A with wdHeld := some n }
  | none => if A.begun then { A with wdStart := (s.time : Int) - n } else { A with wdHeld := some n }

/-- Write an item. -/
def State.writeItem (s : State) (t : EId) (i : Item) (x : Word) : State :=
  let act := fun f : Act → Act => s.updElem t (fun E => { E with act := E.act.map f })
  match i with
  | .mem p => s.deviceWrite s.cur t p (wordBytes x)
  | .w i => act (fun A => A.setReg (BitVec.ofNat 6 i) x)
  | .pc => s.updElem t (fun E => { E with transfer := none, act := E.act.map (fun A => { A with pc := x }) })
  | .dead => act (fun A => A.setDead (x.setWidth 32))
  | .wdcnt => act (fun A => s.setWd A x.toNat)
  | .mb i => act (fun A => { A with mb := vset A.mb i x })
  | .inn i => act (fun A => { A with inn := vset A.inn i x })
  | .k i => s.updElem t (fun E => { E with k := vset E.k i x })
  | .v i j => s.updElem t (fun E => { E with v := vset E.v i (setVecWord (vget 0 E.v i) j x) })
  | .spr n =>
    if n = 6 then act (fun A => A.setDead (x.setWidth 32))
    else if n = 7 then s.updElem t (fun E => { E with wdlim := x.setWidth 32 })
    else if n = 9 then s.updElem t (fun E => E.setAllow x)
    else s.updElem t (fun E => { E with wcfg := vset E.wcfg (n - 16) x })
  | .region i => s.updElem t (fun E => { E with regions := vset E.regions i x })
  | .pregion i => s.updElem t (fun E => { E with pregions := vset E.pregions i x })
  | .weight => s.updElem t (fun E => { E with weight := x.setWidth 5 })
  | _ => s

/-- The checks of R391 on an access to a window, up to the availability of the item. -/
def windowItem (s : State) (a off : Word) (t : EId) (wr : Bool) : Except Flt Item :=
  match itemAt (s.ownSize t) off.toNat with
  | none => .error { code := 0x78, faddr := off, extra := off }
  | some i =>
    if wr && !i.writable t then .error { code := 0x78, faddr := off, extra := off }
    else if s.isFenced t && i != .state then .error { code := 0x79, faddr := a, extra := 3 }
    else if !s.itemOpen t i then .error { code := 0x79, faddr := a, extra := 1 }
    else .ok i

/-- Has a debug window been silent for 65,536 clocks since the instruction was issued (R391)? -/
def State.gaveUp (s : State) : Bool := decide ((s.elem s.cur).since + 65536 ≤ s.time)

/-- An access to a window that waits while the target is silent: code 0x79 with reason 2 after 65,536 clocks. -/
def withAnswer (s : State) (a : Word) (t : EId) (k : Host.Outcome State Fault Refusal) : Host.Outcome State Fault Refusal :=
  if !(s.elem t).silent then k
  else if s.gaveUp then badState s a 2
  else stall s

/-- The element whose scratchpad holds byte p of the window of t: t, or a member of the frond that t leads (R348, R370). -/
def State.windowHolder (s : State) (t : EId) (p : Nat) : EId := (rawOf s t (.own p)).1

/-- DBGRD. Of a running target's scratchpad it behaves as RLD (R170): it follows the posted writes of the supervisor to the scratchpad that
holds the bytes, another member's on the leader of a running frond, as rldNow does (log 67). -/
def execDbgrd (d a b : Reg) (s : State) : Host.Outcome State Fault Refusal :=
  withTarget (.dbgrd d a b) s a (fun A t =>
    match windowItem s (A.reg a) (A.reg b) t false with
    | .error f => finish (s, some f)
    | .ok i => withAnswer s (A.reg a) t (
      match i, s.isRunning t with
      | .mem p, true =>
        if !(s.postedTo s.cur (s.windowHolder t p)).isEmpty then stall s
        else if (poisonIn s (s.ownKey t p) 8).isSome then
          faultNow s 0x18 (A.reg a + BitVec.ofNat 64 p) (MemX.word { size := 8, ptag := ptagOf (A.reg a) })
        else retire s (A.setReg d (s.readItem t i)) 4
      | i, _ => retire s (A.setReg d (s.readItem t i)) 4))

def execDbgwr (d a b : Reg) (s : State) : Host.Outcome State Fault Refusal :=
  withTarget (.dbgwr d a b) s a (fun A t =>
    match windowItem s (A.reg a) (A.reg b) t true with
    | .error f => finish (s, some f)
    | .ok i =>
      let x := A.reg d
      if s.itemBad t i x then faultNow s 0x78 (A.reg b) x
      else withAnswer s (A.reg a) t <| retire (s.writeItem t i x) (((s.writeItem t i x).act).getD A) 4)

/-! ### THAW, RETIRE, HALT (R392, R399, R401) -/

def execThaw (a b : Reg) (s : State) : Host.Outcome State Fault Refusal :=
  withTarget (.thaw a b) s a (fun A t =>
    let x := A.reg b
    let m := (s.elem t).mode
    if fld x 63 2 ≠ 0 then faultNow s 0x78 0 x
    else if s.isFenced t then badState s (A.reg a) 3
    else if m = .frozen ∨ m = .stoppedBetween ∨ m = .stoppedIn then retire (s.thaw t (x.getLsbD 0) (x.getLsbD 1)) A 4
    else badState s (A.reg a) 1)

/-- Drop the activation of an element without write-back; an evaluation so lost fails its cell (R253, R392). It has ended (R89), so that
DGRD reads its digest (R396; log 38). -/
def State.retireAct (s : State) (t : EId) (host : Bool) : State :=
  match (s.elem t).act with
  | none => s
  | some A =>
    let ctx := (s.ctxOf t).getD 0
    let s1 := if host then
        let ws := [0x0017, BitVec.ofNat 64 t, sprValue s t (some A) 3, A.pc, (s.elem t).lastFault.setWidth 64, 0, 0, 0]
        s.inject ctx t (some hostLink) (.hostRec ws { credit := none, notice := none, cmd := none })
      else s
    let s2 := match A.msg with
      | some m => s1.evalLost ctx t m 2 0
      | none => s1
    let s3 := (s2.dropAct t).updElem t (fun E => { E with
      lastD := A.digest
      mode := match E.mode with | .stoppedIn => .stoppedBetween | _ => .normal })
    (s3.traceNote t 2 0 (some A)).stopBetween t

def execRetire (a b : Reg) (s : State) : Host.Outcome State Fault Refusal :=
  withTarget (.retire a b) s a (fun A t =>
    let x := A.reg b
    let m := (s.elem t).mode
    if fld x 63 1 ≠ 0 then faultNow s 0x78 0 x
    else if s.isFenced t then badState s (A.reg a) 3
    else if m = .frozen ∨ m = .stoppedIn then retire (s.retireAct t (x.getLsbD 0)) A 4
    else badState s (A.reg a) 1)

def execHalt (d a : Reg) (s : State) : Host.Outcome State Fault Refusal :=
  withTarget (.halt d a) s a (fun A t =>
    if s.isFenced t || decide ((s.elem t).mode ≠ .normal) then retire s (A.setReg d 1) 4
    else
      let s1 := (s.updElem t (fun E => { E with haltReq := true })).stopBetween t
      retire s1 (A.setReg d 0) 4)

/-- DEBUG_STOP: a requested stop takes effect once no activation runs (R399). -/
def execDebugStop (e : EId) (s : State) : Host.Outcome State Fault Refusal :=
  .next (if (s.elem e).haltReq && decide ((s.elem e).mode = .normal) then s.stopBetween e else s)

/-! ### Time and scheduling (R393, R394) -/

def execTime (d : Reg) (s : State) : Host.Outcome State Fault Refusal :=
  withAct s (fun A => retire s (A.setReg d (BitVec.ofNat 64 s.time)) 4)

def execTimeAr (d : Reg) (s : State) : Host.Outcome State Fault Refusal :=
  withAct s (fun A =>
    if s.fenceHolds s.cur 3 then stall s
    else retire (s.addMark s.cur 3) (A.setReg d (BitVec.ofNat 64 s.time)) 4)

def execSwsched (d a b : Reg) (s : State) : Host.Outcome State Fault Refusal :=
  withSup (.swsched d a b) s (fun A =>
    let t := A.reg a
    let x := A.reg b
    let C := (s.ctxAt s.cur).getD (Ctx.blank [] [])
    if 1 < x.toNat then faultNow s 0x78 0 x
    else if x.toNat = 1 then
      if C.switchAt.isSome && C.switchYield then
        retire (s.updCtx s.ctxNo (fun C => { C with switchAt := none, switchYield := false })) (A.setReg d 0) 4
      else retire s (A.setReg d 3) 4
    else if C.switchAt.isSome then retire s (A.setReg d 1) 4
    else if t.toNat < s.time % 2 ^ 64 + 1800 then retire s (A.setReg d 2) 4
    else retire (s.updCtx s.ctxNo (fun C => { C with switchAt := some t.toNat, switchYield := true })) (A.setReg d 0) 4)

/-! ### Fencing (R359, R362, R369, R373, R395) -/

/-- FENCE an element: its activation, or its frond's, is abandoned without write-back and never runs on; its matrix
commands end; a frond still joining is given up; report 0x75 names the element, and its frond where it is composed into one. -/
def State.fence (s : State) (e : EId) (how : Nat) : State :=
  let ctx := (s.ctxOf e).getD 0
  let group := match s.fronds.find? (fun f => f.composed && f.members.contains e) with
    | some f => f.members
    | none => [e]
  let s1 := { s with fronds := s.fronds.filter (fun f => f.composed || (f.releasing && f.leader != e) || !f.members.contains e) }
  let s2 := s1.updElem e (fun E => { E with mode := .fenced, haltReq := false, stepReq := false })
  let s3 := group.foldl (fun s m =>
    (s.updElem m (fun E => { E with stalled := false, transfer := none, issued := none })).fenceMatrix m) s2
  let r := s.ownerOf e
  let n := (s3.elem r).pseq + 1
  let p : Packet := {
    code := 0x75, kind := 2, coord := r, frond := s.frondOnly r, faddr := BitVec.ofNat 64 e, extra := BitVec.ofNat 64 how, pseq := n.toNat }
  ((s3.updElem r (fun E => { E with pseq := n })).sendPacket ctx r false (p.words ctx s.time)).traceNote e 0 0 none

def execFencec (d a : Reg) (s : State) : Host.Outcome State Fault Refusal :=
  withTarget (.fencec d a) s a (fun A t =>
    if t = s.cur then faultNow s 0x78 0 (A.reg a)
    else if s.isFenced t then retire s (A.setReg d 1) 4
    else retire (s.fence t 1) (A.setReg d 0) 4)

/-- DEVICE_FENCE: the device fences an element of a context whose control logic errs (R369). -/
def execDeviceFence (e : EId) (s : State) : Host.Outcome State Fault Refusal :=
  .next (if (s.ctxOf e).isNone || s.isFenced e then s else s.fence e 2)

/-! ### Remapping (R11, R359, R374) -/

/-- The next spare sorus of a die, which holds sixteen, beyond those that a remap table uses. -/
def spareOf (remap : List (Nat × Nat)) (die : Nat) : Option Nat :=
  let used := (remap.filter (fun p => p.1 / 256 == die)).length
  if used < 16 then some used else none

/-- Is a spare sorus left on the die? -/
def State.spareLeft (s : State) (die : Nat) : Option Nat := spareOf s.pkg.remap die

/-- The abandoned activation of an element: its message goes back to the head of its holding queue (R374); a frond's first
activation, and one that a continuation started, are to start again (R359). It has ended (R89), so that DGRD reads its digest (R396;
log 38). -/
def State.restoreAct (s : State) (e : EId) : State :=
  match (s.elem e).act with
  | none => s
  | some A =>
    let s1 :=
      if A.frond && A.cont then s.updFrond e (fun f => if f.starts = 1 then { f with starts := 0 } else { f with restart := some A })
      else match A.msg with
      | some m => s.updChan e A.frond A.chan.toNat (fun c => { c with queue := m :: c.queue })
      | none => s
    s1.updElem e (fun E => { E with act := none, lastD := A.digest, mode := match E.mode with | .fenced => .fenced | _ => .normal })

/-- Lift the fence of an element at its new place. -/
def State.unfence (s : State) (e : EId) : State :=
  if (s.elem e).mode ≠ .fenced then s
  else
    let s1 := match s.fronds.find? (fun f => f.composed && f.members.contains e) with
      | some f => s.restoreAct f.leader
      | none => s
    (s1.restoreAct e).updElem e (fun E => { E with mode := .normal })

/-- A fenced element of a load in progress is reloaded from a root after its remap: it receives every chunk again, and its
bindings are made again (R82). -/
def State.reload (s : State) (e : EId) : State :=
  let ctx := (s.ctxOf e).getD 0
  match ((tget s.ctxs ctx).bind (·.load)).bind (fun L => if L.posted then none else tget L.chunks e) with
  | none => s
  | some l =>
    (s.updElem e (fun E => { E with
      chans := Vector.ofFn (fun i : Fin 16 => { vget Chan.reset E.chans i.val with bind := none }) })).updCtx ctx (fun C => { C with
        load := C.load.map (fun L => { L with pending := tset L.pending e l, complete := L.complete.filter (· != e) }) })

/-- The copy of a fenced core's scratchpad: a 64-byte line with an uncorrectable error cannot be read and is copied poisoned (R374). -/
def State.copyLines (s : State) (e : EId) : State :=
  { s with poison := s.poison.foldl (fun l k =>
      if k < 2 ^ 60 ∧ k / 65536 = e then (List.range 8).foldl (fun l i => sinsert l (k / 64 * 64 + 8 * i)) l else l) s.poison }

/-- A member of a remapped sorus at its new place: the fence is lifted, its debug window answers, a fenced one's scratchpad is
copied, its slots are FREE and its tiles unconfigured, and a load goes on (R82, R278, R374, R391). -/
def State.moveMember (s : State) (e : EId) : State :=
  let down := (s.elem e).mode = .fenced
  let s1 := (s.unfence e).updElem e (fun E => { E with silent := false })
  if down then ((s1.copyLines e).freeMatrix e).reload e else s1

/-- The sorus that REMAP of a fenced core moves: its own or, where its frond counts as fenced for a member of the other sorus,
the sorus of that member (R359, R374). -/
def State.remapSorus (s : State) (t : EId) : Nat :=
  let down := fun e : EId => decide ((s.elem e).mode = .fenced)
  if (sorusCores (sorusOf t)).any down then sorusOf t
  else match (s.frondWith t).bind (fun f => f.members.find? down) with
    | some m => sorusOf m
    | none => sorusOf t

def execRemap (d a : Reg) (s : State) : Host.Outcome State Fault Refusal :=
  withTarget (.remap d a) s a (fun A t =>
    if isMemCore t then retire s (A.setReg d 3) 4
    else
      let so := s.remapSorus t
      let ms := sorusCores so
      if !s.isFenced t then retire s (A.setReg d 2) 4
      else match s.spareLeft (eDie t) with
      | none => retire s (A.setReg d 1) 4
      | some n =>
        if ms.any (fun m => (s.elem m).mq.any Cmd.running) then stall s
        else
          let s1 := { s with pkg := { s.pkg with remap := (so, n) :: s.pkg.remap } }
          retire (ms.foldl State.moveMember s1) (A.setReg d 0) 4)

/-! ### Digests (R396) -/

def execDgrd (d b : Reg) (s : State) : Host.Outcome State Fault Refusal :=
  withAct s (fun A =>
    let v := match b.toNat with | 0 => A.digest | 1 => (s.elem s.cur).combo | _ => (s.elem s.cur).lastD
    retire s (A.setReg d v) 4)

/-- 0 when COMBO is the expected value, otherwise 1. -/
def comboDiffers (s : State) (A : Act) (a : Reg) : Bool := (s.elem s.cur).combo != A.reg a

def execDgchk (d a : Reg) (s : State) : Host.Outcome State Fault Refusal :=
  withAct s (fun A => retire s (A.setReg d (boolWord (comboDiffers s A a))) 4)

def execDgchkFlt (d a : Reg) (s : State) : Host.Outcome State Fault Refusal :=
  withAct s (fun A => if comboDiffers s A a then faultNow s 0x72 0 (s.elem s.cur).combo else retire s (A.setReg d 0) 4)

/-! ### Tracing (R386, R397) -/

/-- At most 4 KiB of bytes from an address on, cut where a page of the smallest size ends (R291). -/
def pageParts (va : Nat) (bs : List Byte) : List (Nat × List Byte) :=
  let n := 4096 - va % 4096
  if bs.length ≤ n then [(va, bs)] else [(va, bs.take n), (va + n, bs.drop n)]

/-- Store bytes of one page at a device virtual address of a context, by a walk; where no page maps it nothing is stored. -/
def State.pageWrite (s : State) (C : Ctx) (va : Nat) (bs : List Byte) : State :=
  match walk s C va 3 C.root with
  | .ok t =>
    if s.barred C.key (hbmKey (t.phys va)) bs.length then s
    else
    let s1 := clearPoison s (hbmKey (t.phys va)) bs.length
    { s1 with mem := memWrite s1.mem (hbmKey (t.phys va)) bs }
  | .error _ => s

/-- Store bytes at a device virtual address of a context, each page by a walk of its own. -/
def State.ctxWrite (s : State) (C : Ctx) (va : Nat) (bs : List Byte) : State :=
  (pageParts va bs).foldl (fun s p => s.pageWrite C p.1 p.2) s

/-- A record of the collector's own: the spec names no element for it, so its STATE, DELTA and COORD are free (log 4). -/
def State.ownRec (s : State) (kind hi : Nat) : TraceRec :=
  let x := s.free kind
  traceRec (fld x 2 0) kind (fld x 39 8) 0 (fld x 63 48) hi

/-- Write one record into an open session's buffer of context ctx; a full buffer that does not wrap loses it. -/
def State.writeRec (s : State) (die ctx : Nat) (r : TraceRec) : State :=
  match tget s.ctxs ctx with
  | none => s
  | some C => match C.trace with
    | none => s
    | some T =>
      if !T.wrap && decide (2 ^ T.log2 < T.w + 16) then
        { s with pkg := { s.pkg with traceLost := tset s.pkg.traceLost (die * 64 + ctx) ((tget s.pkg.traceLost (die * 64 + ctx)).getD 0 + 1) } }
      else
        (s.ctxWrite C (T.base + 64 + T.w % 2 ^ T.log2) (leBytes 16 r.toNat)).updCtx ctx (fun C => { C with
          trace := C.trace.map (fun T => { T with w := T.w + 16 }) })

/-- Store W of a context's session. -/
def State.writeTraceW (s : State) (ctx : Nat) : State :=
  match tget s.ctxs ctx with
  | none => s
  | some C => match C.trace with
    | none => s
    | some T => s.ctxWrite C T.base (wordBytes (BitVec.ofNat 64 T.w))

/-- The collector of a die writes the records it holds for a context in their order, then those it lost as one record. -/
def State.flushTrace (s : State) (die ctx : Nat) : State :=
  let l := vget [] s.pkg.collectors die
  let s1 := { s with pkg := { s.pkg with collectors := vset s.pkg.collectors die (l.filter (fun p => p.1 != ctx)) } }
  let s2 := (l.filter (fun p => p.1 == ctx)).foldl (fun s p => s.writeRec die ctx p.2) s1
  let lost : Nat := (tget s2.pkg.traceLost (die * 64 + ctx)).getD 0
  let room : Bool := match (tget s2.ctxs ctx).bind (·.trace) with
    | some T => T.wrap || decide (T.w + 16 ≤ 2 ^ T.log2)
    | none => false
  let s3 := if decide (lost ≠ 0) && room then
      { s2 with pkg := { s2.pkg with traceLost := tdel s2.pkg.traceLost (die * 64 + ctx) } }.writeRec die ctx (s2.ownRec 7 lost)
    else s2
  s3.writeTraceW ctx

/-- Close a session: the collectors write what they hold, a last record of a KIND, and W. -/
def State.closeTrace (s : State) (ctx kind : Nat) : State :=
  let s1 := ((s.flushTrace 0 ctx).flushTrace 1 ctx)
  let s2 := (s1.writeRec 0 ctx (s1.ownRec kind s1.time)).writeTraceW ctx
  let s3 := s2.updCtx ctx (fun C => { C with trace := none })
  { s3 with pkg := { s3.pkg with traceLost := tdel (tdel s3.pkg.traceLost ctx) (64 + ctx) } }

/-- TRACE_COLLECTOR_WRITE: the collector of a die writes the records it holds, of every context (R386). -/
def execTraceCollectorWrite (die : Nat) (s : State) : Host.Outcome State Fault Refusal :=
  .next (s.ctxs.foldl (fun s p => if p.2.trace.isSome then s.flushTrace die p.1 else s) s)

/-- Every traced element of a context writes a KIND 4 record; when the session opens it has no earlier record. -/
def State.traceStart (s : State) (ctx : Nat) (opens : Bool) : State :=
  match tget s.ctxs ctx with
  | none => s
  | some C => match C.trace with
    | none => s
    | some T => (C.scopeMembers T.opener T.scope).foldl (fun s e =>
        let d := s.time - (s.elem e).traced
        (s.collect (eDie e) ctx (traceRec (s.traceState e) 4 (if opens || decide (2 ^ 32 ≤ d) then 0 else d) 0 e s.time)).updElem e
          (fun E => { E with traced := s.time, tstate := s.traceState e })) s

def execTron (d a b : Reg) (s : State) : Host.Outcome State Fault Refusal :=
  withSup (.tron d a b) s (fun A =>
    let x := A.reg a
    let y := A.reg b
    if apOf x ≠ 8 ∨ fld x 59 52 ≠ 0 ∨ fld x 11 0 ≠ 0 then faultNow s 0x78 0 x
    else if fld y 4 0 < 12 ∨ 30 < fld y 4 0 ∨ fld y 7 6 ≠ 0 ∨ fld y 63 13 ≠ 0 then faultNow s 0x78 0 y
    else if (match s.ctxAt s.cur with | some C => C.trace.isSome | none => false) then retire s (A.setReg d 1) 4
    else
      let T : TraceSession := {
        base := fld x 51 0, log2 := fld y 4 0, wrap := y.getLsbD 5, scope := fld y 12 8, opener := s.cur, w := 0 }
      retire ((s.updCtx s.ctxNo (fun C => { C with trace := some T })).traceStart s.ctxNo true) (A.setReg d 0) 4)

def execTroff (d : Reg) (s : State) : Host.Outcome State Fault Refusal :=
  withSup (.troff d) s (fun A =>
    match (s.ctxAt s.cur).bind (·.trace) with
    | none => retire s (A.setReg d 0) 4
    | some _ =>
      let s1 := (s.flushTrace 0 s.ctxNo).flushTrace 1 s.ctxNo
      let s2 := s1.writeRec 0 s.ctxNo (s1.ownRec 5 s1.time)
      let w := match (s2.ctxAt s.cur).bind (·.trace) with | some T => T.w | none => 0
      retire (s.closeTrace s.ctxNo 5) (A.setReg d (BitVec.ofNat 64 w)) 4)

/-! ### Breakpoints (R388, R398) -/

/-- The breakpoint word's reserved bits are zero, and with RESUME every field but SHEET. -/
def bkptOk (x : Word) : Bool :=
  !x.getLsbD 5 && decide (fld x 15 13 = 0) && decide (fld x 31 24 = 0) && decide (fld x 63 52 = 0) &&
  (!x.getLsbD 4 || (decide (fld x 3 0 = 0) && decide (fld x 63 12 = 0)))

def execBkpt (d a : Reg) (s : State) : Host.Outcome State Fault Refusal :=
  withSup (.bkpt d a) s (fun A =>
    let x := A.reg a
    let n := fld x 11 6
    if !bkptOk x then faultNow s 0x78 0 x
    else if x.getLsbD 4 then
      if (match s.sheet s.ctxNo n with | some S => S.halted.isSome | none => false) then
        retire (s.updSheet s.ctxNo n (fun S => S.resume)) (A.setReg d 0) 4
      else retire s (A.setReg d 1) 4
    else retire (s.updCtx s.ctxNo (fun C => { C with bkpts := vset C.bkpts (fld x 1 0) x })) (A.setReg d 0) 4)

end Sys2Proof.Machine
end

