-- ==== Sys2Proof/Machine/Device.lean ====
section
/-!
DEFINITION. Events of the device: gang switches, reports, errors, the watchdog, and the package's own reset (R23–R25, R96,
R98, R157, R368, R375–R379, R412, R420, R422).
-/
namespace Sys2Proof.Machine

/-! ### Frames from the host (R330, R341, R412) -/

/-- Post a frame to a stream of a context as SFRAME does: the state, or the reason for which it is refused. -/
def State.hostFrame (s : State) (ctx sn : Nat) (bs : List Byte) : State × Option Nat :=
  match s.stream sn with
  | none => (s, some 4)
  | some st =>
    if st.ctx ≠ ctx ∨ (frameFault (recWord bs)).isSome = true then (s, some 4)
    else if st.tmpl.fq ≤ st.frames then (s, some 5)
    else (s.acceptFrame sn st (frameEvent (recWord bs)), none)

/-- Post a frame that carries a TAG; a refusal is reported with it (R414). -/
def State.takeFrame (s : State) (ctx : Nat) (tag : BitVec 32) (sn : Nat) (bs : List Byte) : State :=
  match s.hostFrame ctx sn bs with
  | (t, some r) => t.complete ctx 3 tag (BitVec.ofNat 64 r) 0 0 []
  | (t, none) => t

/-! ### Gang switches (R375–R379) -/

/-- GANG_SWITCH: at T the partition of a context stops; an instruction that stalls is completed first. The clock takes this event at
T itself. -/
def execGangSwitch (ctx : Nat) (s : State) : Host.Outcome State Fault Refusal :=
  match tget s.ctxs ctx with
  | none => .next s
  | some C => .next (if C.switchDue s.time then s.gangStop ctx C else s)

/-- Does a matrix unit still run a command or a share of a context's core (R277)? -/
def State.matrixWaits (s : State) (e : EId) : Bool :=
  (s.elem e).mq.any (fun c => c.running && (c.shares.isEmpty || c.shares.any (fun h => match h.state with | .running _ => true | _ => false)))

/-- Count the flights of a context as ended where they stand, or as injected again (R377). -/
def State.countParked (s : State) (ctx dSent dRcvd : Nat) : State :=
  (s.fabric.filter (fun f => f.ctx == ctx)).foldl (fun s f => s.count ctx (f.dst.getD f.src) dSent dRcvd) s

/-- SWITCH_SAVE: once no element is stalled and every flit is parked, the context is switched out. Its state stays where it
stands: contexts never share a sorus, and the save area is reached by the management core alone (R378). -/
def execSwitchSave (ctx : Nat) (s : State) : Host.Outcome State Fault Refusal :=
  match tget s.ctxs ctx with
  | none => .next s
  | some C =>
    if C.switch ≠ .stopping ∨ C.elems.any (fun e => s.completesFirst e || s.matrixWaits e) = true then .next s
    else
      let s1 := (C.elems.foldl (State.stopElem s.time) s).countParked ctx 0 1
      .next (s1.updCtx ctx (fun C => { C with switch := .out }))

/-- SWITCH_RESUME: the parked flits are injected again, the frames posted meanwhile are accepted in their order, and the
elements go on (R330, R379). -/
def execSwitchResume (ctx : Nat) (s : State) : Host.Outcome State Fault Refusal :=
  match tget s.ctxs ctx with
  | none => .next s
  | some C =>
    if C.switch ≠ .out then .next s
    else
      let s1 := (s.countParked ctx 1 0).updCtx ctx (fun C => { C with switch := .running, parkedFrames := [] })
      let s2 := C.parkedFrames.foldl (fun s p => s.takeFrame ctx p.1 p.2.1 p.2.2) s1
      let go := fun (s : State) (e : EId) => s.updElem e (fun E =>
        if E.mode = .stoppedIn then E else { E with act := E.act.map s.releaseWd })
      .next ((C.elems.foldl go s2).traceStart ctx false)

/-! ### Reports (R368) -/

/-- Deliver a report: to the host, or to the supervisor's q15, which waits while the supervisor is fenced or has no room. -/
def State.deliverReport (s : State) (ctx : Nat) (C : Ctx) (r : Report) : Option State :=
  if r.toHost || C.sup.isNone then some (s.escalate ctx r.words.toList)
  else (s.supOk ctx).bind (fun e => s.enqueue e 15 { kind := .packet, words := r.words, region := false })

/-- The oldest report that can be delivered and that no earlier one of its engine precedes: the state after its delivery, and the
reports that are left. -/
def State.deliverFirst (s : State) (ctx : Nat) (C : Ctx) : List EId → List Report → Option (State × List Report)
  | _, [] => none
  | seen, r :: rs =>
    match (if seen.contains r.engine then none else s.deliverReport ctx C r) with
    | some t => some (t, rs)
    | none => (s.deliverFirst ctx C (r.engine :: seen) rs).map (fun x => (x.1, r :: x.2))

/-- ENGINE_REPORT_DELIVER: a report of a context's queue is delivered as room returns, those of one engine in the order raised. -/
def execEngineReportDeliver (ctx : Nat) (s : State) : Host.Outcome State Fault Refusal :=
  match tget s.ctxs ctx with
  | none => .next s
  | some C =>
    if C.switch ≠ .running then .next s
    else match s.deliverFirst ctx C [] C.reports with
    | none => .next s
    | some (t, rs) => .next (t.updCtx ctx (fun C => { C with reports := rs }))

/-! ### Errors (R23, R157, R273) -/

/-- UNCORRECTABLE_DATA_ERROR: a unit comes to hold an uncorrectable error. -/
def execUncorrectableDataError (site : EccSite) (s : State) : Host.Outcome State Fault Refusal :=
  let key : Nat := match site with
    | .scratch e off => scratchKey e (off % 65536 / 8 * 8)
    | .hbm pa => hbmKey (pa % 2 ^ 52 / 32 * 32)
    | .slot sorus slot byte => slotKey (sorus % 512) (slot % 128) (byte % 2048)
    | .tile e t elem => tileKey e (t % 4) (elem % 1024 * 4)
  .next { s with poison := sinsert s.poison key }

/-- The clocks of this step that an element spends in a replay: those before T, where a gang switch stops it within the step and
WDCNT holds from T on (R96, R375). -/
def State.replayClocks (s : State) (e : EId) : Nat :=
  let dt := 1 + Config.elapsed s.stepNo
  match (s.ctxAt e).bind (fun C => if C.switch = .running then C.switchAt else none) with
  | some T => if s.completesFirst e then dt else Nat.min dt (T - s.time)
  | none => dt

/-- TIMING_REPLAY: an instruction is replayed before its results are visible; EVC0 counts it, and WDCNT does not count its
clocks. -/
def execTimingReplay (e : EId) (s : State) : Host.Outcome State Fault Refusal :=
  if isElem e then
    let dt := s.replayClocks e
    .next (s.updElem e (fun E => { E with
      evc := vset E.evc 0 (vget 0 E.evc 0 + 1)
      act := if E.mode = .normal then E.act.map (fun A =>
        match A.wdHeld with | none => { A with wdStart := A.wdStart + dt } | some _ => A) else E.act }))
  else .next s

/-! ### Time (R96, R98) -/

/-- CONTINUATION_TIME: TIME has reached the value of an armed TIME continuation, which is ready from then on. -/
def execContinuationTime (e : EId) (q : BitVec 4) (s : State) : Host.Outcome State Fault Refusal :=
  let fr := s.leads e
  match (s.chan e fr q.toNat).cont with
  | some { kind := .time t, fired := none, entry := entry } =>
    if t.toNat ≤ s.time then
      .next (s.updChan e fr q.toNat (fun c => { c with cont := some { entry := entry, kind := .time t, fired := some (words8 []) } }))
    else .next s
  | _ => .next s

/-- WATCHDOG: WDCNT has reached WDLIM, and the element freezes before its next instruction issues. -/
def execWatchdog (e : EId) (s : State) : Host.Outcome State Fault Refusal :=
  match (s.elem e).act with
  | none => .next s
  | some A =>
    if s.mayIssue e && !(s.elem e).stalled && s.watchdogDue e A then
      .next (s.takeFault e { code := 0x70, faddr := 0, extra := BitVec.ofNat 64 (s.wdcnt A) })
    else .next s

/-! ### The package (R11, R24, R25, R420, R422) -/

/-- Give a sorus the next spare of its die, where one of its sixteen is left (R11). -/
def assignSpare (remap : List (Nat × Nat)) (so : Nat) : List (Nat × Nat) :=
  match spareOf remap (so / 256) with
  | some n => (so, n) :: remap
  | none => remap

/-- The package identity (R421). -/
def packageIdentity : Word := 0x5824000000000000#64 ||| Config.serial.setWidth 64

/-- A hash of 512 bits that the boot ROM forms; the spec gives no value (log 4). -/
def State.freeHash (s : State) (i : Nat) : Vector Word 8 := Vector.ofFn (fun j : Fin 8 => s.free (2 ^ 41 + 8 * i + j.val))

/-- PACKAGE_RESET: every context goes, the package's memories are zero, TIME restarts; soruses that fail the power-on test are
placed on spares; the host mailbox is enabled when the boot ROM accepts the firmware and the configuration record: signed, and
its counter not below the secure element's. -/
def execPackageReset (sigOk : Bool) (counter : Nat) (s : State) : Host.Outcome State Fault Refusal :=
  let ok := sigOk && decide (s.pkg.counter ≤ counter)
  .next { State.reset with
    mem := s.mem.filter (fun p => isHostKey p.1)
    hostErrors := s.hostErrors
    turns := s.turns
    stepNo := s.stepNo
    nextId := s.nextId
    pkg := { Package.reset with
      mailbox := ok
      counter := s.pkg.counter
      failing := s.pkg.failing
      remap := if ok then s.pkg.failing.foldl assignSpare [] else []
      firmware := s.freeHash 0
      config := s.freeHash 1 } }

/-- The management core signs an attestation report: the hashes of the firmware and the configuration record, the package
identity and the host's nonce (R420). -/
def State.attestation (s : State) (nonce : List Word) : List Word :=
  let report := s.pkg.firmware.toList ++ s.pkg.config.toList ++ [packageIdentity] ++ nonce
  report ++ Config.sign report

/-- PACKAGE_POWER_LIMIT: power control gates idle soruses and delays issue; that changes timing, never results. -/
def execPackagePowerLimit (s : State) : Host.Outcome State Fault Refusal :=
  .next s

end Sys2Proof.Machine
end

