-- ==== Sys2Proof/Machine/Loader.lean ====
section
/-!
DEFINITION. Linked images and their loading: the IKO file, the checks of R80, the translation, and the load ports
(R56–R83, R360, R402, R416).
-/
namespace Sys2Proof.Machine

/-! ### The file (R58–R63) -/

/-- The little-endian number of n bytes at an offset of a file. -/
def imgN (im : List Byte) (off n : Nat) : Nat := leNat ((im.drop off).take n)

/-- Bits [hi:lo] of a number. -/
def bitsN (x hi lo : Nat) : Nat := x / 2 ^ lo % 2 ^ (hi + 1 - lo)

/-- A section-table entry (R60). -/
structure Sect where
  type : Nat
  role : Nat
  flags : Nat               -- [0] X, [1] W, [2] LOAD, [3] ZERO
  spare : Bool              -- a reserved bit is set
  offset : Nat
  size : Nat
  addr : Nat
  link : Nat
  align : Nat
  deriving DecidableEq, Repr

def sectAt (im : List Byte) (i : Nat) : Sect :=
  let x := imgN im (imgN im 8 4 + 32 * i) 32
  { type := bitsN x 15 0, role := bitsN x 31 16, flags := bitsN x 35 32, spare := bitsN x 63 36 != 0 || bitsN x 255 216 != 0,
    offset := bitsN x 127 64, size := bitsN x 159 128, addr := bitsN x 191 160, link := bitsN x 207 192, align := bitsN x 215 208 }

def sects (im : List Byte) : List Sect := (List.range (imgN im 12 2)).map (sectAt im)

/-- The section of a type and role; 0xFFFF is the whole file. -/
def sectOf (im : List Byte) (type role : Nat) : Option Sect := (sects im).find? (fun x => x.type == type && x.role == role)

/-- The bytes of a section: those of the file, or zeros; zeros also where neither or both of LOAD and ZERO are set, of which R60 says
nothing (log 44). -/
def Sect.bytes (im : List Byte) (x : Sect) : List Byte :=
  if x.flags / 4 % 2 = 1 ∧ x.flags / 8 % 2 = 0 then (im.drop x.offset).take x.size else List.replicate x.size 0

def chunksOf (n : Nat) : Nat → List Byte → List (List Byte)
  | 0, _ => []
  | f + 1, l => if l.isEmpty then [] else l.take n :: chunksOf n f (l.drop n)

/-- The entries of a section of the file, as lists of n bytes. -/
def entries (im : List Byte) (type role n : Nat) : List (List Byte) :=
  match sectOf im type role with
  | some x => let bs := x.bytes im; chunksOf n bs.length bs
  | none => []

def wholeFile : Nat := 0xFFFF

/-- A role (R57, R62). -/
structure Role where
  kind : Nat
  log2n : Nat
  size : Nat
  spare : Bool
  deriving DecidableEq, Repr

def roleOf (bs : List Byte) : Role :=
  let x := leNat bs
  { kind := bitsN x 35 32, log2n := bitsN x 39 36, size := bitsN x 71 40, spare := bitsN x 127 72 != 0 }

def roles (im : List Byte) : List Role := (entries im 0x0F wholeFile 16).map roleOf
def Role.none : Role := { kind := 15, log2n := 0, size := 0, spare := false }
def roleAt (im : List Byte) (i : Nat) : Role := (roles im).getD i Role.none
/-- Image limit of a role (R57). -/
def Role.limit (r : Role) : Nat := if r.kind = 2 then 2 ^ r.log2n * 65536 else 65536

/-- A placement (R64). -/
structure Place64 where
  role : Nat
  rect : Rect
  spare : Bool
  deriving DecidableEq, Repr

def placeOf (bs : List Byte) : Place64 :=
  let x := leNat bs
  { role := bitsN x 15 0, rect := { die := bitsN x 16 16, x0 := bitsN x 23 17, y0 := bitsN x 29 24, w := bitsN x 38 32, h := bitsN x 45 39 },
    spare := bitsN x 31 30 != 0 || bitsN x 63 46 != 0 || bitsN x 127 96 != 0 }

def placements (im : List Byte) : List Place64 := (entries im 0x10 wholeFile 16).map placeOf

/-- A boot-tree edge (R66): parent and child as the file writes them, and MASK. -/
structure Edge where
  parent : Nat
  child : Nat
  mask : Nat
  spare : Bool
  deriving DecidableEq, Repr

def edgeOf (bs : List Byte) : Edge :=
  let x := leNat bs
  let p := bitsN x 15 0
  { parent := p, child := bitsN x 31 16, mask := bitsN x 127 64,
    spare := (p != 0xFFFF && bitsN x 7 6 != 0) || bitsN x 23 22 != 0 || bitsN x 63 32 != 0 }

def edges (im : List Byte) : List Edge := (entries im 0x11 wholeFile 16).map edgeOf
/-- A frame element as the file writes it, and back. -/
def frameE (x : Nat) : EId := mkE (bitsN x 15 15) (bitsN x 14 8) (bitsN x 5 0)

/-! ### Wave programs (R71) -/

/-- The programs of a WAVES section: sheet and nodes; none when a header does not fit. -/
def programs : Nat → List Byte → Option (List (Nat × List Word))
  | 0, _ => some []
  | f + 1, l =>
    if l.isEmpty then some []
    else
      let h := leNat (l.take 8)
      let n := bitsN h 15 0
      let nodes := (l.drop 8).take (8 * n)
      if l.length < 8 ∨ bitsN h 31 22 ≠ 0 ∨ n = 0 ∨ 1024 < n ∨ nodes.length < 8 * n then none
      else match programs f (l.drop (8 + 8 * n)) with
      | none => none
      | some ps => some ((bitsN h 21 16, (chunksOf 8 n nodes).map leWord) :: ps)

def waves (im : List Byte) : Option (List (Nat × List Word)) :=
  match sectOf im 0x21 wholeFile with
  | some x => programs (x.bytes im).length (x.bytes im)
  | none => some []

/-- Does node i of a program of n nodes obey the table of R71? -/
def nodeOk (n i : Nat) (w : Word) : Bool :=
  let ahead := decide (i < nodeTarget w) && decide (nodeTarget w ≤ n)
  fld w 15 4 == 0 &&
  (match nodeKind w with
   | 1 => nodeCell w == 0 && nodeTarget w == 0 && nodeArg w == 0
   | 2 => ahead && nodeArg w == 0
   | 3 => ahead && nodeArg w == 0
   | 4 => nodeCell w == 0 && nodeTarget w == 0
   | 5 => nodeCell w == 0 && nodeTarget w == 0
   | 6 => nodeCell w == 0 && nodeTarget w == 0 && nodeArg w == 0
   | _ => false)

/-! ### Cell records and templates (R70, R72) -/

def cellRecords (im : List Byte) : List (List Byte) := entries im 0x20 wholeFile 64

/-- Sheet and cell index of a record. -/
def recSheet (bs : List Byte) : Nat := fld (recWord bs 0) 21 16
def recCell (bs : List Byte) : Nat := fld (recWord bs 0) 15 0

def templateOf (bs : List Byte) : Nat × Template :=
  let x := leNat bs
  (bitsN x 15 0, {
    sheet := bitsN x 21 16, kve := bitsN x 47 32, kvn := bitsN x 63 48, stateCell := bitsN x 79 64, cke := bitsN x 95 80,
    ckn := bitsN x 111 96, kint := bitsN x 127 112, ring := bitsN x 135 128, fq := bitsN x 143 136 })

def templatesIn (im : List Byte) : List (Nat × Template) := (entries im 0x22 wholeFile 32).map templateOf

/-- Are the ranges of a template valid, its reserved bits zero, and its cells records of its sheet? -/
def templateValid (im : List Byte) (bs : List Byte) : Bool :=
  let x := leNat bs
  let t := (templateOf bs).2
  let recs := (cellRecords im).map (fun r => (recSheet r, recCell r))
  bitsN x 31 22 == 0 && bitsN x 255 144 == 0 && decide (1 ≤ t.ckn) && decide (1 ≤ t.kint) && decide (12 ≤ t.ring) && decide (t.ring ≤ 24) &&
  decide (1 ≤ t.fq) && decide (t.fq ≤ 64) && t.cells.all (fun e => recs.contains (t.sheet, e))

/-! ### Step 1 of R80: the checks -/

/-- Entry size of a section type of fixed entries (R61). -/
def entrySize (type : Nat) : Option Nat :=
  match type with
  | 1 => some 1 | 2 => some 1 | 3 => some 1 | 4 => some 8 | 5 => some 8 | 0x0F => some 16 | 0x10 => some 16 | 0x11 => some 16
  | 0x12 => some 24 | 0x20 => some 64 | 0x21 => some 8 | 0x22 => some 32 | 0x30 => some 24 | 0x31 => some 24 | 0x32 => some 1
  | _ => none

/-- A section is well formed: a known type, its bits zero, its bytes within the file, its offsets within its role. -/
def sectOk (im : List Byte) (nrole : Nat) (x : Sect) : Bool :=
  (match entrySize x.type with | some n => x.size % n == 0 | none => false) && !x.spare && decide (x.align ≤ 12) &&
  (x.flags / 4 % 2 == 0 || x.flags / 8 % 2 == 1 || decide (x.offset + x.size ≤ im.length)) &&
  (if x.type ≤ 5 then decide (x.role < nrole) && (decide (4 ≤ x.type) || decide (x.addr + x.size ≤ (roleAt im x.role).size))
   else x.role == wholeFile)

/-- A role is well formed. -/
def roleOk (r : Role) : Bool :=
  !r.spare && decide (r.kind ≤ 2) && decide (r.size ≤ r.limit) &&
  (if r.kind = 2 then decide (1 ≤ r.log2n) && decide (r.log2n ≤ 4) else r.log2n == 0)

/-- Channel entries of a role: bits and fields of R67, each channel once. -/
def channelsOk (es : List (List Byte)) : Bool :=
  es.all (fun bs => let x := leWord bs; fld x 7 4 == 0 && fld x 63 48 == 0 && bindFieldsOk x) &&
  (List.range 16).all (fun q => decide ((es.filter (fun bs => fld (leWord bs) 3 0 == q)).length ≤ 1))

/-- The region register value of a region entry (R68, R152). -/
def regionWord (x : Word) : Word := x &&& ~~~0xFFFF#64 ||| bitsAt (fld x 7 4) 4

/-- Region entries of a role: bits of R68, and a value that the supervisor may write, which for a frond role reaches 0x10_0000 (R350). -/
def regionsOk (limit : Nat) (es : List (List Byte)) : Bool :=
  es.all (fun bs => let x := leWord bs; !x.getLsbD 3 && fld x 15 8 == 0 && regionOk (regionWord x) limit)

/-- A kept relocation: type 9, no symbol, its field within the patched section (R73, R74). -/
def relocOk (im : List Byte) (link : Nat) (bs : List Byte) : Bool :=
  let x := leNat bs
  let patched := sectAt im link
  bitsN x 79 64 == 9 && bitsN x 95 80 == 0 && bitsN x 127 96 == 0 && decide (link < imgN im 12 2) && decide (patched.type = 1 ∨ patched.type = 2) &&
  decide (bitsN x 63 0 + 8 ≤ patched.size)

/-- Are the reserved bits of the headers and nodes of a WAVES section zero (R71, R80)? -/
def programsSpare : Nat → List Byte → Bool
  | 0, _ => true
  | f + 1, l =>
    if l.isEmpty then true
    else
      let h := leNat (l.take 8)
      let n := bitsN h 15 0
      bitsN h 31 22 == 0 && (chunksOf 8 n ((l.drop 8).take (8 * n))).all (fun x => bitsN (leNat x) 15 4 == 0) &&
      programsSpare f (l.drop (8 + 8 * n))

/-- Everything of step 1 that load status 0x04 reports, R71 apart. -/
def fieldsOk (im : List Byte) : Bool :=
  let n := imgN im 12 2
  let nrole := imgN im 19 1
  let ss := sects im
  imgN im 20 4 == 0 && imgN im 32 32 == 0 && imgN im 8 4 % 8 == 0 && decide (1 ≤ n) && decide (n ≤ 4096) && decide (imgN im 8 4 + 32 * n ≤ im.length) &&
  decide (imgN im 14 2 < n) && decide (1 ≤ imgN im 16 1) && decide (imgN im 16 1 ≤ 16) && decide (1 ≤ imgN im 17 1) && decide (imgN im 17 1 ≤ 16) &&
  decide (1 ≤ imgN im 18 1) && decide (imgN im 18 1 ≤ 2) && decide (nrole ≤ 64) &&
  ss.all (sectOk im nrole) && ss.all (fun x => decide ((ss.filter (fun y => y.type == x.type && y.role == x.role)).length ≤ 1)) &&
  (roles im).length == nrole && (roles im).all roleOk &&
  (placements im).all (fun p => !p.spare) && (edges im).all (fun e => !e.spare) &&
  (List.range nrole).all (fun r =>
    channelsOk (entries im 4 r 8) && regionsOk (if (roleAt im r).kind = 2 then 0x100000 else 65536) (entries im 5 r 8)) &&
  (entries im 0x12 wholeFile 24).all scopeOk &&
  (cellRecords im).all (fun bs => (recordReserved (recWord bs)).isNone) &&
  (entries im 0x22 wholeFile 32).all (templateValid im) &&
  (match sectOf im 0x21 wholeFile with
   | some x => programsSpare (x.bytes im).length (x.bytes im)
   | none => true) &&
  (match sectOf im 0x30 wholeFile with
   | some x => (entries im 0x30 wholeFile 24).all (relocOk im x.link)
   | none => true)

/-- The elements of a placement, in frame coordinates. -/
def Place64.elems (p : Place64) : List EId := p.rect.elems

/-- Every placed element of an image, with its placement. -/
def placed (im : List Byte) : List (EId × Place64) := (placements im).flatMap (fun p => p.elems.map (fun e => (e, p)))

/-- A placement is valid by itself (R65). -/
def placeOk (im : List Byte) (p : Place64) : Bool :=
  let r := roleAt im p.role
  let c := p.rect
  decide (1 ≤ c.w) && decide (1 ≤ c.h) && decide (p.role < (roles im).length) && decide (c.die < imgN im 18 1) &&
  (if r.kind = 1 then decide (64 ≤ c.x0) && decide (c.x0 + c.w ≤ 68) && decide (c.y0 + c.h ≤ 32)
   else decide (c.x0 + c.w ≤ 4 * imgN im 16 1) && decide (c.y0 + c.h ≤ 2 * imgN im 17 1)) &&
  (if r.kind = 2 then c.w * c.h == 2 ^ r.log2n && frondShapeAt c else true)
where
  /-- The shapes and alignments of R346. -/
  frondShapeAt (c : Rect) : Bool :=
    [(2, 1), (1, 2), (4, 1), (2, 2), (4, 2), (8, 2)].contains (c.w, c.h) && c.x0 % Nat.min c.w 4 == 0 && c.y0 % c.h == 0

/-- R65: valid placements, no element twice. -/
def placementsOk (im : List Byte) : Bool :=
  (placements im).all (placeOk im) &&
  (placements im).zipIdx.all (fun p => (placements im).zipIdx.all (fun q => p.2 == q.2 || !p.1.elems.any q.1.elems.contains))

/-- Mesh distance of two elements of one die. -/
def meshDist (a b : EId) : Nat := ((eX a : Int) - eX b).natAbs + ((eY a : Int) - eY b).natAbs

/-- Does a path of at most n edges lead from a root to a child? -/
def rooted (es : List Edge) : Nat → Nat → Bool
  | 0, c => es.any (fun e => e.child == c && e.parent == 0xFFFF)
  | n + 1, c => es.any (fun e => e.child == c && (e.parent == 0xFFFF || rooted es n e.parent))

/-- R66: each placed element is the child of one edge, parents are neighbours, every path is short and ends at a root. An edge whose CHILD
is not placed takes 0x07 too: R66 states no condition on it (log 44). -/
def bootTreeOk (im : List Byte) : Bool :=
  let es := edges im
  let ps := (placed im).map Prod.fst
  ps.all (fun x => (es.filter (fun e => frameE e.child == x)).length == 1) &&
  es.all (fun e => ps.contains (frameE e.child) &&
    (e.parent == 0xFFFF || (ps.contains (frameE e.parent) && eDie (frameE e.parent) == eDie (frameE e.child) &&
      meshDist (frameE e.parent) (frameE e.child) == 1)) && rooted es 128 e.child)

/-- R71: the programs are well formed, at most sixteen for a sheet, each of a sheet of the image (R248); that either of the last two
takes 0x04 is the model's choice (log 44). -/
def wavesOk (im : List Byte) : Bool :=
  match waves im with
  | none => false
  | some ps => ps.all (fun p => p.2.zipIdx.all (fun n => nodeOk p.2.length n.2 n.1) &&
      (cellRecords im).any (fun bs => recSheet bs == p.1) && decide ((ps.filter (fun q => q.1 == p.1)).length ≤ 16))

/-- The stepping code of the device (CAPA). -/
def stepping : Nat := 0xB0

/-- Step 1 of R80: the load status of the first check that fails. -/
def checkImage (im : List Byte) : Option Nat :=
  if imgN im 0 4 ≠ 0x004F4B49 ∨ imgN im 4 2 ≠ 1 ∨ imgN im 6 1 ≠ 2 then some 0x01
  else if imgN im 24 8 ≠ (crc64 0 (im.take 24 ++ List.replicate 8 0 ++ im.drop 32)).toNat then some 0x02
  else if stepping < imgN im 7 1 then some 0x03
  else if !fieldsOk im then some 0x04
  else if !placementsOk im then some 0x08
  else if !bootTreeOk im then some 0x07
  else if !wavesOk im then some 0x04
  else none

/-! ### Step 2: the translation (R56, R74) -/

/-- Move a frame element; none when it leaves the mesh. -/
def moveE (dieOff ox oy : Nat) (e : EId) : Option EId :=
  if eX e < 64 then onMesh (eDie e + dieOff, eX e + 4 * ox, eY e + 2 * oy) else onMesh (eDie e + dieOff, eX e, eY e)

/-- Where an element lands, for a translation that fits. -/
def LoadCopy.land (c : LoadCopy) (e : EId) : EId := (moveE c.dieOff c.ox c.oy e).getD e

def moveRect (dieOff ox oy : Nat) (r : Rect) : Rect := { r with die := r.die + dieOff, x0 := r.x0 + 4 * ox, y0 := r.y0 + 2 * oy }

/-- Is a channel bound at an element, or at the frond it leads? -/
def State.hasBinding (s : State) (e : EId) : Bool :=
  (s.elem e).chans.toList.any (fun c => c.bind.isSome) ||
  (match s.frondOf e with | some f => f.chans.toList.any (fun c => c.bind.isSome) | none => false)

/-- Does a translation fit, apart from elements that are taken already? -/
def State.fits (s : State) (C : Ctx) (im : List Byte) (taken : List EId) (t : Nat × Nat × Nat) : Bool :=
  (placed im).all (fun p => match moveE t.1 t.2.2 t.2.1 p.1 with
    | some e => (if eX p.1 < 64 then isCore e else isMemCore e) && C.owns e && !s.hasBinding e && !taken.contains e
    | none => false) &&
  (entries im 0x12 wholeFile 24).all (fun bs => (scopeOf bs).rects.all (fun r =>
    (moveRect t.1 t.2.2 t.2.1 r).elems.all (fun e => isCore e && C.owns e && decide (eY e < 32)) &&
    decide ((moveRect t.1 t.2.2 t.2.1 r).x0 + r.w ≤ 64) && decide ((moveRect t.1 t.2.2 t.2.1 r).y0 + r.h ≤ 32)))

/-- Translations as (die offset, oy, ox), in the order of R56. -/
def translations (dies : Nat) : List (Nat × Nat × Nat) :=
  (if dies = 2 then [0] else [0, 1]).flatMap (fun d => (List.range 16).flatMap (fun oy => (List.range 16).map (fun ox => (d, oy, ox))))

/-- Rewrite a COORD field (R74); none when its aperture is not 2. -/
def moveCoord (dieOff ox oy : Nat) (w : Word) : Option Word :=
  if apOf w ≠ 2 then none
  else
    let die := (fld w 47 45 + dieOff) % 8
    let x := if fld w 44 38 < 64 then (fld w 44 38 + 4 * ox) % 128 else fld w 44 38
    let y := if fld w 44 38 < 64 then (fld w 37 32 + 2 * oy) % 64 else fld w 37 32
    some (w &&& ~~~0xFFFF00000000#64 ||| bitsAt (die * 2 ^ 13 + x * 2 ^ 6 + y) 32)

/-- Replace bytes at an offset of a file. -/
def patch (im : List Byte) (off : Nat) (bs : List Byte) : List Byte := im.take off ++ bs ++ im.drop (off + bs.length)

/-- Rewrite the COORD fields at file offsets; none when one has another aperture. -/
def moveFields (t : Nat × Nat × Nat) : List Nat → List Byte → Option (List Byte)
  | [], im => some im
  | o :: os, im =>
    match moveCoord t.1 t.2.2 t.2.1 (leWord ((im.drop o).take 8)) with
    | none => none
    | some w => moveFields t os (patch im o (wordBytes w))

/-- File offsets of the fields that the loader rewrites, each once: kept relocations, and HOME of every cell record; OFFSET + field also where the
bytes of the section are not in the file, of which R74 says nothing (log 44). -/
def coordFields (im : List Byte) : List Nat :=
  let rel := match sectOf im 0x30 wholeFile with
    | some x => (entries im 0x30 wholeFile 24).map (fun bs => (sectAt im x.link).offset + bitsN (leNat bs) 63 0)
    | none => []
  let homes := match sectOf im 0x20 wholeFile with
    | some x => (List.range (x.size / 64)).map (fun i => x.offset + 64 * i + 16)
    | none => []
  (rel ++ homes).eraseDups

/-- A copy of the image for a translation, its fields rewritten. -/
def copyFor (im : List Byte) (t : Nat × Nat × Nat) : Option LoadCopy :=
  (moveFields t (coordFields im) im).map (fun im => { image := im, dieOff := t.1, ox := t.2.2, oy := t.2.1 })

/-! ### Step 3: scopes, sheets, templates (R69–R72) -/

/-- Bind the cell of a record, as CDEF followed by CBIND; the load status when it is refused. -/
def State.loadCell (s : State) (ctx : Nat) (bs : List Byte) : Except Nat State :=
  let r := recWord bs
  let n := recSheet bs
  match tget s.ctxs ctx with
  | none => .error 0x09
  | some C =>
    if (defineFault C r).isSome || (((s.sheet ctx n).bind (·.cell (recCell bs))).isSome) then .error 0x09
    else if 65536 ≤ s.cellCount (n / 32) then .error 0x0A
    else
      let s1 := s.defineCell ctx r
      let k := fld (r 1) 15 12
      let e : Edit := {
        src := enginePort (n / 32), op := 1, cell := recCell bs, q := BitVec.ofNat 4 (fld (r 1) 11 8)
        entry := BitVec.ofNat 16 (fld (r 1) 47 32), lag := BitVec.ofNat 8 (fld (r 1) 23 16)
        prec := (List.range k).map (fun i => fld (r (5 + i / 4)) (16 * (i % 4) + 15) (16 * (i % 4))), desc := 0
        org := { chan := 0, cont := false, frond := none, pc := 0, wp := 0, entry := 0, wd := 0 } }
      if (bindFault r).isSome then .error 0x09
      else match s1.applyEdit ctx n e true with
      | (t, 0, _) => .ok t
      | _ => .error 0x09

def State.loadCells (s : State) (ctx : Nat) : List (List Byte) → Except Nat State
  | [] => .ok s
  | bs :: l => match s.loadCell ctx bs with
    | .error c => .error c
    | .ok t => t.loadCells ctx l

/-- Entries 4–31 of the scope table are empty at launch (R187). -/
def Ctx.emptyScopes (C : Ctx) : Ctx := { C with scopes := [], barriers := C.barriers.filter (fun b => decide (b.scope < 4)) }

/-- The scope entries as they stood before a launch that is refused (R80). -/
def Ctx.restoreScopes (C : Ctx) (L : Load) : Ctx :=
  { C with scopes := L.scopes, barriers := C.barriers.filter (fun b => decide (b.scope < 4)) ++ L.barriers }

/-- Write the scope entries of a copy; an entry that exists refuses the launch. -/
def Ctx.loadScopes (C : Ctx) (k : LoadCopy) : List (List Byte) → Option Ctx
  | [] => some C
  | bs :: l =>
    let i := scopeIndex bs
    if (tget C.scopes i).isSome then none
    else
      let S := scopeOf bs
      (C.setScope i { S with rects := S.rects.map (moveRect k.dieOff k.ox k.oy) }).loadScopes k l

/-- Register the stream templates; one that has no place in the slice refuses the launch. -/
def Ctx.loadTemplates (C : Ctx) : List (Nat × Template) → Option Ctx
  | [] => some C
  | t :: l =>
    if C.sliceCount = 0 ∨ (tget C.templates t.1).isSome = true then none
    else ({ C with templates := tset C.templates t.1 t.2 }).loadTemplates l

/-- Step 3 of R80 for the copy whose coordinates the context's tables take: scopes, into a table that an earlier launch leaves nothing in
(R187), then sheets, then templates. -/
def State.loadTables (s : State) (ctx : Nat) (k : LoadCopy) : Except Nat State :=
  let im := k.image
  match (tget s.ctxs ctx).bind (fun C => C.emptyScopes.loadScopes k (entries im 0x12 wholeFile 24)) with
  | none => .error 0x09
  | some C =>
    if (cellRecords im).any (fun bs => (tget C.sheets (recSheet bs)).isSome) then .error 0x09
    else
      let s1 := s.updCtx ctx (fun _ => C)
      match s1.loadCells ctx (sortBy (fun bs => recSheet bs * 65536 + recCell bs) (cellRecords im)) with
      | .error c => .error c
      | .ok s2 =>
        let s3 := ((waves im).getD []).foldl (fun s p => s.updSheet ctx p.1 (fun S => { S with progs := S.progs ++ [p.2] })) s2
        match (tget s3.ctxs ctx).bind (fun C => C.loadTemplates (templatesIn im)) with
        | none => .error 0x0B
        | some C => .ok (s3.updCtx ctx (fun _ => C))

/-! ### Step 4: load chunks (R57, R80, R81) -/

/-- The image of a role: its sections laid out, zeros elsewhere. Where TEXT, DATA and WORKSPACE overlap, the later type's bytes stand
(log 45). -/
def roleImage (im : List Byte) (r : Nat) : List Byte :=
  [1, 2, 3].foldl (fun l t => match sectOf im t r with
    | some x => patch l x.addr (x.bytes im)
    | none => l) (List.replicate (roleAt im r).size 0)

/-- Offsets of a role's load chunks. -/
def chunkOffsets (size : Nat) : List Nat := (List.range ((size + 4095) / 4096)).map (4096 * ·)

/-- The edge whose child is a frame element. -/
def edgeTo (im : List Byte) (e : EId) : Option Edge := (edges im).find? (fun x => frameE x.child == e)

/-- Does a role's chunk reach a frame element: every edge of its path but the root's has the role in MASK? -/
def reaches (im : List Byte) (r : Nat) : Nat → EId → Bool
  | 0, _ => false
  | n + 1, e => match edgeTo im e with
    | none => false
    | some x => x.parent == 0xFFFF || (x.mask / 2 ^ r % 2 == 1 && reaches im r n (frameE x.parent))

/-- The END record, which follows the last chunk (R80). -/
def endRecord : Nat × Nat := (0xFFFF, 0)

/-- The chunks that reach a frame element, the offsets of a role ascending (R80), and END after them. That the roles follow each other in
ascending index is the model's choice (log 45). -/
def chunksFor (im : List Byte) (e : EId) : List (Nat × Nat) :=
  (List.range (roles im).length).flatMap (fun r =>
    if reaches im r 129 e then (chunkOffsets (roleAt im r).size).map (fun o => (r, o)) else []) ++ [endRecord]

/-- The copy that an element is loaded from, with its frame element and placement. -/
def Load.copyOf (L : Load) (e : EId) : Option (LoadCopy × EId × Place64) :=
  L.copies.findSome? (fun k => (placed k.image).findSome? (fun p => if k.land p.1 = e then some (k, p.1, p.2) else none))

/-- The placed elements of a load. -/
def Load.targets (L : Load) : List EId := L.copies.flatMap (fun k => (placed k.image).map (fun p => k.land p.1))

/-- Do the elements of copy B alone take part: does the third copy of a twin launch run (R384)? -/
def Load.isThird (L : Load) : Bool := match L.phase with | .third _ _ => true | _ => false

/-- The placed elements that are loaded and run. -/
def Load.running (L : Load) (C : Ctx) : List EId :=
  if L.isThird then L.targets.filter ((C.twin.getD 1 []).contains ·) else L.targets

/-- The elements that a launch starts anew: those of the partition, or those of copy B's half. -/
def Load.half (L : Load) (C : Ctx) : List EId := if L.isThird then C.twin.getD 1 [] else C.elems

/-- Index of an element within its placement (R347). -/
def Place64.index (p : Place64) (e : EId) : Nat := (eY e - p.rect.y0) * p.rect.w + (eX e - p.rect.x0)

/-- The parts of n bytes of a role's image from an offset that an element keeps: local offset and bytes. A member of a frond
placement keeps its lines of the pooled image (R348). -/
def keptParts (im : List Byte) (p : Place64) (e : EId) (off : Nat) : List (Nat × List Byte) :=
  let r := roleAt im p.role
  let bs := ((roleImage im p.role).drop off).take 4096
  if r.kind = 2 then
    let n := 2 ^ r.log2n
    (List.range ((bs.length + 63) / 64)).filterMap (fun i =>
      let q := off + 64 * i
      if q / 64 % n = p.index e then some (q / (64 * n) * 64, (bs.drop (64 * i)).take 64) else none)
  else [(off, bs)]

/-- Write bytes into an element's scratchpad, as the load port does. -/
def State.loadWrite (s : State) (e o : Nat) (bs : List Byte) : State :=
  s.rawWrite mgmtCore e o bs

/-- The memory tags of a scratchpad. -/
def State.tagsOf (s : State) (e : EId) : Tbl (BitVec 4) := s.tags.filter (fun p => p.1 / 65536 == e)

/-- Zero the memory tags of a scratchpad (R154). -/
def State.clearTags (s : State) (e : EId) : State := { s with tags := s.tags.filter (fun p => p.1 / 65536 != e) }

/-- Give back what loading took from an element: its region registers and memory tags. -/
def State.restoreLoaded (s : State) (e : EId) (old : Vector Word 8 × Vector Word 8 × Tbl (BitVec 4)) : State :=
  let s := (s.updElem e (fun E => { E with regions := old.1, pregions := old.2.1 })).clearTags e
  { s with tags := old.2.2.foldl (fun t p => tset t p.1 p.2) s.tags }

/-- The completion of a load that fails with a status: kind 1, or the outcome of a run that follows a first one (R383, R384,
R414). -/
def State.loadFailed (s : State) (ctx : Nat) (L : Load) (status : Nat) : State :=
  match L.phase with
  | .first => s.complete ctx 1 L.tag (BitVec.ofNat 64 status) 0 0 []
  | .serial bad digest => s.complete ctx 6 L.tag (BitVec.ofNat 64 bad) digest 0 []
  | .third _ _ => s.complete ctx 7 L.tag 0 0 0 []

/-- Take back everything that a launch wrote but bytes of scratchpads, and report why (R80, R83). -/
def State.refuseLoad (s : State) (ctx : Nat) (L : Load) (status : Nat) : State :=
  let s1 := L.complete.foldl (fun s e => s.updElem e (fun E => { E with
    chans := Vector.ofFn (fun i : Fin 16 => { vget Chan.reset E.chans i.val with bind := none }) })) s
  let s2 := L.saved.foldl (fun s p => s.restoreLoaded p.1 p.2) s1
  (s2.updCtx ctx (fun C => { C.restoreScopes L with
    sheets := L.sheets.foldl tdel C.sheets
    templates := L.templates.foldl tdel C.templates
    load := none
    twin := [] })).loadFailed ctx L status

def State.updLoad (s : State) (ctx : Nat) (g : Load → Load) : State := s.updCtx ctx (fun C => { C with load := C.load.map g })

/-- The load of a context whose elements may take load traffic now: from T of a gang switch to the resume, chunks and reports park
as messages do (R82). -/
def State.loading (s : State) (ctx : Nat) : Option Load :=
  match tget s.ctxs ctx with
  | some C => if C.switch ≠ .running then none else C.load.bind (fun L => if L.posted then none else some L)
  | none => none

/-- LOAD_CHUNK: an element's load port receives its next chunk, or END, once its parent has received it; an element with a bound
channel discards it, and the launch is refused (R81, R82). -/
def execLoadChunk (ctx : Nat) (e : EId) (s : State) : Host.Outcome State Fault Refusal :=
  match s.loading ctx with
  | none => .next s
  | some L =>
    match (tget L.pending e).getD [], L.copyOf e with
    | c :: cs, some (k, fe, p) =>
      let held := match edgeTo k.image fe with
        | some x => x.parent != 0xFFFF && ((tget L.pending (k.land (frameE x.parent))).getD []).contains c
        | none => true
      if held || s.isFenced e then .next s
      else if s.hasBinding e && c != endRecord then .next (s.refuseLoad ctx L 0x06)
      else
        let s1 := if c.1 = p.role then (keptParts k.image p fe c.2).foldl (fun s x => s.loadWrite e x.1 x.2) s else s
        .next (s1.updLoad ctx (fun L => { L with pending := tset L.pending e cs }))
    | _, _ => .next s

/-! ### Regions and channels (R67, R68, R360, R402) -/

/-- The default regions of a role (R68). -/
def defaultRegions (im : List Byte) (r : Nat) : Vector Word 8 :=
  let text := match sectOf im 1 r with | some x => (x.addr, x.size) | none => (0, 0)
  let rest := text.1 + text.2
  let v := vset (Vector.replicate 8 (0 : Word)) 0 (BitVec.ofNat 64 (0x50 + text.1 * 2 ^ 16 + text.2 * 2 ^ 40))
  vset v 1 (BitVec.ofNat 64 (0x30 + rest * 2 ^ 16 + ((roleAt im r).size - rest) * 2 ^ 40))

/-- Region registers after the loader has written those of a role; of entries that name one register the last stands (log 46). -/
def roleRegions (im : List Byte) (r : Nat) (old : Vector Word 8) : Vector Word 8 :=
  if (sectOf im 5 r).isNone then defaultRegions im r
  else (entries im 5 r 8).foldl (fun v bs => vset v (fld (leWord bs) 2 0) (regionWord (leWord bs))) old

/-- Bind the channels of a role at an element, in ascending Q, as BIND does. -/
def State.bindRole (s : State) (e : EId) (im : List Byte) (r : Nat) : State :=
  (sortBy (fun bs => fld (leWord bs) 3 0) (entries im 4 r 8)).foldl (fun s bs =>
    let x := leWord bs
    s.updChan e false (fld x 3 0) (fun c => { c with bind := some (bindingOf x), wait := 0 })) s

/-- LOAD_COMPLETE: an element that has received END, and whose children have reported complete, writes its regions, binds its
channels and reports complete (R81). Its memory tags become zero (R154). -/
def execLoadComplete (ctx : Nat) (e : EId) (s : State) : Host.Outcome State Fault Refusal :=
  match s.loading ctx with
  | none => .next s
  | some L =>
    match L.copyOf e with
    | none => .next s
    | some (k, fe, p) =>
      let im := k.image
      let kids := (edges im).filter (fun x => x.parent != 0xFFFF && frameE x.parent == fe)
      if L.complete.contains e || !((tget L.pending e).getD []).isEmpty || !kids.all (fun x => L.complete.contains (k.land (frameE x.child))) ||
        s.isFenced e then .next s
      else
        let E := s.elem e
        let frond := (roleAt im p.role).kind == 2
        let pooled := if frond then roleRegions im p.role E.pregions else E.pregions
        let s1 := (s.updElem e (fun E => { E with regions := roleRegions im p.role E.regions, pregions := pooled })).clearTags e
        let s2 := if frond && p.index fe != 0 then s1 else s1.bindRole e im p.role
        .next (s2.updLoad ctx (fun L => { L with
          complete := e :: L.complete
          saved := if (tget L.saved e).isSome then L.saved else tset L.saved e (E.regions, E.pregions, s.tagsOf e) }))

/-! ### Step 5: the launch is posted (R80, R382, R385, R409) -/

/-- An element's registers at the launch of its context: ALLOW, WCFG0–WCFG7, WDLIM, the digests, the counts and the matrix state
have their reset values (R103, R124, R150, R268, R269, R286, R367, R382, R385). An armed allowance notice, the notice buffer and the digest
of the last ended activation stay (log 46). -/
def Elem.launched (E : Elem) : Elem :=
  { E with
    combo := 0
    pseq := 0
    evc := Vector.replicate 8 0
    avail := 16
    nq := 0
    nen := false
    ovf := false
    undel := 0
    wcfg := Vector.replicate 8 wcfgReset
    wdlim := Elem.reset.wdlim
    mq := []
    mseq := 0
    tiles := Elem.reset.tiles
    gang := 0
    holdArm := false
    merrLog := []
    lost := 0
    merr := false }

/-- POST_LAUNCH: every root has reported complete; the registers of the partition take their values at launch and its slots
are free, its memory tags (R154) and its cells' buffers are zero, and every placed element receives the arguments on q0. The third copy of
a twin launch is launched on its half alone (R384). -/
def execPostLaunch (ctx : Nat) (s : State) : Host.Outcome State Fault Refusal :=
  match s.loading ctx, tget s.ctxs ctx with
  | some L, some C =>
    let runs := L.running C
    if !runs.all L.complete.contains then .next s
    else
      let half := L.half C
      let s0 := { s with slots := s.slots.filter (fun p => !half.any (fun e => isCore e && sorusOf e == p.1 / 128)) }
      let s1 := half.foldl (fun s e => (s.updElem e Elem.launched).clearTags e) s0
      let s2 := if L.isThird then s1 else (L.copies.take 1).foldl (fun s k => (cellRecords k.image).foldl (fun s bs =>
        match (s.sheet ctx (recSheet bs)).bind (·.cell (recCell bs)) with
        | some c => (s.cellWrite c.home c.buf0 0 (List.replicate c.size 0)).cellWrite c.home c.buf1 0 (List.replicate c.size 0)
        | none => s) s) s1
      let s3 := (s2.updCtx ctx (fun C => { C with sup := some L.sup })).updLoad ctx (fun L => { L with posted := true })
      let s4 := runs.foldl (fun s e => s.deviceSend ctx mgmtCore e 0 L.args.toList none) s3
      .next (if L.phase = .first then s4.complete ctx 1 L.tag 0 0 0 [] else s4)
  | _, _ => .next s

end Sys2Proof.Machine
end

