-- ==== Sys2Proof/Machine/Host.lean ====
section
/-!
DEFINITION. The host link: mailbox commands, the launch window, its records and completions, reset, and scale-out
(R404–R418, R421).
-/
namespace Sys2Proof.Machine

/-! ### The mailbox (R405, R421) -/

/-- Zero every byte of the package whose key is hit, with its tag and its error. -/
def State.wipe (s : State) (hit : Nat → Bool) : State :=
  { s with
    mem := s.mem.filter (fun p => !hit p.1)
    tags := s.tags.filter (fun p => !hit p.1)
    poison := s.poison.filter (fun k => !hit k) }

/-- Is a key a scratchpad byte of an element of the context, or a byte of its banks of the weight store (R306)? -/
def Ctx.ownsKey (C : Ctx) (key : Nat) : Bool :=
  if key < 2 ^ 60 then C.owns (key / 65536)
  else if 2 ^ 62 ≤ key ∧ key < 2 ^ 63 then
    C.soruses.contains (256 * ((key - 2 ^ 62) / 2 ^ 32) + (key - 2 ^ 62) % 2 ^ 32 / 0x180000)
  else false

/-- Do two lists share a number? -/
def shared (a b : List Nat) : Bool := a.any b.contains

/-- Is a CREATE well formed, its allotment within HBM (R16; log 63), and does it name only what no context holds? Any
root is accepted, one that is no multiple of 64 KiB too, and walked as it was given (log 50). -/
def State.canCreate (s : State) (r : CreateReq) : Bool :=
  decide (r.ctx < 64) && (tget s.ctxs r.ctx).isNone && r.soruses.all (fun x => decide (x < 512)) && r.memcores.all isMemCore &&
  decide (r.allotBase + r.allotSize ≤ hbmCapacity) && decide (r.sliceFirst + r.sliceCount ≤ 8192) && decide (r.weights.length = 8) && r.weights.all (fun w => decide (1 ≤ w) && decide (w ≤ 16)) &&
  s.ctxs.all (fun p => !shared r.soruses p.2.soruses && !shared r.memcores p.2.memcores &&
    (decide (r.sliceCount = 0) || decide (p.2.sliceCount = 0) || decide (r.sliceFirst + r.sliceCount ≤ p.2.sliceFirst) ||
      decide (p.2.sliceFirst + p.2.sliceCount ≤ r.sliceFirst)))

/-- CREATE: the context exists, switched out, with no image; its scratchpads and banks are zero, and its memory cores hold no
translation of another context (R293). -/
def execCreate (r : CreateReq) (s : State) : Host.Outcome State Fault Refusal :=
  if !(s.pkg.mailbox && s.canCreate r) then .next s
  else
    let C : Ctx := { Ctx.blank (r.soruses.foldl sinsert []) (r.memcores.foldl sinsert []) with
      root := r.root
      allotBase := r.allotBase
      allotSize := r.allotSize
      sliceFirst := r.sliceFirst
      sliceCount := r.sliceCount
      key := r.key
      weights := r.weights
      switch := .out }
    let s1 := { s with ctxs := tset s.ctxs r.ctx C }.wipe C.ownsKey
    .next ((C.cores.foldl (fun s e => s.updElem e (fun E => { E with weight := BitVec.ofNat 5 (r.weights.getD (memberOf e) 1) })) s1).flushTlbs
      C.memcores)

/-- SCHED: how the gang-switch scheduler treats a context. -/
def execSched (ctx share : Nat) (prio : BitVec 7) (s : State) : Host.Outcome State Fault Refusal :=
  .next (if s.pkg.mailbox then s.updCtx ctx (fun C => { C with share := share, prio := prio }) else s)

/-- IDENT: the package identity is the mailbox's reply. -/
def execIdent (s : State) : Host.Outcome State Fault Refusal :=
  .next (if s.pkg.mailbox then { s with pkg := { s.pkg with reply := [packageIdentity] } } else s)

/-! ### The launch window (R406, R407) -/

/-- A write to a launch window: dropped before the mailbox is enabled, and when the context does not exist (R25, R406). -/
def atWindow (s : State) (ctx : Nat) (k : Ctx → State) : Host.Outcome State Fault Refusal :=
  match tget s.ctxs ctx with
  | some C => .next (if s.pkg.mailbox then k C else s)
  | none => .next s

/-- A write of DOORBELL; a value out of range is dropped and reported, with no record to give a TAG (log 4). -/
def State.writeDoorbell (s : State) (ctx : Nat) (C : Ctx) (v : Nat) : State :=
  if v < C.consumed ∨ C.consumed + 256 < v then s.complete ctx 3 ((s.free 3).setWidth 32) 2 0 0 []
  else s.updCtx ctx (fun C => { C with doorbell := v })

/-- A write of HQCTL or CQCTL: LOG2N in 4–16, no reserved bit, no change of LOG2N while EN is 1. -/
def ctlOk (r : Ring) (v : Word) : Bool :=
  decide (fld v 62 5 = 0) && decide (4 ≤ fld v 4 0) && decide (fld v 4 0 ≤ 16) && (!r.en || decide (fld v 4 0 = r.log2n))

/-- The ring after an accepted write, and the W that enabling stores. -/
def State.writeCtl (s : State) (ctx : Nat) (r : Ring) (v : Word) : State × Ring :=
  if !ctlOk r v then (s, r)
  else if v.getLsbD 63 && !r.en then (s.hostWrite (r.at ctx 0) (wordBytes 0), { r with log2n := fld v 4 0, en := true, w := 0 })
  else (s, { r with log2n := fld v 4 0, en := v.getLsbD 63 })

def State.writeHqctl (s : State) (ctx : Nat) (C : Ctx) (v : Word) : State :=
  let r := s.writeCtl ctx C.hq v
  r.1.updCtx ctx (fun C => { C with hq := r.2 })

def State.writeCqctl (s : State) (ctx : Nat) (C : Ctx) (v : Word) : State :=
  let r := s.writeCtl ctx C.cq v
  r.1.updCtx ctx (fun C => { C with cq := r.2 })

/-- A queue base: [5:0] zero, and the ring not enabled. -/
def Ring.setBase (r : Ring) (v : Word) : Ring := if r.en || decide (fld v 5 0 ≠ 0) then r else { r with base := v.toNat }

def execDoorbell (ctx : Nat) (v : Word) (s : State) : Host.Outcome State Fault Refusal :=
  atWindow s ctx (fun C => s.writeDoorbell ctx C v.toNat)

def execHqctl (ctx : Nat) (v : Word) (s : State) : Host.Outcome State Fault Refusal :=
  atWindow s ctx (fun C => s.writeHqctl ctx C v)

def execCqctl (ctx : Nat) (v : Word) (s : State) : Host.Outcome State Fault Refusal :=
  atWindow s ctx (fun C => s.writeCqctl ctx C v)

/-- LAUNCH_WINDOW_WRITE: a doubleword of the window. -/
def execLaunchWindowWrite (ctx off : Nat) (v : Word) (s : State) : Host.Outcome State Fault Refusal :=
  atWindow s ctx (fun C =>
    if off % 8 ≠ 0 then s
    else if off < 0x8000 then s.updCtx ctx (fun C => { C with window := memWrite C.window off (wordBytes v) })
    else if off = 0x8000 then s.writeDoorbell ctx C v.toNat
    else if off = 0x8010 then s.updCtx ctx (fun C => { C with hq := C.hq.setBase v })
    else if off = 0x8018 then s.writeHqctl ctx C v
    else if off = 0x8020 then s.updCtx ctx (fun C => { C with cq := C.cq.setBase v })
    else if off = 0x8028 then s.writeCqctl ctx C v
    else s)

def Ring.ctl (r : Ring) : Word := BitVec.ofNat 64 (r.log2n + (if r.en then 2 ^ 63 else 0))

/-- Is a reset in progress: its kind 5 entry is not published yet (R406, R415)? -/
def Ctx.resetting (C : Ctx) : Bool := C.held.any (fun e => fld (e.getD 0 0) 7 0 == 5)

/-- What the host reads at an offset of a launch window (R25, R406). -/
def State.windowRead (s : State) (ctx off : Nat) : Word :=
  if !s.pkg.mailbox then BitVec.allOnes 64
  else match tget s.ctxs ctx with
  | none => 0
  | some C =>
    if off = 0x8008 then BitVec.ofNat 64 C.consumed
    else if off = 0x8010 then BitVec.ofNat 64 C.hq.base
    else if off = 0x8018 then C.hq.ctl
    else if off = 0x8020 then BitVec.ofNat 64 C.cq.base
    else if off = 0x8028 then C.cq.ctl
    else if off = 0x8030 then
      BitVec.ofNat 64 (1 + (if C.load.any (fun L => L.posted || L.phase != .first) then 2 else 0) + (if C.switch = .out then 4 else 0) +
        (if C.resetting then 8 else 0))
    else 0

/-- The oldest completion held enters the completion queue, if there is room. -/
def State.publishOne (s : State) (ctx : Nat) : State :=
  match tget s.ctxs ctx with
  | none => s
  | some C =>
    match C.held with
    | [] => s
    | e :: es =>
      if !C.cq.en || C.cq.full s ctx then s
      else
        let r := s.ringPut ctx C.cq 128 e
        r.1.updCtx ctx (fun C => { C with cq := r.2, held := es })

/-- COMPLETION_PUBLISH: the oldest completion held enters the completion queue as room allows (R407). -/
def execCompletionPublish (ctx : Nat) (s : State) : Host.Outcome State Fault Refusal := .next (s.publishOne ctx)

/-! ### Records (R406–R408) -/

/-- Doubleword j of the record that is consumed next. -/
def Ctx.record (C : Ctx) (j : Nat) : Word := leWord (memRead C.window (128 * (C.consumed % 256) + 8 * j) 8)

/-- A message of an earlier WORK record has not been accepted yet (R411). -/
def Body.ofRecord (b : Body) : Bool :=
  match b with
  | .msg _ _ r => r.record.isSome
  | .work _ _ _ _ r => r.record.isSome
  | _ => false

/-- May a record be consumed: one is posted, completions have room, a reset has been reported, no WORK message waits? -/
def State.canConsume (s : State) (ctx : Nat) (C : Ctx) : Bool :=
  decide (C.consumed < C.doorbell) && decide (C.held.length < 1024) && !C.resetting &&
  !s.fabric.any (fun f => f.ctx == ctx && f.body.ofRecord)

def State.consumeOne (s : State) (ctx : Nat) : State := s.updCtx ctx (fun C => { C with consumed := C.consumed + 1 })

/-- Refuse the record that was consumed (R408, R414). -/
def State.refuseRecord (s : State) (ctx : Nat) (tag : BitVec 32) (reason : Nat) : State :=
  s.complete ctx 3 tag (BitVec.ofNat 64 reason) 0 0 []

/-- Consume the next record when its KIND is `kind`: a bad header is refused with reason 1; a KIND that no record has is
refused whichever event meets it. -/
def withRecord (s : State) (ctx kind flags : Nat) (k : State → Ctx → BitVec 32 → (Nat → Word) → State) :
    Host.Outcome State Fault Refusal :=
  match tget s.ctxs ctx with
  | none => .next s
  | some C =>
    let h := C.record 0
    let tag := BitVec.ofNat 32 (fld h 63 32)
    let defined := decide (1 ≤ fld h 7 0) && decide (fld h 7 0 ≤ 5)
    if !s.canConsume ctx C || (defined && decide (fld h 7 0 ≠ kind)) then .next s
    else if !defined || decide (fld h 31 16 ≠ 0) || decide (fld h 15 8 / flags ≠ 0) then
      .next ((s.consumeOne ctx).refuseRecord ctx tag 1)
    else .next (k (s.consumeOne ctx) C tag C.record)

/-! ### LAUNCH (R409, R416) -/

/-- Bytes at a device virtual address of a context, by walks; none when a page is not mapped. -/
def State.ctxRead (s : State) (C : Ctx) (va : Nat) : Nat → Option (List Byte)
  | 0 => some []
  | n + 1 => match walk s C va 3 C.root, s.ctxRead C (va + 1) n with
    | .ok t, some bs => some (memGet s.mem (hbmKey (t.phys va)) :: bs)
    | _, _ => none

/-- What a process-group table says of this package; none when no entry, or two, hold its identity (R416). -/
def State.processGroup (s : State) (C : Ctx) (va : Nat) : Option ProcGroup :=
  match s.ctxRead C va 64 with
  | none => none
  | some h =>
    let n := fld (recWord h 0) 15 0
    let entry := fun i => s.ctxRead C (va + 64 + 64 * i) 64
    match (List.range n).filter (fun i => (entry i).any (fun bs => recWord bs 0 == packageIdentity)) with
    | [i] => (entry i).map (fun bs => {
        share := (recWord bs 1).toNat, rank := i, nrank := n, group := recWord h 1
        peers := (List.range 16).map (fun k => fld (recWord bs (2 + k / 4)) (16 * (k % 4) + 15) (16 * (k % 4))) })
    | _ => none

/-- The launch is refused at once: the context then holds no image (R80, R83). -/
def State.refuseLaunch (s : State) (ctx : Nat) (tag : BitVec 32) (status : Nat) : State :=
  (s.updCtx ctx (fun C => { C with load := none, twin := [] })).complete ctx 1 tag (BitVec.ofNat 64 status) 0 0 []

/-- The translations of a launch: one, or two onto disjoint elements for a twin launch (R56, R384). -/
def State.chooseTranslations (s : State) (C : Ctx) (im : List Byte) (twin : Bool) : Option (List (Nat × Nat × Nat)) :=
  let all := translations (imgN im 18 1)
  let landing := fun t : Nat × Nat × Nat => (placed im).filterMap (fun p => moveE t.1 t.2.2 t.2.1 p.1)
  match all.find? (s.fits C im []) with
  | none => none
  | some t =>
    if !twin then some [t]
    else match all.find? (s.fits C im (landing t)) with
    | none => none
    | some u => some [t, u]

/-- What every placed element of the copies is sent. -/
def allChunks (copies : List LoadCopy) : Tbl (List (Nat × Nat)) :=
  copies.foldl (fun t k => (placed k.image).foldl (fun t p => tset t (k.land p.1) (chunksFor k.image p.1)) t) []

/-- Steps 1–3 of R80 for an image that was read. -/
def State.launchImage (s : State) (ctx : Nat) (C : Ctx) (tag : BitVec 32) (flags : Nat) (r : Nat → Word)
    (pg : Option ProcGroup) (im : List Byte) : State :=
  match checkImage im with
  | some c => s.refuseLaunch ctx tag c
  | none =>
    match s.chooseTranslations C im (flags / 4 % 2 == 1) with
    | none => s.refuseLaunch ctx tag 0x05
    | some ts =>
      let copies := ts.filterMap (copyFor im)
      match copies with
      | [] => s.refuseLaunch ctx tag 0x04
      | k :: _ =>
        let sup := moveE k.dieOff k.ox k.oy (fld (r 6) 15 0)
        match sup with
        | none => s.refuseLaunch ctx tag 0x08
        | some e =>
          let args := (List.range 8).map (fun i => r (8 + i))
          let group := match pg with
            | some g => args.take 6 ++ [BitVec.ofNat 64 g.share, BitVec.ofNat 64 (g.rank + g.nrank * 2 ^ 16)]
            | none => args
          let lists := copies.map (fun k => (placed k.image).map (fun p => k.land p.1))
          let L : Load := {
            tag := tag, flags := BitVec.ofNat 8 flags, args := words8 group, digtab := if r 4 = 0 then none else some (fld (r 4) 51 0), group := pg, sup := e
            copies := copies
            scopes := C.scopes, barriers := C.barriers.filter (fun b => decide (4 ≤ b.scope))
            sheets := (cellRecords im).map recSheet
            templates := (templatesIn im).map Prod.fst
            pending := allChunks copies, chunks := allChunks copies
            complete := [], saved := [], posted := false, completed := false, phase := .first }
          if !isCore e || !C.owns e then s.refuseLaunch ctx tag 0x08
          else if lists.any (fun l => l.any (fun x => (s.elem x).act.isSome)) then s.refuseLaunch ctx tag 0x06
          else match s.loadTables ctx k with
          | .error c => s.refuseLaunch ctx tag c
          | .ok t => t.updCtx ctx (fun C => { C with
              load := some L
              twin := if lists.length = 2 then lists else []
              shadow := (r 5).toNat })

/-- LAUNCH: the record is checked, its image copied and judged; its load then goes on by itself. A completion timeout of the management
core ends the copy as an error does (R409; log 14). -/
def execLaunch (ctx : Nat) (s : State) : Host.Outcome State Fault Refusal :=
  withRecord s ctx 1 8 (fun s C tag r =>
    let flags := fld (r 0) 15 8
    if flags % 4 = 3 ∨ fld (r 6) 63 16 ≠ 0 ∨ r 7 ≠ 0 ∨ (r 4 ≠ 0 ∧ fld (r 4) 63 52 ≠ 0x800) ∨ (r 3 ≠ 0 ∧ (r 14 ≠ 0 ∨ r 15 ≠ 0)) then s.refuseRecord ctx tag 1
    else if C.load.any (fun L => !L.completed) then s.complete ctx 1 tag 0x06 0 0 []
    else if (r 2).toNat < 64 ∨ s.hostFails (hostAt mgmtFn (r 1).toNat) (r 2).toNat = true then s.refuseLaunch ctx tag 0x0C
    else if (s.elem mgmtCore).hostTimeout then (s.updElem mgmtCore (fun E => { E with hostTimeout := false })).refuseLaunch ctx tag 0x0C
    else
      let im := s.hostBytes (hostAt mgmtFn (r 1).toNat) (r 2).toNat
      if r 3 = 0 then s.launchImage ctx C tag flags r none im
      else match (if apOf (r 3) = 8 then s.processGroup C (fld (r 3) 51 0) else none) with
      | none => s.refuseLaunch ctx tag 0x04
      | some g => s.launchImage ctx C tag flags r (some g) im)

/-! ### Clearing a context (R387, R415) -/

/-- An element after a reset of its context: no activation, channels unbound, queues, slots and bins clear, tiles
unconfigured; a fenced element stays fenced. -/
def Elem.cleared (E : Elem) : Elem :=
  { E with
    act := none
    mode := match E.mode with | .fenced => .fenced | _ => .normal
    haltReq := false
    stepReq := false
    stalled := false
    insn := none
    tokens := none
    olds := []
    chans := Vector.replicate 16 Chan.reset
    lastStart := []
    bins := Vector.replicate 8 none
    fences := []
    transfer := none
    issued := none
    tiles := Vector.replicate 4 Tile.blank
    mq := []
    holdArm := false }

/-- Is a flight a completion of a matrix command? -/
def Body.ofCommand (b : Body) : Bool := match b with | .msg _ _ r => r.cmd.isSome | _ => false

/-- Steps 2–4 of R415: activations, matrix queues, slots and tiles, channels, bins, events, scopes, sheets and streams go. -/
def State.clearCtx (s : State) (ctx : Nat) : State :=
  match tget s.ctxs ctx with
  | none => s
  | some C =>
    let s2 := (s.fabric.filter (fun f => f.ctx == ctx && f.body.ofCommand)).foldl State.land s
    let s3 := C.elems.foldl (fun s e => s.updElem e Elem.cleared) s2
    { s3 with
      slots := s3.slots.filter (fun p => !C.soruses.contains (p.1 / 128))
      fronds := s3.fronds.filter (fun f => !C.owns f.leader)
      streams := s3.streams.filter (fun p => p.2.ctx != ctx) }.updCtx ctx (fun C => { C with
        scopes := []
        templates := []
        sheets := []
        abandoned := []
        waits := []
        events := []
        barriers := []
        work := []
        load := none
        twin := [] })

/-- RESET a context, in the order of R415. -/
def State.resetCtx (s : State) (ctx : Nat) : State :=
  match tget s.ctxs ctx with
  | none => s
  | some C =>
    let s1 := if C.trace.isSome then s.closeTrace ctx 6 else s
    (s1.clearCtx ctx).updCtx ctx (fun C => { C with consumed := C.doorbell })

/-! ### The completion of a launch (R377, R382–R384, R410) -/

/-- The sum of SENT − RCVD over a context's elements and ports is zero. -/
def Ctx.quiet (C : Ctx) : Bool :=
  C.counts.foldl (fun n p => n + p.2.1) 0 == C.counts.foldl (fun n p => n + p.2.2) 0

/-- Nothing of a context is pending (R410). -/
def State.launchDone (s : State) (ctx : Nat) (C : Ctx) : Bool :=
  C.elems.all (fun e =>
    let E := s.elem e
    E.act.isNone && decide (E.mode = .normal) && !(s.fronds.any (fun f => !f.composed && f.members.contains e)) &&
    E.chans.toList.all (fun c => !s.ownReady e c)) &&
  s.fronds.all (fun f => !C.owns f.leader || (f.starts != 0 && f.chans.toList.all (fun c => !chanReady s c))) &&
  C.sheets.all (fun p => p.2.wave.isNone && p.2.run.isNone && p.2.reqs.isEmpty && p.2.edits.isEmpty && p.2.reads.isEmpty) &&
  s.streams.all (fun p => p.2.ctx != ctx || p.2.queue.isEmpty) && C.work.isEmpty && C.quiet

/-- The XOR of the COMBOs of elements. -/
def State.comboOf (s : State) (l : List EId) : Word := l.foldl (fun x e => x ^^^ (s.elem e).combo) 0

/-- A recorded digest of the table; one on a page that is not mapped is free (log 4). -/
def State.recorded (s : State) (C : Ctx) (tab i : Nat) : Word :=
  match s.ctxRead C (tab + 8 * i) 8 with
  | some bs => leWord bs
  | none => s.free i

/-- The elements of a context with their places in scope-3 order. -/
def Ctx.ranked (C : Ctx) : List (EId × Nat) := C.elems.zipIdx

/-- Store the digest table of a launch that records, if it names one. -/
def State.storeDigests (s : State) (C : Ctx) (L : Load) : State :=
  match L.digtab with
  | none => s
  | some tab => C.ranked.foldl (fun s p => s.ctxWrite C (tab + 8 * p.2) (wordBytes (s.elem p.1).combo)) s

/-- The elements whose COMBO differs from the digest table. -/
def State.mismatches (s : State) (C : Ctx) (tab : Nat) : List (EId × Nat) :=
  C.ranked.filter (fun p => (s.elem p.1).combo != s.recorded C tab p.2)

/-- The launch runs again from its copies in HBM: the context is cleared, its tables are written, and the load begins anew, that of a
twin launch on both halves (R383). -/
def State.runSerial (s : State) (ctx : Nat) (C : Ctx) (L : Load) (bad : Nat) (digest : Word) : State :=
  let s1 := s.clearCtx ctx
  let again := { L with
    pending := L.chunks, complete := [], saved := [], posted := false, completed := false, phase := .serial bad digest }
  match L.copies with
  | [] => s1
  | k :: _ => match s1.loadTables ctx k with
    | .error _ => (s1.updCtx ctx (fun C => { C with load := none })).complete ctx 6 L.tag (BitVec.ofNat 64 bad) digest 0 []
    | .ok t => t.updCtx ctx (fun D => { D with load := some again, twin := C.twin })

/-- Compare a launch that replays with its table: each mismatch is reported, and the launch runs again, one activation at a time
(R383). -/
def State.replayDone (s : State) (ctx : Nat) (C : Ctx) (L : Load) (tab : Nat) (digest : Word) : State :=
  let bad := s.mismatches C tab
  let s1 := bad.foldl (fun s p => s.systemReport p.1 0x73 (BitVec.ofNat 64 p.1) (s.recorded C tab p.2)) s
  s1.runSerial ctx C L bad.length digest

/-- The first run of a launch is over, with its copies if it is a twin: one that replays is compared with its table and runs again,
any other is complete (R383, R409). -/
def State.endFirst (s : State) (ctx : Nat) (C : Ctx) (L : Load) (digest : Word) : State :=
  match (if L.flags.getLsbD 1 then L.digtab else none) with
  | some tab => s.replayDone ctx C L tab digest
  | none => s.updLoad ctx (fun L => { L with completed := true })

/-- The end of the serial run: the completion tells how many elements differed in the first run, and whether the serial run
matches the table (R383, R414). -/
def State.serialDone (s : State) (ctx : Nat) (C : Ctx) (L : Load) (bad : Nat) (digest : Word) : State :=
  let ok : Bool := match L.digtab with | some tab => (s.mismatches C tab).isEmpty | none => true
  (s.updLoad ctx (fun L => { L with completed := true })).complete ctx 6 L.tag (BitVec.ofNat 64 bad) digest (boolWord ok) []

/-- A third copy runs on copy B's half: its elements are cleared and loaded anew (R384). -/
def State.runThird (s : State) (ctx : Nat) (C : Ctx) (a b : Word) : State :=
  let half := C.twin.getD 1 []
  let s1 := half.foldl (fun s e => s.updElem e Elem.cleared) s
  let s2 := { s1 with
    fronds := s1.fronds.filter (fun f => !half.contains f.leader)
    slots := s1.slots.filter (fun p => !half.any (fun e => isCore e && sorusOf e == p.1 / 128)) }
  s2.updLoad ctx (fun L => { L with
    pending := L.chunks.filter (fun p => half.contains p.1)
    complete := L.complete.filter (fun e => !half.contains e)
    saved := []
    posted := false
    phase := .third a b })

/-- The end of both copies of a twin launch: agreement completes it; a disagreement is reported, and a third copy runs (R384). -/
def State.twinDone (s : State) (ctx : Nat) (C : Ctx) (L : Load) : State :=
  let a := s.comboOf (C.twin.getD 0 [])
  let b := s.comboOf (C.twin.getD 1 [])
  if a = b then ((s.complete ctx 2 L.tag 0 a 0 []).complete ctx 7 L.tag 1 a 0 []).endFirst ctx C L a
  else
    let n := (s.elem mgmtCore).pseq + 1
    let p : Packet := { code := 0x74, kind := 2, coord := mgmtCore, faddr := 0, extra := b, pseq := n.toNat }
    let s1 := (s.updElem mgmtCore (fun E => { E with pseq := n })).sendPacket ctx mgmtCore false (p.words ctx s.time)
    s1.runThird ctx C a b

/-- The copies of a twin launch that agree after the third copy, as kind 7 names them, and their digest (R384, R414). -/
def agreeing (a b c : Word) : Word × Word := if c = a then (2, a) else if c = b then (3, b) else (0, 0)

/-- The end of the third copy: its elements' final digests are recorded, and the completion says which two copies agree
(R383, R384, R414). -/
def State.thirdDone (s : State) (ctx : Nat) (C : Ctx) (L : Load) (a b : Word) : State :=
  let s1 := if L.flags.getLsbD 0 then s.storeDigests C L else s
  let r := agreeing a b (s.comboOf (C.twin.getD 1 []))
  (s1.complete ctx 7 L.tag r.1 r.2 0 []).endFirst ctx C L r.2

/-- LAUNCH_COMPLETE: the context is quiescent, and the completion carries the launch digest (R410). -/
def execLaunchComplete (ctx : Nat) (s : State) : Host.Outcome State Fault Refusal :=
  match tget s.ctxs ctx with
  | none => .next s
  | some C =>
    match C.load with
    | none => .next s
    | some L =>
      if !L.posted || L.completed || decide (C.switch ≠ .running) || !s.launchDone ctx C then .next s
      else match L.phase with
      | .serial bad digest => .next (s.serialDone ctx C L bad digest)
      | .third a b => .next (s.thirdDone ctx C L a b)
      | .first =>
        let digest := s.comboOf C.elems
        let s2 := if L.flags.getLsbD 0 then s.storeDigests C L else s
        if L.flags.getLsbD 2 then .next (s2.twinDone ctx C L)
        else
          .next ((s2.complete ctx 2 L.tag 0 digest 0 []).endFirst ctx C L digest)

/-! ### WORK and FRAME (R411, R412) -/

/-- A message address in frame coordinates, translated as the launch was (R74, R411). -/
def Ctx.workTarget (C : Ctx) (a : Word) : Option (Option EId × BitVec 4) :=
  let t := match C.load.bind (·.copies.head?) with | some k => (k.dieOff, k.ox, k.oy) | none => (0, 0, 0)
  match moveCoord t.1 t.2.1 t.2.2 a with
  | none => none
  | some w => match msgTarget hostLink w with
    | .ok x => some x
    | .error _ => none

/-- The reserved bits of a work descriptor (R130). -/
def workReserved (x : Word) : Bool := decide (fld x 7 5 ≠ 0) || decide (fld x 63 12 ≠ 0)

/-- WORK: doublewords 8–15 travel as one message to a channel, or to a work queue. A reserved bit of a work descriptor gives reason 1
(R408), an empty scope or a bad message address reason 3 (R411). -/
def execWork (ctx : Nat) (s : State) : Host.Outcome State Fault Refusal :=
  withRecord s ctx 2 2 (fun s C tag r =>
    let m := plainMsg ((List.range 8).map (fun i => r (8 + i)))
    let ret : Ret := { credit := none, notice := none, cmd := none, record := some tag }
    if (r 0).getLsbD 8 then
      let x := r 1
      let sc := fld x 4 0
      let ms := if sc ≤ 1 then [] else C.scopeMembers hostLink sc
      if workReserved x then s.refuseRecord ctx tag 1
      else if ms.isEmpty then s.refuseRecord ctx tag 3
      else s.inject ctx hostLink (some (enginePort (workDie C hostLink sc))) (.work sc ms (BitVec.ofNat 4 (fld x 11 8)) m ret)
    else match C.workTarget (r 1) with
    | none => s.refuseRecord ctx tag 3
    | some (dst, q) => s.inject ctx hostLink dst (.msg q m ret))

/-- FRAME: a frame is posted to a stream as SFRAME does; while the context is switched out it waits for the resume. -/
def execFrame (ctx : Nat) (s : State) : Host.Outcome State Fault Refusal :=
  withRecord s ctx 3 1 (fun s C tag r =>
    let bs := (List.range 8).flatMap (fun i => wordBytes (r (8 + i)))
    if fld (r 1) 63 13 ≠ 0 then s.refuseRecord ctx tag 1
    else if C.switch = .running then s.takeFrame ctx tag (fld (r 1) 12 0) bs
    else s.updCtx ctx (fun C => { C with parkedFrames := C.parkedFrames ++ [(tag, fld (r 1) 12 0, bs)] }))

/-! ### Reset (R405, R415) -/

/-- RESET: the record's context is reset, and kind 5 says so. -/
def execReset (ctx : Nat) (s : State) : Host.Outcome State Fault Refusal :=
  withRecord s ctx 4 1 (fun s _ tag _ => (s.resetCtx ctx).complete ctx 5 tag 0 0 0 [])

/-- A reset by the physical function, which belongs to no record (log 4), with its kind 5 entry. -/
def State.functionReset (s : State) (ctx : Nat) : State := (s.resetCtx ctx).complete ctx 5 ((s.free 5).setWidth 32) 0 0 0 []

/-- FUNCTION_RESET: a reset that the physical function issues; it belongs to no record (log 4). -/
def execFunctionReset (ctx : Nat) (s : State) : Host.Outcome State Fault Refusal :=
  .next (if (tget s.ctxs ctx).isSome then s.functionReset ctx else s)

/-- Give every unit of allowance that the elements of a context wait for back to them. -/
def State.returnUnits (s : State) (C : Ctx) : State :=
  C.elems.foldl (fun s e => s.updElem e (fun E => { E with avail := 16 })) s

/-- DESTROY: a reset with its completion, and the completions held are published as room allows; then the context's memories are
zero, its traffic ends with the units that it holds returned, and its resources are free. -/
def execDestroy (ctx : Nat) (s : State) : Host.Outcome State Fault Refusal :=
  match tget s.ctxs ctx with
  | none => .next s
  | some C =>
    if !s.pkg.mailbox then .next s
    else
      let s1 := s.functionReset ctx
      let n := match tget s1.ctxs ctx with | some D => D.held.length | none => 0
      let t := (((iterate (fun u : State => u.publishOne ctx) n s1).wipe C.ownsKey).returnUnits C).flushTlbs C.memcores
      .next { t with ctxs := tdel t.ctxs ctx, fabric := t.fabric.filter (fun f => f.ctx != ctx) }

/-! ### Transfers and scale-out links (R417, R418) -/

/-- XFER: a transfer to a peer package starts. -/
def execXfer (ctx : Nat) (s : State) : Host.Outcome State Fault Refusal :=
  withRecord s ctx 5 1 (fun s _ tag r =>
    if (r 4).toNat % 64 ≠ 0 ∨ 2 ^ 30 < (r 4).toNat then s.refuseRecord ctx tag 1
    else s.updCtx ctx (fun C => { C with xfers := C.xfers ++ [{
      tag := tag, words := (List.range 5).map (fun i => r (1 + i)), sent := 0 }] }))

/-- A port, and its replacement. -/
def State.port (s : State) (k : Nat) : Port := vget Port.reset s.pkg.ports k
def State.setPort (s : State) (k : Nat) (p : Port) : State := { s with pkg := { s.pkg with ports := vset s.pkg.ports k p } }

/-- The GROUP of a context's process group, if it has one (R416). -/
def Ctx.groupNo (C : Ctx) : Option Word := (C.load.bind (·.group)).map (·.group)

/-- The port that leads to a peer rank of the process group (R416). -/
def Ctx.portTo (C : Ctx) (peer : Nat) : Option Nat :=
  match C.load.bind (·.group) with
  | none => none
  | some g => (List.range 16).find? (fun k => g.peers.getD k 0xFFFF == peer && peer != 0xFFFF)

/-- The granules of a transfer in the replay buffer of its port: those that the peer has not acknowledged. -/
def XferRun.unacked (x : XferRun) (s : State) (ctx : Nat) (C : Ctx) : List TxFlit :=
  match C.portTo (x.words.getD 1 0).toNat with
  | some k => (s.port k).unacked.filter (fun f => f.body.ctx == ctx && f.tag == x.tag)
  | none => []

def XferRun.len (x : XferRun) : Nat := (x.words.getD 3 0).toNat
def XferRun.port (C : Ctx) (x : XferRun) : Option Nat := C.portTo (x.words.getD 1 0).toNat

/-- The contents of a flit that carries a granule of a context: what the virtual channel, the credits and the rest of the payload are
is not stated: free (logs 4, 53). -/
def State.flitBody (s : State) (ctx : Nat) (bs : List Byte) : FlitBody :=
  { ctx := ctx, vc := (s.free (2 ^ 42)).setWidth 8, credits := (s.free (2 ^ 42 + 1)).setWidth 80
    payload := bs ++ (List.range 21).flatMap (fun i => wordBytes (s.free (2 ^ 42 + 2 + i))) }

/-- The 256 bytes of a flit, its CRC last (R417; log 53). -/
def TxFlit.bytes (f : TxFlit) : List Byte :=
  let bs := leBytes 2 f.seq.toNat ++ leBytes 2 f.ack.toNat ++ [BitVec.ofNat 8 f.body.ctx, f.body.vc] ++
    leBytes 10 f.body.credits.toNat ++ f.body.payload
  bs ++ wordBytes (crc64 0 bs)

/-- The contents of a received flit (R417; log 53). -/
def flitBodyOf (flit : List Byte) : FlitBody :=
  { ctx := (flit.getD 4 0).toNat, vc := flit.getD 5 0, credits := BitVec.ofNat 80 (leNat ((flit.drop 6).take 10))
    payload := (flit.drop 16).take 232 }

/-- The next granule of a context's oldest transfer is read at its source, translated by the context, and leaves in a flit of the
port to the peer, which keeps it for replays (R417, R418). -/
def State.xferGranule (s : State) (ctx : Nat) : State :=
  match tget s.ctxs ctx with
  | none => s
  | some C => match C.xfers with
    | [] => s
    | x :: xs =>
      match x.port C, s.ctxRead C (fld (x.words.getD 0 0) 51 0 + 64 * x.sent) 64 with
      | some k, some bs =>
        let p := s.port k
        if !s.moving ctx || !p.up || decide (256 ≤ p.unacked.length) || decide (x.len ≤ 64 * x.sent) then s
        else
          let f : TxFlit := { seq := p.next, ack := p.expect, body := s.flitBody ctx bs, tag := x.tag }
          (s.setPort k { p with next := p.next + 1, unacked := p.unacked ++ [f] }).updCtx ctx (fun C =>
            { C with xfers := { x with sent := x.sent + 1 } :: xs })
      | _, _ => s

/-- A port replays from its first unacknowledged flit; eight replays of one flit that failed take the port down (R417). -/
def State.replayPort (s : State) (k : Nat) : State :=
  let p := s.port k
  if !p.up || p.unacked.isEmpty then s
  else s.setPort k (if p.replays < 8 then { p with replays := p.replays + 1 } else { p with up := false })

/-- An ACK acknowledges every flit before the SEQ that it names (log 53). -/
def Port.acked (p : Port) (ack : BitVec 16) : Port :=
  let n := (ack - (p.next - BitVec.ofNat 16 p.unacked.length)).toNat
  if n = 0 ∨ p.unacked.length < n then p else { p with unacked := p.unacked.drop n, replays := 0 }

/-- May a context's oldest transfer end with a status: done once every granule is acknowledged, port down when no port that is up
leads to the peer, refused by the peer otherwise (R414)? -/
def State.xferEnds (s : State) (ctx : Nat) (C : Ctx) (x : XferRun) (status : Nat) : Bool :=
  let open' : Option Nat := match x.port C with | some k => if (s.port k).up then some k else none | none => none
  match open', status with
  | some _, 0 => decide (64 * x.sent = x.len) && (x.unacked s ctx C).isEmpty
  | some _, 2 => true
  | none, 1 => true
  | _, _ => false

/-- Granules at consecutive addresses, each cut where a page ends. -/
def granuleParts (va : Nat) : List (List Byte) → List (Nat × List Byte)
  | [] => []
  | g :: gs => pageParts va g ++ granuleParts (va + 64) gs

/-- The granules of a transfer that arrives, in ascending order, each page translated for itself; one that its context may not write
ends it. -/
def State.xferWrite (s : State) (C : Ctx) : List (Nat × List Byte) → State × Bool
  | [] => (s, true)
  | (va, g) :: gs => match walk s C va 3 C.root with
    | .ok t => if t.ro then (s, false) else (s.pageWrite C va g).xferWrite C gs
    | .error _ => (s, false)

/-- The flits that a port holds for a context's transfer are used up. -/
def State.takeFlits (s : State) (k ctx : Nat) : State :=
  let p := s.port k
  s.setPort k { p with got := p.got.filter (fun b => b.ctx != ctx) }

/-- XFER_COMPLETE: at the source, the oldest transfer ends with a status and the bytes whose granules the peer has acknowledged; at the
peer, the granules are performed and the channel receives its message, which enters the mesh where the last granule arrived (R18; log
53). A context of another GROUP than the source's, or of none, takes nothing of it (R418). A message to a place that refuses it, a vacant
or off-mesh one among them, is lost: its sender is a port, to which no notice is returned (R10; log 53). -/
def execXferComplete (x : XferEnd) (s : State) : Host.Outcome State Fault Refusal :=
  match x with
  | .source ctx status =>
    match tget s.ctxs ctx with
    | none => .next s
    | some C => match C.xfers with
      | [] => .next s
      | t :: ts =>
        if !s.xferEnds ctx C t status then .next s
        else
        let moved := 64 * (t.sent - (t.unacked s ctx C).length)
        .next ((s.updCtx ctx (fun C => { C with xfers := ts })).complete ctx 8 t.tag (BitVec.ofNat 64 status) (BitVec.ofNat 64 moved) 0 [])
  | .peer ctx group port dst bytes msg tag =>
    match tget s.ctxs ctx with
    | none => .next s
    | some C =>
      if bytes.length % 64 ≠ 0 ∨ C.switch = .out then .next s
      else if C.groupNo ≠ some group then .next (s.takeFlits port.toNat ctx)
      else
        let e := scaleOutPort port.toNat
        let r := (s.takeFlits port.toNat ctx).xferWrite C (granuleParts (fld dst 51 0) (chunksOf 64 bytes.length bytes))
        match (if r.2 then msgTarget e msg else .error { code := 0, faddr := 0, extra := 0 }) with
        | .error _ => .next r.1
        | .ok (d, q) => .next (r.1.inject ctx e d
            (.msg q (plainMsg [0x60, tag, BitVec.ofNat 64 bytes.length]) { credit := none, notice := none, cmd := none }))

/-- SCALE_OUT_FLIT: a flit is received at a port. A bad CRC drops it and every later flit until its retransmission; eight
failed replays of the flit that is expected take the port down. A good flit is accepted with its contents, and acknowledges what the
port has sent. -/
def execScaleOutFlit (port : BitVec 4) (flit : List Byte) (s : State) : Host.Outcome State Fault Refusal :=
  let P := s.port port.toNat
  let good := decide (crc64 0 (flit.take 248) = leWord (flit.drop 248))
  let P' : Port :=
    if !P.up || decide (flit.length ≠ 256) then P
    else if !good then
      if !P.dropping then { P with dropping := true, failures := 0 }
      else if leNat (flit.take 2) = P.expect.toNat then { P with failures := P.failures + 1, up := decide (P.failures < 7) }
      else P
    else if leNat (flit.take 2) = P.expect.toNat then
      { P with expect := P.expect + 1, dropping := false, failures := 0, got := P.got ++ [flitBodyOf flit] }.acked (BitVec.ofNat 16 (leNat ((flit.drop 2).take 2)))
    else P
  .next (s.setPort port.toNat P')

end Sys2Proof.Machine
end

