-- ==== Sys2Proof/Machine/MemCore.lean ====
section
/-!
DEFINITION. Memory cores: major 0x15 (R298–R308) and their events.
-/
namespace Sys2Proof.Machine

/-! ### Block transfers (R299–R301) -/

/-- The transfer descriptor is valid for MCLD, or for MCST. -/
def transferOk (x : Word) (st : Bool) : Bool :=
  decide (fld x 63 30 = 0) && decide (1 ≤ fld x 28 16) && decide (fld x 28 16 ≤ 4096) && decide (fld x 15 0 % 64 = 0) &&
  decide (fld x 15 0 + fld x 28 16 ≤ 0x10000) && !(st && x.getLsbD 29)

/-- What a granule of a block transfer reports: SIZE 6, PROGRESS the granules below it (R297). -/
def granuleX (a : Word) (st : Bool) (cause mtag done : Nat) : Word :=
  MemX.word { size := 64, write := st, ptag := ptagOf a, mtag := mtag, cause := cause, progress := done }

/-- The first 32-byte granule of HBM, of n bytes at physical address pa, whose tag differs from a pointer's. -/
def granuleTag (s : State) (a : Word) (pa n : Nat) : Option (Nat × Nat) :=
  ((List.range ((n + 31) / 32)).map (fun i => (32 * i, (tagAt s (hbmKey (pa + 32 * i))).toNat))).find? (fun p => p.2 != ptagOf a)

/-- The far side of a granule of n bytes at a: its place and key, or the fault of its translation, tags or page. The virtual address or
IOVA of a fault (R297) is given as the generic address, aperture and tag included (log 23). -/
def granuleFar (s : State) (e : EId) (st code : Bool) (a : Word) (n done : Nat) : Except Flt (Place × Nat) :=
  let bad := fun (c cause : Nat) => Except.error { code := c, faddr := a, extra := granuleX a st cause 0 done }
  match resolve s e [8, 9] a with
  | .error c => bad 0x10 c
  | .ok (.host i) => match hostCause s e i n with
    | some c => bad 0x1C c
    | none => .ok (.host i, hostKey (s.hostOf e i))
  | .ok (.dev va) => match xlate s e va with
    | .error (c, cause) => bad c cause
    | .ok t =>
      if code && t.xn then bad 0x16 2
      else match (if t.tc then granuleTag s a (t.phys va) n else none) with
      | some (o, mtag) => .error { code := 0x12, faddr := a + BitVec.ofNat 64 o, extra := granuleX a st 0 mtag done }
      | none => if st && t.ro then bad 0x16 1 else .ok (.dev va, hbmKey (t.phys va))
  | .ok pl => .ok (pl, 0)

/-- Move n bytes from one key to another; the address of the unit in error that stops it, as a distance from the side. -/
def moveGranule (s : State) (src dst n : Nat) : Except (Bool × Nat) (State × List Byte) :=
  match poisonIn s src n with
  | some k => .error (false, k - src)
  | none =>
    let bs := memRead s.mem src n
    let s1 := clearPoison s dst n
    if s.barred (s.keyOf s.cur) dst n then .ok (s, bs)
    else match poisonIn s1 dst n with
    | some k => .error (true, k - dst)
    | none => .ok ({ s1 with mem := memWrite s1.mem dst bs }, bs)

/-- Transfer the granules from number g on: the state, the digest, and the fault with its granule that stops it. -/
def transferFrom (s : State) (e : EId) (st code : Bool) (a : Word) (off len : Nat) (dg : Word) (g : Nat) :
    Nat → State × Word × Option (Flt × Nat)
  | 0 => (s, dg, none)
  | left + 1 =>
    let n := Nat.min 64 (len - 64 * g)
    let ga := a + BitVec.ofNat 64 (64 * g)
    let so := off + 64 * g
    let t := match resolve s e [8, 9] ga with | .ok (.dev va) => noteXlate s e va | _ => s
    match granuleFar s e st code ga n g with
    | .error f => (t, dg, some (f, g))
    | .ok (pl, far) =>
      let near := s.ownKey e so
      match moveGranule t (if st then near else far) (if st then far else near) n with
      | .error (wr, o) =>
        let addr := (if wr = st then ga else BitVec.ofNat 64 so) + BitVec.ofNat 64 o
        (t, dg, some ({ code := 0x18, faddr := addr, extra := granuleX addr wr 0 0 g }, g))
      | .ok (t, bs) =>
        transferFrom (if st then t else t.dropOlds e so n) e st code a off len (foldPlace t e dg (if st then pl else .own so) bs) (g + 1) left

/-- MCLD and MCST: the checks, then the granules from 0, or from where a fault stopped the transfer (R300). -/
def blockTransfer (i : Instr) (s : State) (a b : Reg) (st : Bool) : Host.Outcome State Fault Refusal :=
  withMemCore i s (fun A =>
    let at' := A.reg a
    let x := A.reg b
    let off := fld x 15 0
    let len := fld x 28 16
    let ax := fun c => MemX.word { size := 64, write := st, ptag := ptagOf at', cause := c }
    if !transferOk x st then faultNow s 0x19 0 x
    else match resolve s s.cur [8, 9] at' with
    | .error c => faultNow s 0x10 at' (ax c)
    | .ok _ =>
      if fld at' 5 0 ≠ 0 then faultNow s 0x11 at' (ax 0)
      else match plan s s.cur { aps := [0], rd := st, wr := !st } (BitVec.ofNat 64 off) len with
      | .error f => finish (s, some f)
      | .ok _ =>
        let from' := match (s.elem s.cur).transfer.filter (fun T => T.insn == i && T.pc == A.pc) with
          | some T => (T.granules, T.digest)
          | none => (0, A.digest)
        match transferFrom s s.cur st (x.getLsbD 29) at' off len from'.2 from'.1 ((len + 63) / 64 - from'.1) with
        | (t, dg, none) => retire (t.updElem s.cur (fun E => { E with transfer := none })) { A with digest := dg } 4
        | (t, dg, some (f, g)) =>
          finish (t.updElem s.cur (fun E => { E with transfer := some { insn := i, pc := A.pc, granules := g, digest := dg } }), some f))

def execMcld (a b : Reg) (s : State) := blockTransfer (.mcld a b) s a b false
def execMcst (a b : Reg) (s : State) := blockTransfer (.mcst a b) s a b true

/-! ### Tile pushes (R302, R303) -/

/-- The push descriptor is valid. -/
def pushOk (x : Word) : Bool :=
  decide (fld x 31 29 = 0) && decide (fld x 63 48 = 0) && decide (1 ≤ fld x 28 16) && decide (fld x 28 16 ≤ 4096) &&
  decide (fld x 15 0 + fld x 28 16 ≤ 0x10000) && decide (fld x 47 32 % 64 = 0) && decide (fld x 47 32 + fld x 28 16 ≤ 0x10000)

def execMcpush (d a b : Reg) (s : State) : Host.Outcome State Fault Refusal :=
  withMemCore (.mcpush d a b) s (fun A =>
    match msgTarget s.cur (A.reg a) with
    | .error f => finish (s, some f)
    | .ok (dst, q) =>
      let x := A.reg b
      let off := fld x 15 0
      let len := fld x 28 16
      if !pushOk x then faultNow s 0x19 0 x
      else match ownCheck s off len with
      | some f => finish (s, some f)
      | none =>
        if (s.elem s.cur).avail < 1 then retire s (A.setReg d 1) 4
        else match ownSource s off len with
        | .error f => finish (s, some f)
        | .ok bs =>
          let m := plainMsg (A.mbs.take 6 ++ [BitVec.ofNat 64 len, BitVec.ofNat 64 (fld x 47 32)])
          sendOne s A d dst (.push q m (fld x 47 32) bs (sendRet s (A.reg a) 2 (2 ^ 15) (A.mbs.take 5))))

/-- TILE_PUSH_ACCEPT: the bytes of push k are written at DST and its token is queued, or the push is refused whole (R303);
for a member of a frond it waits (R356). -/
def execTilePushAccept (k : Nat) (s : State) : Host.Outcome State Fault Refusal :=
  arrival s k (fun f =>
    match f.body with
    | .push q m dst bs ret =>
      match s.refusal f with
      | some r => s.refuse f ret r
      | none => match f.dst with
        | none => s
        | some e =>
          if s.isHeldMember e || decide (4 ≤ (s.chan e (s.leads e) q.toNat).queue.length) then s
          else (s.deviceWrite f.src e dst bs).accept f e q.toNat m ret
    | _ => s)

/-! ### Translations and quarantine (R304, R305) -/

/-- Does a translation's page overlap n bytes from va, or is every translation meant? -/
def TlbEntry.hit (t : TlbEntry) (va n : Nat) : Bool := decide (n = 0) || (decide (t.va < va + n) && decide (va < t.va + 2 ^ t.log2))

/-- TLBINV judges register a before register b (0x19; log 23). -/
def execTlbinv (a b : Reg) (s : State) : Host.Outcome State Fault Refusal :=
  withMemCore (.tlbinv a b) s (fun A =>
    let at' := A.reg a
    let n := A.reg b
    match resolve s s.cur [8] at' with
    | .error c => faultNow s 0x10 at' (MemX.word { ptag := ptagOf at', cause := c })
    | .ok _ =>
      if fld at' 11 0 ≠ 0 then faultNow s 0x19 0 at'
      else if 2 ^ 20 < n.toNat then faultNow s 0x19 0 n
      else
        let ms := match s.ctxAt s.cur with | some C => C.memcores | none => []
        retire (ms.foldl (fun s m => s.updElem m (fun E => { E with
          tlb := E.tlb.filter (fun t => !t.2.hit (fld at' 51 0) (4096 * n.toNat)) })) s) A 4)

/-- log2 of the page of a size code. -/
def pageLog2 (c : Nat) : Nat := match c with | 0 => 12 | 1 => 16 | 2 => 21 | 3 => 25 | _ => 29

/-- The quiescence stamp (R186): every access to device memory is performed within the step that issues it, so it is TIME. -/
def State.quiescence (s : State) : Nat := s.time % 2 ^ 64

/-- PGREL.q judges the reserved bits of register a, the code in b, then the frame's alignment (0x19; log 23). The fault address of a frame
outside the allotment is register a (log 23). -/
def execPgrelQ (d a b : Reg) (s : State) : Host.Outcome State Fault Refusal :=
  withMemCore (.pgrelQ d a b) s (fun A =>
    let x := A.reg a
    let n := A.reg b
    let size := 2 ^ pageLog2 n.toNat
    if fld x 11 0 ≠ 0 ∨ fld x 63 52 ≠ 0 then faultNow s 0x19 0 x
    else if 4 < n.toNat then faultNow s 0x19 0 n
    else if x.toNat % size ≠ 0 then faultNow s 0x19 0 x
    else match s.ctxAt s.cur with
    | none => faultNow s 0x16 x (MemX.word { cause := 3 })
    | some C =>
      if x.toNat < C.allotBase ∨ C.allotBase + C.allotSize < x.toNat + size then faultNow s 0x16 x (MemX.word { cause := 3 })
      else if 1024 ≤ C.quarantine.length then retire s (A.setReg d 1) 4
      else retire (s.updCtx s.ctxNo (fun C => { C with quarantine := C.quarantine ++ [(x.toNat, n.toNat, s.time % 2 ^ 64)] }))
        (A.setReg d 0) 4)

def execPgrelR (d : Reg) (s : State) : Host.Outcome State Fault Refusal :=
  withMemCore (.pgrelR d) s (fun A =>
    match (s.ctxAt s.cur).bind (fun C => C.quarantine.head?) with
    | none => retire s (A.setReg d 0) 4
    | some (frame, code, tf) =>
      if tf < s.quiescence then
        retire (s.updCtx s.ctxNo (fun C => { C with quarantine := C.quarantine.tail }))
          (A.setReg d (BitVec.ofNat 64 (2 ^ 63 + frame + code))) 4
      else retire s (A.setReg d 0) 4)

def execQcnt (d : Reg) (s : State) : Host.Outcome State Fault Refusal :=
  withMemCore (.qcnt d) s (fun A => retire s (A.setReg d (BitVec.ofNat 64 s.quiescence)) 4)

/-! ### The weight store (R306–R308) -/

def execWswr (d a b : Reg) (s : State) : Host.Outcome State Fault Refusal :=
  withMemCore (.wswr d a b) s (fun A =>
    let o := A.reg a
    let x := A.reg b
    let src := fld x 15 0
    let len := fld x 28 16
    let n := fld x 37 32
    if fld o 63 29 ≠ 0 ∨ fld o 5 0 ≠ 0 then faultNow s 0x19 0 o
    else if src % 64 ≠ 0 ∨ len % 64 ≠ 0 ∨ len = 0 ∨ 4096 < len ∨ fld x 31 29 ≠ 0 ∨ fld x 63 38 ≠ 0 ∨
        0x18000000 < o.toNat + len ∨ 0x10000 < src + len then faultNow s 0x19 0 x
    else if !(match s.ctxAt s.cur with | some C => C.banksOk (eDie s.cur) o.toNat len | none => false) then
      faultNow s 0x1D o (MemX.word { size := 64, write := true })
    else match ownCheck s src len with
    | some f => finish (s, some f)
    | none =>
      if s.engineBusy n then stall s
      else if (match s.sheet s.ctxNo n with | some S => S.wave.isSome | none => false) then retire s (A.setReg d 1) 4
      else match ownSource s src len with
      | .error f => finish (s, some f)
      | .ok bs => retire { s with mem := memWrite s.mem (weightKey (eDie s.cur) o.toNat) bs } (A.setReg d 0) 4)

/-- The start of bank b's refresh window in progress at TIME t, or of its next one. -/
def refreshStart (b t : Nat) : Nat :=
  let w := 225 * b
  if t < w then w
  else
    let p := (t - w) % 57600
    if p < 256 then t - p else t - p + 57600

def execWsref (d a : Reg) (s : State) : Host.Outcome State Fault Refusal :=
  withMemCore (.wsref d a) s (fun A =>
    let x := A.reg a
    if fld x 63 8 ≠ 0 then faultNow s 0x19 0 x
    else retire s (A.setReg d (BitVec.ofNat 64 (refreshStart x.toNat (s.time % 2 ^ 64)))) 4)

/-- REFRESH_WINDOW: a bank enters its window; it delays accesses and changes no state (R308). -/
def execRefreshWindow (_die _bank : Nat) (s : State) : Host.Outcome State Fault Refusal := .next s

/-- HOST_COMPLETION_TIMEOUT: the next completion that element e waits for times out: a memory core's access faults with 0x1C (R295), the
management core's copy of an image refuses the launch (R409). -/
def execHostCompletionTimeout (e : EId) (s : State) : Host.Outcome State Fault Refusal :=
  .next (if isMemCore e || e == mgmtCore then s.updElem e (fun E => { E with hostTimeout := true }) else s)

end Sys2Proof.Machine
end

