-- ==== Sys2Proof/Machine/Vector.lean ====
section
/-!
DEFINITION. Vector instructions: majors 0x0C–0x10 (R208–R227).
-/
namespace Sys2Proof.Machine

/-! ### Lanes and masks (R210) -/

/-- Lane i of a register in lanes of w bits. -/
def lane (v : Vec) (w i : Nat) : Nat := v.toNat / 2 ^ (w * i) % 2 ^ w

/-- The register whose lanes of w bits are the values of a list, lane 0 first. -/
def ofLanes (w : Nat) (l : List Nat) : Vec := BitVec.ofNat 512 (l.foldr (fun x acc => acc * 2 ^ w + x % 2 ^ w) 0)

def vreg (s : State) (r : VReg) : Vec := vget 0 (s.elem s.cur).v r.toNat
def kreg (s : State) (r : Nat) : Word := vget 0 (s.elem s.cur).k r

def State.setV (s : State) (r : VReg) (x : Vec) : State := s.updElem s.cur (fun E => { E with v := vset E.v r.toNat x })
def State.setK (s : State) (r : Nat) (x : Word) : State := s.updElem s.cur (fun E => { E with k := vset E.k r x })

/-- Is lane i active under mask slot k? -/
def active (s : State) (k : BitVec 3) (i : Nat) : Bool := decide (k = 0) || (kreg s k.toNat).getLsbD i

def lanesOf (z : BitVec 3) : Nat := 512 / zWidth z.toNat

/-- Write f(i) to every active lane of d; the others keep their values. -/
def vecOp (s : State) (d : VReg) (k z : BitVec 3) (f : Nat → Nat) : Host.Outcome State Fault Refusal :=
  withAct s (fun A =>
    let w := zWidth z.toNat
    let old := vreg s d
    retire (s.setV d (ofLanes w ((List.range (512 / w)).map (fun i => if active s k i then f i else lane old w i)))) A 4)

/-- Write every lane of d. -/
def vecAll (s : State) (d : VReg) (z : BitVec 3) (l : List Nat) : Host.Outcome State Fault Refusal :=
  withAct s (fun A => retire (s.setV d (ofLanes (zWidth z.toNat) l)) A 4)

/-- Set bit i of mask register d where lane i is active and the condition holds; clear every other bit (R219). -/
def maskOp (s : State) (d : VReg) (k z : BitVec 3) (f : Nat → Bool) : Host.Outcome State Fault Refusal :=
  withAct s (fun A =>
    let bits := (List.range (lanesOf z)).foldl (fun acc i => if active s k i && f i then acc + 2 ^ i else acc) 0
    retire (s.setK d.toNat (BitVec.ofNat 64 bits)) A 4)

def lane1 (s : State) (z : BitVec 3) (r : VReg) (i : Nat) : Nat := lane (vreg s r) (zWidth z.toNat) i

/-! ### Floating point (R218–R220) -/

/-- A lane function of the exact values of two registers, rounded once. -/
def floatOp (s : State) (d : VReg) (k z : BitVec 3) (a b : VReg) (f : FVal → FVal → FVal) :=
  let F := zFmt z.toNat
  vecOp s d k z (fun i => F.round (f (F.decode (lane1 s z a i)) (F.decode (lane1 s z b i))))

def floatOp3 (s : State) (d : VReg) (k z : BitVec 3) (a b c : VReg) (f : FVal → FVal → FVal → FVal) :=
  let F := zFmt z.toNat
  vecOp s d k z (fun i => F.round (f (F.decode (lane1 s z a i)) (F.decode (lane1 s z b i)) (F.decode (lane1 s z c i))))

/-- The smaller or larger of two floating codes; the canonical NaN when either is NaN. -/
def floatPick (F : Fmt) (big : Bool) (x y : Nat) : Nat :=
  match (F.decode x).ord (F.decode y) with
  | none => F.nanCode
  | some c => if (if big then decide (0 ≤ c) else decide (c ≤ 0)) then x else y

def signBit (z : BitVec 3) : Nat := 2 ^ (zWidth z.toNat - 1)

def execFadd (d : VReg) (k z : BitVec 3) (a b : VReg) (s : State) := floatOp s d k z a b FVal.add
def execFsub (d : VReg) (k z : BitVec 3) (a b : VReg) (s : State) := floatOp s d k z a b (fun x y => x.add y.neg)
def execFmul (d : VReg) (k z : BitVec 3) (a b : VReg) (s : State) := floatOp s d k z a b FVal.mul
def execFmin (d : VReg) (k z : BitVec 3) (a b : VReg) (s : State) :=
  vecOp s d k z (fun i => floatPick (zFmt z.toNat) false (lane1 s z a i) (lane1 s z b i))
def execFmax (d : VReg) (k z : BitVec 3) (a b : VReg) (s : State) :=
  vecOp s d k z (fun i => floatPick (zFmt z.toNat) true (lane1 s z a i) (lane1 s z b i))
def execFabs (d : VReg) (k z : BitVec 3) (a : VReg) (s : State) :=
  vecOp s d k z (fun i => lane1 s z a i % signBit z)
def execFneg (d : VReg) (k z : BitVec 3) (a : VReg) (s : State) :=
  vecOp s d k z (fun i => lane1 s z a i ^^^ signBit z)
def execFcps (d : VReg) (k z : BitVec 3) (a b : VReg) (s : State) :=
  vecOp s d k z (fun i => lane1 s z a i % signBit z + lane1 s z b i / signBit z * signBit z)

/-- The conditions of FCMP (R219). -/
def fcmpHolds (c : Nat) (x y : FVal) : Bool :=
  match c, x.cmp y with
  | 3, r => r.isNone
  | 0, some v => decide (v = 0)
  | 1, some v => decide (v < 0)
  | 2, some v => decide (v ≤ 0)
  | _, _ => false

def execFcmp (d : VReg) (k z : BitVec 3) (a b : VReg) (c : BitVec 2) (s : State) :=
  let F := zFmt z.toNat
  maskOp s d k z (fun i => fcmpHolds c.toNat (F.decode (lane1 s z a i)) (F.decode (lane1 s z b i)))
def execFclass (d : VReg) (k z : BitVec 3) (a : VReg) (s : State) :=
  vecOp s d k z (fun i => fclass (zFmt z.toNat) (lane1 s z a i))
def execFma (d : VReg) (k z : BitVec 3) (a b c : VReg) (s : State) :=
  floatOp3 s d k z a b c (fun x y w => (x.mul y).add w)
def execFms (d : VReg) (k z : BitVec 3) (a b c : VReg) (s : State) :=
  floatOp3 s d k z a b c (fun x y w => (x.mul y).add w.neg)
def execFnma (d : VReg) (k z : BitVec 3) (a b c : VReg) (s : State) :=
  floatOp3 s d k z a b c (fun x y w => (x.mul y).neg.add w)

/-! ### Integer lanes (R221) -/

/-- A lane function of two registers, modulo the lane width. -/
def intOp (s : State) (d : VReg) (k z : BitVec 3) (a b : VReg) (f : Nat → Nat → Nat → Nat) :=
  vecOp s d k z (fun i => f (zWidth z.toNat) (lane1 s z a i) (lane1 s z b i))

/-- A lane read as a signed integer. -/
def sLane (w x : Nat) : Int := sextNat x w
def ofSigned (w : Nat) (v : Int) : Nat := (v % (2 ^ w : Nat)).toNat

def execVadd (d : VReg) (k z : BitVec 3) (a b : VReg) (s : State) := intOp s d k z a b (fun _ x y => x + y)
def execVsub (d : VReg) (k z : BitVec 3) (a b : VReg) (s : State) := intOp s d k z a b (fun w x y => x + 2 ^ w - y)
def execVmul (d : VReg) (k z : BitVec 3) (a b : VReg) (s : State) := intOp s d k z a b (fun _ x y => x * y)
def execVand (d : VReg) (k z : BitVec 3) (a b : VReg) (s : State) := intOp s d k z a b (fun _ x y => x &&& y)
def execVor (d : VReg) (k z : BitVec 3) (a b : VReg) (s : State) := intOp s d k z a b (fun _ x y => x ||| y)
def execVxor (d : VReg) (k z : BitVec 3) (a b : VReg) (s : State) := intOp s d k z a b (fun _ x y => x ^^^ y)
def execVshl (d : VReg) (k z : BitVec 3) (a b : VReg) (s : State) := intOp s d k z a b (fun w x y => x * 2 ^ (y % w))
def execVshr (d : VReg) (k z : BitVec 3) (a b : VReg) (s : State) := intOp s d k z a b (fun w x y => x / 2 ^ (y % w))
def execVsra (d : VReg) (k z : BitVec 3) (a b : VReg) (s : State) :=
  intOp s d k z a b (fun w x y => ofSigned w (sLane w x / ((2 ^ (y % w) : Nat) : Int)))
def execVsel (d : VReg) (k z : BitVec 3) (a b : VReg) (s : State) :=
  vecOp s d k z (fun i => if lane1 s z d i ≠ 0 then lane1 s z a i else lane1 s z b i)
def execVminI (d : VReg) (k z : BitVec 3) (a b : VReg) (s : State) :=
  intOp s d k z a b (fun w x y => if sLane w x ≤ sLane w y then x else y)
def execVminN (d : VReg) (k z : BitVec 3) (a b : VReg) (s : State) := intOp s d k z a b (fun _ x y => if x ≤ y then x else y)
def execVmaxI (d : VReg) (k z : BitVec 3) (a b : VReg) (s : State) :=
  intOp s d k z a b (fun w x y => if sLane w y ≤ sLane w x then x else y)
def execVmaxN (d : VReg) (k z : BitVec 3) (a b : VReg) (s : State) := intOp s d k z a b (fun _ x y => if y ≤ x then x else y)

/-- The conditions of VCMP (R221). -/
def vcmpHolds (c w x y : Nat) : Bool :=
  match c with
  | 0 => decide (x = y)
  | 1 => decide (x ≠ y)
  | 2 => decide (sLane w x < sLane w y)
  | 3 => decide (sLane w x ≤ sLane w y)
  | 4 => decide (x < y)
  | _ => decide (x ≤ y)

def execVcmp (d : VReg) (k z : BitVec 3) (a b : VReg) (c : BitVec 3) (s : State) :=
  maskOp s d k z (fun i => vcmpHolds c.toNat (zWidth z.toNat) (lane1 s z a i) (lane1 s z b i))
def execVmad (d : VReg) (k z : BitVec 3) (a b c : VReg) (s : State) :=
  vecOp s d k z (fun i => lane1 s z a i * lane1 s z b i + lane1 s z c i)

/-! ### Permute, reduce and mask (R211, R212, R222–R224) -/

/-- A 4-bit slot that names w0–w15 (R34). -/
def w4 (r : VReg) : Reg := r.setWidth 6

def execVbcast (d : VReg) (k z : BitVec 3) (a : VReg) (s : State) : Host.Outcome State Fault Refusal :=
  withAct s (fun A => vecOp s d k z (fun _ => (A.reg (w4 a)).toNat % 2 ^ zWidth z.toNat))
def execVperm (d : VReg) (k z : BitVec 3) (a b : VReg) (s : State) :=
  vecOp s d k z (fun i => lane1 s z a (lane1 s z b i % lanesOf z))

/-- The lanes for VMAXI: the best so far, or the first NaN, with its number. -/
def maxLane (F : Fmt) (gt : Nat → Nat → Bool) : List (Nat × Nat) → Option (Nat × Nat)
  | [] => none
  | (i, x) :: l =>
    if (F.decode x).isNan then some (i, F.nanCode)
    else match maxLane F gt l with
    | some (j, y) => if (F.decode y).isNan || gt y x then some (j, y) else some (i, x)
    | none => some (i, x)

/-- VMAXI with an order and its identity of .max (R223). -/
def vmaxOp (s : State) (d : VReg) (k z : BitVec 3) (a : VReg) (gt : Nat → Nat → Bool) (ident : Nat) :=
  let F := zFmt z.toNat
  let w := zWidth z.toNat
  let n := lanesOf z
  let l := ((List.range n).filter (fun i => active s k i)).map (fun i => (i, lane1 s z a i))
  let r := (maxLane F gt l).getD (2 ^ w - 1, ident)
  vecAll s d z (r.2 :: r.1 :: List.replicate (n - 2) 0)

/-- Order of lanes by an element type, integers as signed. -/
def laneGt (F : Fmt) (x y : Nat) : Bool :=
  match (F.decode x).ord (F.decode y) with
  | some c => decide (0 < c)
  | none => false

def execVmaxi (d : VReg) (k z : BitVec 3) (a : VReg) (s : State) :=
  let F := zFmt z.toNat
  vmaxOp s d k z a (laneGt F) (if F.isInt then 2 ^ (zWidth z.toNat - 1) else F.round (.inf true))
def execVmaxiN (d : VReg) (k z : BitVec 3) (a : VReg) (s : State) :=
  vmaxOp s d k z a (fun x y => decide (y < x)) 0

def execKand (d a b : VReg) (s : State) : Host.Outcome State Fault Refusal :=
  withAct s (fun A => retire (s.setK d.toNat (kreg s a.toNat &&& kreg s b.toNat)) A 4)
def execKor (d a b : VReg) (s : State) : Host.Outcome State Fault Refusal :=
  withAct s (fun A => retire (s.setK d.toNat (kreg s a.toNat ||| kreg s b.toNat)) A 4)
def execKnot (d a : VReg) (s : State) : Host.Outcome State Fault Refusal :=
  withAct s (fun A => retire (s.setK d.toNat (~~~kreg s a.toNat)) A 4)
def execKmov (d a b : VReg) (s : State) : Host.Outcome State Fault Refusal :=
  withAct s (fun A =>
    match b.toNat with
    | 0 => retire (s.setK d.toNat (kreg s a.toNat)) A 4
    | 1 => retire (s.setK d.toNat (A.reg (w4 a))) A 4
    | _ => retire s (A.setReg (w4 d) (kreg s a.toNat)) 4)

/-- The combination of operation o of VRED and VSCAN on two lanes (R224). -/
def redOp (F : Fmt) (o x y : Nat) : Nat :=
  let w := F.bits
  if F.isInt then
    match o with
    | 0 => (x + y) % 2 ^ w
    | 1 => if sLane w x ≤ sLane w y then x else y
    | 2 => if sLane w y ≤ sLane w x then x else y
    | 3 => x &&& y
    | 4 => x ||| y
    | 5 => x ^^^ y
    | 6 => Nat.min x y
    | _ => Nat.max x y
  else
    match o with
    | 0 => F.round ((F.decode x).add (F.decode y))
    | 1 => floatPick F false x y
    | _ => floatPick F true x y

/-- The identity of an operation (R211). -/
def redIdent (F : Fmt) (o : Nat) : Nat :=
  let w := F.bits
  if F.isInt then
    match o with
    | 1 => 2 ^ (w - 1) - 1
    | 2 => 2 ^ (w - 1)
    | 3 => 2 ^ w - 1
    | 6 => 2 ^ w - 1
    | _ => 0
  else
    match o with
    | 0 => F.round (.fin true 0 0)
    | 1 => F.round (.inf false)
    | _ => F.round (.inf true)

/-- One level of the tree: adjacent pairs combined. -/
def pairs (f : Nat → Nat → Nat) : List Nat → List Nat
  | x :: y :: l => f x y :: pairs f l
  | l => l

/-- The tree of R211 over 2^n lanes. -/
def treeRed (f : Nat → Nat → Nat) : Nat → List Nat → List Nat
  | 0, l => l
  | n + 1, l => treeRed f n (pairs f l)

/-- The scan of R212. -/
def scanFrom (f : Nat → Nat → Nat) (acc : Nat) : List Nat → List Nat
  | [] => []
  | x :: l => f acc x :: scanFrom f (f acc x) l

/-- A floating lane with a NaN made canonical; any other lane unchanged. -/
def canonLane (F : Fmt) (x : Nat) : Nat := if (F.decode x).isNan then F.nanCode else x

def contributing (s : State) (k z : BitVec 3) (a : VReg) (o : Nat) : List Nat :=
  (List.range (lanesOf z)).map (fun i => if active s k i then lane1 s z a i else redIdent (zFmt z.toNat) o)

def execVred (d : VReg) (k z : BitVec 3) (a : VReg) (o : BitVec 4) (s : State) :=
  let r := treeRed (redOp (zFmt z.toNat) o.toNat) (lg (lanesOf z)) (contributing s k z a o.toNat)
  vecAll s d z (r.getD 0 0 :: List.replicate (lanesOf z - 1) 0)
def execVscan (d : VReg) (k z : BitVec 3) (a : VReg) (o : BitVec 4) (s : State) :=
  vecAll s d z (match contributing s k z a o.toNat with
    | [] => []
    | x :: l => canonLane (zFmt z.toNat) x :: scanFrom (redOp (zFmt z.toNat) o.toNat) x l)

/-! ### Conversion and helpers (R213, R214, R225, R226) -/

def execFcvt (d : VReg) (k z : BitVec 3) (a b : VReg) (s : State) :=
  let dst := zFmt z.toNat
  let src := zFmt (b.toNat % 8)
  let rm := if b.toNat < 8 then 0 else 1
  vecOp s d k z (fun i =>
    if i < 512 / src.bits then dst.round (src.decode (lane (vreg s a) src.bits i)) rm else 0)
def execFrnd (d : VReg) (k z : BitVec 3) (a b : VReg) (s : State) :=
  let F := zFmt z.toNat
  vecOp s d k z (fun i => F.round ((F.decode (lane1 s z a i)).integral (b.toNat % 4)))
def execFseed (d : VReg) (k z : BitVec 3) (a b : VReg) (s : State) :=
  let F := zFmt z.toNat
  vecOp s d k z (fun i =>
    let x := F.decode (lane1 s z a i)
    F.round (if b = 0 then seedRcp x else seedRsq x))
def execFred (d : VReg) (k z : BitVec 3) (a b : VReg) (s : State) :=
  vecOp s d k z (fun i => fred (zFmt z.toNat) b.toNat (lane1 s z a i) (lane1 s z d i))
def execFscale (d : VReg) (k z : BitVec 3) (a b : VReg) (s : State) :=
  vecOp s d k z (fun i => fscale (zFmt z.toNat) (lane1 s z a i) (lane1 s z b i))
def execFexpo (d : VReg) (k z : BitVec 3) (a : VReg) (s : State) :=
  vecOp s d k z (fun i => fexpo (zFmt z.toNat) (lane1 s z a i))
def execFmant (d : VReg) (k z : BitVec 3) (a : VReg) (s : State) :=
  vecOp s d k z (fun i => fmant (zFmt z.toNat) (lane1 s z a i))

/-! ### Windows (R208, R209) and vector loads and stores (R227) -/

/-- How a window moves elements: bytes of an element, bytes a lane, and the format (none: raw). -/
structure Win where
  cfg : Word
  elem : Nat
  fmt : Option Fmt

def Win.lane (w : Win) : Fmt := zFmt (fld w.cfg 22 20)
def Win.width (w : Win) : Nat := w.lane.bits
def Win.scale (w : Win) : Int := sextNat (fld w.cfg 19 12) 8
def Win.rm (w : Win) : Nat := fld w.cfg 9 8
def Win.sat (w : Win) : Bool := w.cfg.getLsbD 10

/-- The window of a WCFG value, if R208 accepts it. -/
def winOf (cfg : Word) : Option Win :=
  let l := zFmt (fld cfg 22 20)
  match codeFmt (fld cfg 7 0) with
  | none => if fld cfg 7 0 = 0 then some { cfg := cfg, elem := l.bits / 8, fmt := none } else none
  | some F =>
    let ok := decide (F.bits ≤ l.bits) && (if l.isInt then F.isInt && decide (fld cfg 19 12 = 0) else true)
    if ok then some { cfg := cfg, elem := F.bits / 8, fmt := some F } else none

/-- Scale a value by 2^n. -/
def FVal.scale (v : FVal) (n : Int) : FVal :=
  match v with
  | .fin s m e => .fin s m (e + n)
  | v => v

/-- A lane from an element. -/
def Win.load (w : Win) (x : Nat) : Nat :=
  match w.fmt with
  | none => x
  | some F =>
    if w.lane.isInt then (match F.decode x with | .fin s m _ => ofSigned w.width (if s then -(m : Int) else m) | _ => 0)
    else w.lane.round ((F.decode x).scale w.scale) w.rm

/-- An element from a lane. -/
def Win.store (w : Win) (x : Nat) : Nat :=
  match w.fmt with
  | none => x
  | some F =>
    if w.lane.isInt then F.ofInt (if F.unsigned then (x : Int) else sLane w.width x)
    else F.round ((w.lane.decode x).scale (-w.scale)) w.rm w.sat

/-- The maximal runs of active lanes among n, as first lane and count. -/
def runsOf (act : Nat → Bool) (n : Nat) : List (Nat × Nat) :=
  (List.range n).foldl (fun acc i =>
    if act i then
      match acc.reverse with
      | (f, c) :: r => if f + c = i then (r.reverse ++ [(f, c + 1)]) else acc ++ [(i, 1)]
      | [] => [(i, 1)]
    else acc) []

/-- The pieces of the active elements at an address of its memory: each maximal run is split by R155. -/
def runPieces (base atom elem : Nat) (runs : List (Nat × Nat)) : List Part :=
  runs.flatMap (fun r =>
    let o := r.1 * elem
    (splitAccess (base + o) (r.2 * elem) atom).map (fun p => { p with off := o + p.off }))

/-- The bytes between elements that alignment is checked against: 1 for a raw window. -/
def Win.align (w : Win) : Nat := if w.fmt.isNone then 1 else w.elem

/-- The window number of an address of aperture 0 (R145, R349). -/
def windowOf (s : State) (e : EId) (a : Word) : Nat := if (s.frondOf e).isSome then fld a 22 20 else fld a 18 16

/-- The window word that a vector access uses (R208); WCFG0 through aperture 1, and for the test that no lane is active through every
other aperture (log 23). -/
def windowWord (s : State) (e : EId) (a : Word) : Word :=
  let k := if apOf a = 0 then windowOf s e a else 0
  vget 0 (s.elem e).wcfg k

/-- The checks of R227 on the active lanes: the window, the place of lane 0, and the pieces. An alignment fault reports the size of an
element, and an aperture fault of ea that of the first active piece, also where no piece lies at ea (log 23). -/
def vecPlan (s : State) (e : EId) (k : BitVec 3) (a : Word) (wr : Bool) : Except Flt (Option (Win × Place × List Nat × List Piece)) :=
  let cfg := windowWord s e a
  let act := fun w : Nat => (List.range (512 / w)).filter (fun i => active s k i)
  let need : Need := { aps := apsLocal e, rd := !wr, wr := wr }
  let ptag := ptagOf a
  let parts := fun w : Win => runPieces (splitBase s e a) (atomOf a) w.elem (runsOf (fun i => active s k i) (512 / w.width))
  let firstSize := match winOf cfg with
    | some w => ((parts w).head?.map Part.whole).getD 1
    | none => 1
  if (act (zFmt (fld cfg 22 20)).bits).isEmpty then .ok none
  else match resolve s e (apsLocal e) a with
  | .error c =>
    .error { code := 0x10, faddr := a, extra := MemX.word { size := firstSize, write := wr, ptag := ptag, cause := c } }
  | .ok pl =>
    match winOf cfg with
    | none => .error { code := 0x1A, faddr := a, extra := cfg }
    | some w =>
      let lanes := act w.width
      match resolvePieces s e need a (parts w) with
      | .error f => .error f
      | .ok ps =>
        if a.toNat % w.align ≠ 0 then
          .error { code := 0x11, faddr := a, extra := MemX.word { size := w.elem, write := wr, ptag := ptag } }
        else match checkPieces s e need a ps with
        | some f => .error f
        | none => .ok (some (w, pl, lanes, ps))

/-- The elements of consecutive bytes. -/
def elemsOf (n : Nat) (bs : List Byte) (count : Nat) : List Nat := (List.range count).map (fun j => leNat ((bs.drop (n * j)).take n))

def execVld (d : VReg) (k : BitVec 3) (a : Reg) (i : BitVec 8) (s : State) : Host.Outcome State Fault Refusal :=
  withAct s (fun A =>
    let ea := A.reg a + immS i
    match vecPlan s s.cur k ea false with
    | .error f => finish (s, some f)
    | .ok none => retire s A 4
    | .ok (some (w, _, lanes, ps)) =>
      match readPieces s ps 0 with
      | .error f => finish (s, some f)
      | .ok bs =>
        let vals := lanes.zip (elemsOf w.elem bs lanes.length)
        let old := vreg s d
        let out := (List.range (512 / w.width)).map (fun j =>
          match vals.find? (fun p => p.1 == j) with
          | some p => w.load p.2
          | none => lane old w.width j)
        retire (s.setV d (ofLanes w.width out)) A 4)

/-- The bytes that a vector store writes, by distance from the address; none where a lane is inactive. -/
def storedBytes (w : Win) (v : Vec) (lanes : List Nat) : List (Option Byte) :=
  (List.range (512 / w.width)).flatMap (fun j =>
    if lanes.contains j then (leBytes w.elem (w.store (lane v w.width j))).map some else List.replicate w.elem none)

def execVst (d : VReg) (k : BitVec 3) (a : Reg) (i : BitVec 8) (s : State) : Host.Outcome State Fault Refusal :=
  withAct s (fun A =>
    let ea := A.reg a + immS i
    match vecPlan s s.cur k ea true with
    | .error f => finish (s, some f)
    | .ok none => retire s A 4
    | .ok (some (w, pl, lanes, ps)) =>
      let bs := storedBytes w (vreg s d) lanes
      match writePieces s ps (bs.filterMap id) 0 with
      | (t, some f) => finish (t, some f)
      | (t, none) => retire t { A with digest := foldAt s s.cur A.digest pl bs } 4)

end Sys2Proof.Machine
end

