-- ==== Sys2Proof/Machine/Dispatch.lean ====
section
/-!
DEFINITION. One arm per constructor of `Instr`: the meaning of the instruction or event.
-/
namespace Sys2Proof.Machine

/-- Execute an instruction in the running activation of `s.cur`, or let an event of the device happen. -/
def exec (i : Instr) (s : State) : Host.Outcome State Fault Refusal :=
  match i with
  | .add d a b => Sys2Proof.Machine.execAdd d a b s
  | .sub d a b => Sys2Proof.Machine.execSub d a b s
  | .mul d a b => Sys2Proof.Machine.execMul d a b s
  | .mulh d a b n => Sys2Proof.Machine.execMulh d a b n s
  | .div d a b n => Sys2Proof.Machine.execDiv d a b n s
  | .rem d a b n => Sys2Proof.Machine.execRem d a b n s
  | .and d a b => Sys2Proof.Machine.execAnd d a b s
  | .or d a b => Sys2Proof.Machine.execOr d a b s
  | .xor d a b => Sys2Proof.Machine.execXor d a b s
  | .shl d a b => Sys2Proof.Machine.execShl d a b s
  | .shr d a b => Sys2Proof.Machine.execShr d a b s
  | .sra d a b => Sys2Proof.Machine.execSra d a b s
  | .rotl d a b => Sys2Proof.Machine.execRotl d a b s
  | .min d a b n => Sys2Proof.Machine.execMin d a b n s
  | .max d a b n => Sys2Proof.Machine.execMax d a b n s
  | .sel d a b => Sys2Proof.Machine.execSel d a b s
  | .addi d a imm => Sys2Proof.Machine.execAddi d a imm s
  | .andi d a imm => Sys2Proof.Machine.execAndi d a imm s
  | .ori d a imm => Sys2Proof.Machine.execOri d a imm s
  | .xori d a imm => Sys2Proof.Machine.execXori d a imm s
  | .shlImm d a imm => Sys2Proof.Machine.execShlImm d a imm s
  | .shrImm d a imm => Sys2Proof.Machine.execShrImm d a imm s
  | .sraImm d a imm => Sys2Proof.Machine.execSraImm d a imm s
  | .rotlImm d a imm => Sys2Proof.Machine.execRotlImm d a imm s
  | .seqImm d a imm => Sys2Proof.Machine.execSeqImm d a imm s
  | .sneImm d a imm => Sys2Proof.Machine.execSneImm d a imm s
  | .sltImm d a imm => Sys2Proof.Machine.execSltImm d a imm s
  | .sleImm d a imm => Sys2Proof.Machine.execSleImm d a imm s
  | .not d a => Sys2Proof.Machine.execNot d a s
  | .clz d a => Sys2Proof.Machine.execClz d a s
  | .ctz d a => Sys2Proof.Machine.execCtz d a s
  | .popc d a => Sys2Proof.Machine.execPopc d a s
  | .seq d a b => Sys2Proof.Machine.execSeq d a b s
  | .sne d a b => Sys2Proof.Machine.execSne d a b s
  | .slt d a b n => Sys2Proof.Machine.execSlt d a b n s
  | .sle d a b n => Sys2Proof.Machine.execSle d a b n s
  | .li d imm => Sys2Proof.Machine.execLi d imm s
  | .lih d imm => Sys2Proof.Machine.execLih d imm s
  | .br imm => Sys2Proof.Machine.execBr imm s
  | .call imm => Sys2Proof.Machine.execCall imm s
  | .brc a c imm => Sys2Proof.Machine.execBrc a c imm s
  | .jmp d a => Sys2Proof.Machine.execJmp d a s
  | .ret => Sys2Proof.Machine.execRet s
  | .endt => Sys2Proof.Machine.execEndt s
  | .yield a b => Sys2Proof.Machine.execYield a b s
  | .mka d a b z => Sys2Proof.Machine.execMka d a b z s
  | .nop => Sys2Proof.Machine.execNop s
  | .ld d z a imm => Sys2Proof.Machine.execLd d z a imm s
  | .ldSigned d z a imm => Sys2Proof.Machine.execLdSigned d z a imm s
  | .st d z a imm => Sys2Proof.Machine.execSt d z a imm s
  | .ldx d a b z => Sys2Proof.Machine.execLdx d a b z s
  | .stx d a b z => Sys2Proof.Machine.execStx d a b z s
  | .ldm d a b => Sys2Proof.Machine.execLdm d a b s
  | .stm d a b => Sys2Proof.Machine.execStm d a b s
  | .ltag d a => Sys2Proof.Machine.execLtag d a s
  | .stag a b => Sys2Proof.Machine.execStag a b s
  | .cva d a z => Sys2Proof.Machine.execCva d a z s
  | .tsta d a b => Sys2Proof.Machine.execTsta d a b s
  | .regionRd d b => Sys2Proof.Machine.execRegionRd d b s
  | .regionWr a b => Sys2Proof.Machine.execRegionWr a b s
  | .rld d a z => Sys2Proof.Machine.execRld d a z s
  | .rst d a b z => Sys2Proof.Machine.execRst d a b z s
  | .rcopy d a b => Sys2Proof.Machine.execRcopy d a b s
  | .amo d o a b z => Sys2Proof.Machine.execAmo d o a b z s
  | .ramo d o a b z => Sys2Proof.Machine.execRamo d o a b z s
  | .fence b => Sys2Proof.Machine.execFence b s
  | .bar a b => Sys2Proof.Machine.execBar a b s
  | .scw a => Sys2Proof.Machine.execScw a s
  | .scr d a b => Sys2Proof.Machine.execScr d a b s
  | .ldAcq d a z => Sys2Proof.Machine.execLdAcq d a z s
  | .stRel d a z => Sys2Proof.Machine.execStRel d a z s
  | .cas d a b z => Sys2Proof.Machine.execCas d a b z s
  | .rcas d a b z => Sys2Proof.Machine.execRcas d a b z s
  | .send d a => Sys2Proof.Machine.execSend d a s
  | .sendb d a b => Sys2Proof.Machine.execSendb d a b s
  | .sendw d a => Sys2Proof.Machine.execSendw d a s
  | .sendk d a b => Sys2Proof.Machine.execSendk d a b s
  | .sendh d => Sys2Proof.Machine.execSendh d s
  | .allow d a => Sys2Proof.Machine.execAllow d a s
  | .bind a => Sys2Proof.Machine.execBind a s
  | .unbind a => Sys2Proof.Machine.execUnbind a s
  | .prio a => Sys2Proof.Machine.execPrio a s
  | .bincfg a b => Sys2Proof.Machine.execBincfg a b s
  | .binseal d a => Sys2Proof.Machine.execBinseal d a s
  | .binrd d a b => Sys2Proof.Machine.execBinrd d a b s
  | .evset a b => Sys2Proof.Machine.execEvset a b s
  | .evclr a => Sys2Proof.Machine.execEvclr a s
  | .evadd a b => Sys2Proof.Machine.execEvadd a b s
  | .evarm a b => Sys2Proof.Machine.execEvarm a b s
  | .fadd d k z a b => Sys2Proof.Machine.execFadd d k z a b s
  | .fsub d k z a b => Sys2Proof.Machine.execFsub d k z a b s
  | .fmul d k z a b => Sys2Proof.Machine.execFmul d k z a b s
  | .fmin d k z a b => Sys2Proof.Machine.execFmin d k z a b s
  | .fmax d k z a b => Sys2Proof.Machine.execFmax d k z a b s
  | .fabs d k z a => Sys2Proof.Machine.execFabs d k z a s
  | .fneg d k z a => Sys2Proof.Machine.execFneg d k z a s
  | .fcps d k z a b => Sys2Proof.Machine.execFcps d k z a b s
  | .fcmp d k z a b c => Sys2Proof.Machine.execFcmp d k z a b c s
  | .fclass d k z a => Sys2Proof.Machine.execFclass d k z a s
  | .fma d k z a b c => Sys2Proof.Machine.execFma d k z a b c s
  | .fms d k z a b c => Sys2Proof.Machine.execFms d k z a b c s
  | .fnma d k z a b c => Sys2Proof.Machine.execFnma d k z a b c s
  | .vadd d k z a b => Sys2Proof.Machine.execVadd d k z a b s
  | .vsub d k z a b => Sys2Proof.Machine.execVsub d k z a b s
  | .vmul d k z a b => Sys2Proof.Machine.execVmul d k z a b s
  | .vand d k z a b => Sys2Proof.Machine.execVand d k z a b s
  | .vor d k z a b => Sys2Proof.Machine.execVor d k z a b s
  | .vxor d k z a b => Sys2Proof.Machine.execVxor d k z a b s
  | .vshl d k z a b => Sys2Proof.Machine.execVshl d k z a b s
  | .vshr d k z a b => Sys2Proof.Machine.execVshr d k z a b s
  | .vsra d k z a b => Sys2Proof.Machine.execVsra d k z a b s
  | .vsel d k z a b => Sys2Proof.Machine.execVsel d k z a b s
  | .vminI d k z a b => Sys2Proof.Machine.execVminI d k z a b s
  | .vminN d k z a b => Sys2Proof.Machine.execVminN d k z a b s
  | .vmaxI d k z a b => Sys2Proof.Machine.execVmaxI d k z a b s
  | .vmaxN d k z a b => Sys2Proof.Machine.execVmaxN d k z a b s
  | .vcmp d k z a b c => Sys2Proof.Machine.execVcmp d k z a b c s
  | .vmad d k z a b c => Sys2Proof.Machine.execVmad d k z a b c s
  | .vbcast d k z a => Sys2Proof.Machine.execVbcast d k z a s
  | .vperm d k z a b => Sys2Proof.Machine.execVperm d k z a b s
  | .vmaxi d k z a => Sys2Proof.Machine.execVmaxi d k z a s
  | .vmaxiN d k z a => Sys2Proof.Machine.execVmaxiN d k z a s
  | .kand d a b => Sys2Proof.Machine.execKand d a b s
  | .kor d a b => Sys2Proof.Machine.execKor d a b s
  | .knot d a => Sys2Proof.Machine.execKnot d a s
  | .kmov d a b => Sys2Proof.Machine.execKmov d a b s
  | .vred d k z a o => Sys2Proof.Machine.execVred d k z a o s
  | .vscan d k z a o => Sys2Proof.Machine.execVscan d k z a o s
  | .fcvt d k z a b => Sys2Proof.Machine.execFcvt d k z a b s
  | .frnd d k z a b => Sys2Proof.Machine.execFrnd d k z a b s
  | .fseed d k z a b => Sys2Proof.Machine.execFseed d k z a b s
  | .fred d k z a b => Sys2Proof.Machine.execFred d k z a b s
  | .fscale d k z a b => Sys2Proof.Machine.execFscale d k z a b s
  | .fexpo d k z a => Sys2Proof.Machine.execFexpo d k z a s
  | .fmant d k z a => Sys2Proof.Machine.execFmant d k z a s
  | .vld d k a imm => Sys2Proof.Machine.execVld d k a imm s
  | .vst d k a imm => Sys2Proof.Machine.execVst d k a imm s
  | .mcfg a t => Sys2Proof.Machine.execMcfg a t s
  | .mcfgGang a => Sys2Proof.Machine.execMcfgGang a s
  | .mzero t => Sys2Proof.Machine.execMzero t s
  | .oclaim d a => Sys2Proof.Machine.execOclaim d a s
  | .orelease a => Sys2Proof.Machine.execOrelease a s
  | .ofill a b => Sys2Proof.Machine.execOfill a b s
  | .mrdr d a t => Sys2Proof.Machine.execMrdr d a t s
  | .mrdc d a t => Sys2Proof.Machine.execMrdc d a t s
  | .mwrr d a t => Sys2Proof.Machine.execMwrr d a t s
  | .mwrc d a t => Sys2Proof.Machine.execMwrc d a t s
  | .mstat d => Sys2Proof.Machine.execMstat d s
  | .merr d a => Sys2Proof.Machine.execMerr d a s
  | .mlenHold => Sys2Proof.Machine.execMlenHold s
  | .mlenSet a => Sys2Proof.Machine.execMlenSet a s
  | .mflush => Sys2Proof.Machine.execMflush s
  | .mma t k q o p => Sys2Proof.Machine.execMma t k q o p s
  | .mmag t k q o p => Sys2Proof.Machine.execMmag t k q o p s
  | .cdef d a => Sys2Proof.Machine.execCdef d a s
  | .cbind d a b => Sys2Proof.Machine.execCbind d a b s
  | .crebind d a b => Sys2Proof.Machine.execCrebind d a b s
  | .cdrop d a b => Sys2Proof.Machine.execCdrop d a b s
  | .crd d a b => Sys2Proof.Machine.execCrd d a b s
  | .cwr d a b => Sys2Proof.Machine.execCwr d a b s
  | .cdone a b => Sys2Proof.Machine.execCdone a b s
  | .cwave a => Sys2Proof.Machine.execCwave a s
  | .cwait a b => Sys2Proof.Machine.execCwait a b s
  | .crun a b => Sys2Proof.Machine.execCrun a b s
  | .cstat d a b => Sys2Proof.Machine.execCstat d a b s
  | .sopen d a => Sys2Proof.Machine.execSopen d a s
  | .sclose d a => Sys2Proof.Machine.execSclose d a s
  | .sgen d a => Sys2Proof.Machine.execSgen d a s
  | .spost d a b => Sys2Proof.Machine.execSpost d a b s
  | .strunc d a b => Sys2Proof.Machine.execStrunc d a b s
  | .sckpt d a => Sys2Proof.Machine.execSckpt d a s
  | .srefeed d a b => Sys2Proof.Machine.execSrefeed d a b s
  | .smask d a b => Sys2Proof.Machine.execSmask d a b s
  | .sframe d a b => Sys2Proof.Machine.execSframe d a b s
  | .sstat d a b => Sys2Proof.Machine.execSstat d a b s
  | .sfloor d a b => Sys2Proof.Machine.execSfloor d a b s
  | .compose d a b => Sys2Proof.Machine.execCompose d a b s
  | .release d a => Sys2Proof.Machine.execRelease d a s
  | .frstat d a => Sys2Proof.Machine.execFrstat d a s
  | .mcld a b => Sys2Proof.Machine.execMcld a b s
  | .mcst a b => Sys2Proof.Machine.execMcst a b s
  | .mcpush d a b => Sys2Proof.Machine.execMcpush d a b s
  | .tlbinv a b => Sys2Proof.Machine.execTlbinv a b s
  | .pgrelQ d a b => Sys2Proof.Machine.execPgrelQ d a b s
  | .pgrelR d => Sys2Proof.Machine.execPgrelR d s
  | .qcnt d => Sys2Proof.Machine.execQcnt d s
  | .wswr d a b => Sys2Proof.Machine.execWswr d a b s
  | .wsref d a => Sys2Proof.Machine.execWsref d a s
  | .srd d imm => Sys2Proof.Machine.execSrd d imm s
  | .swr a imm => Sys2Proof.Machine.execSwr a imm s
  | .trap a b => Sys2Proof.Machine.execTrap a b s
  | .dbgrd d a b => Sys2Proof.Machine.execDbgrd d a b s
  | .dbgwr d a b => Sys2Proof.Machine.execDbgwr d a b s
  | .thaw a b => Sys2Proof.Machine.execThaw a b s
  | .retire a b => Sys2Proof.Machine.execRetire a b s
  | .time d => Sys2Proof.Machine.execTime d s
  | .timeAr d => Sys2Proof.Machine.execTimeAr d s
  | .swsched d a b => Sys2Proof.Machine.execSwsched d a b s
  | .fencec d a => Sys2Proof.Machine.execFencec d a s
  | .remap d a => Sys2Proof.Machine.execRemap d a s
  | .dgrd d b => Sys2Proof.Machine.execDgrd d b s
  | .dgchk d a => Sys2Proof.Machine.execDgchk d a s
  | .dgchkFlt d a => Sys2Proof.Machine.execDgchkFlt d a s
  | .tron d a b => Sys2Proof.Machine.execTron d a b s
  | .troff d => Sys2Proof.Machine.execTroff d s
  | .bkpt d a => Sys2Proof.Machine.execBkpt d a s
  | .halt d a => Sys2Proof.Machine.execHalt d a s
  | .movC d a => Sys2Proof.Machine.execMovC d a s
  | .addC d a => Sys2Proof.Machine.execAddC d a s
  | .subC d a => Sys2Proof.Machine.execSubC d a s
  | .andC d a => Sys2Proof.Machine.execAndC d a s
  | .orC d a => Sys2Proof.Machine.execOrC d a s
  | .xorC d a => Sys2Proof.Machine.execXorC d a s
  | .addiC d imm => Sys2Proof.Machine.execAddiC d imm s
  | .liC d imm => Sys2Proof.Machine.execLiC d imm s
  | .shlC d imm => Sys2Proof.Machine.execShlC d imm s
  | .shrC d imm => Sys2Proof.Machine.execShrC d imm s
  | .sraC d imm => Sys2Proof.Machine.execSraC d imm s
  | .ldDC d a imm => Sys2Proof.Machine.execLdDC d a imm s
  | .stDC d a imm => Sys2Proof.Machine.execStDC d a imm s
  | .brC imm => Sys2Proof.Machine.execBrC imm s
  | .brcNzC a imm => Sys2Proof.Machine.execBrcNzC a imm s
  | .brcZC a imm => Sys2Proof.Machine.execBrcZC a imm s
  | .nopC => Sys2Proof.Machine.execNopC s
  | .retC => Sys2Proof.Machine.execRetC s
  | .endtC => Sys2Proof.Machine.execEndtC s
  | .packageReset sigOk counter => Sys2Proof.Machine.execPackageReset sigOk counter s
  | .packagePowerLimit => Sys2Proof.Machine.execPackagePowerLimit s
  | .timingReplay e => Sys2Proof.Machine.execTimingReplay e s
  | .create r => Sys2Proof.Machine.execCreate r s
  | .destroy ctx => Sys2Proof.Machine.execDestroy ctx s
  | .sched ctx share prio => Sys2Proof.Machine.execSched ctx share prio s
  | .ident => Sys2Proof.Machine.execIdent s
  | .doorbell ctx v => Sys2Proof.Machine.execDoorbell ctx v s
  | .hqctl ctx v => Sys2Proof.Machine.execHqctl ctx v s
  | .cqctl ctx v => Sys2Proof.Machine.execCqctl ctx v s
  | .launchWindowWrite ctx off v => Sys2Proof.Machine.execLaunchWindowWrite ctx off v s
  | .launch ctx => Sys2Proof.Machine.execLaunch ctx s
  | .loadChunk ctx e => Sys2Proof.Machine.execLoadChunk ctx e s
  | .loadComplete ctx e => Sys2Proof.Machine.execLoadComplete ctx e s
  | .postLaunch ctx => Sys2Proof.Machine.execPostLaunch ctx s
  | .launchComplete ctx => Sys2Proof.Machine.execLaunchComplete ctx s
  | .work ctx => Sys2Proof.Machine.execWork ctx s
  | .frame ctx => Sys2Proof.Machine.execFrame ctx s
  | .reset ctx => Sys2Proof.Machine.execReset ctx s
  | .functionReset ctx => Sys2Proof.Machine.execFunctionReset ctx s
  | .xfer ctx => Sys2Proof.Machine.execXfer ctx s
  | .xferComplete x => Sys2Proof.Machine.execXferComplete x s
  | .scaleOutFlit port flit => Sys2Proof.Machine.execScaleOutFlit port flit s
  | .completionPublish ctx => Sys2Proof.Machine.execCompletionPublish ctx s
  | .activationStart e => Sys2Proof.Machine.execActivationStart e s
  | .continuationTime e q => Sys2Proof.Machine.execContinuationTime e q s
  | .watchdog e => Sys2Proof.Machine.execWatchdog e s
  | .messageAccept k => Sys2Proof.Machine.execMessageAccept k s
  | .bulkMessageAccept k => Sys2Proof.Machine.execBulkMessageAccept k s
  | .undeliverableNotice k => Sys2Proof.Machine.execUndeliverableNotice k s
  | .noticeDeliver e => Sys2Proof.Machine.execNoticeDeliver e s
  | .allowanceReturn k => Sys2Proof.Machine.execAllowanceReturn k s
  | .workItemAccept k => Sys2Proof.Machine.execWorkItemAccept k s
  | .workItemDeliver ctx die => Sys2Proof.Machine.execWorkItemDeliver ctx die s
  | .hostRecordWrite k => Sys2Proof.Machine.execHostRecordWrite k s
  | .eventRequest k => Sys2Proof.Machine.execEventRequest k s
  | .eventArm k => Sys2Proof.Machine.execEventArm k s
  | .binItems k => Sys2Proof.Machine.execBinItems k s
  | .remoteRead e => Sys2Proof.Machine.execRemoteRead e s
  | .remoteStore k => Sys2Proof.Machine.execRemoteStore k s
  | .remoteAtomic k => Sys2Proof.Machine.execRemoteAtomic k s
  | .remoteCas k => Sys2Proof.Machine.execRemoteCas k s
  | .rcopyComplete k => Sys2Proof.Machine.execRcopyComplete k s
  | .barrierArrival k => Sys2Proof.Machine.execBarrierArrival k s
  | .waveStart ctx sheet => Sys2Proof.Machine.execWaveStart ctx sheet s
  | .evalDispatch ctx sheet => Sys2Proof.Machine.execEvalDispatch ctx sheet s
  | .cdoneReport k => Sys2Proof.Machine.execCdoneReport k s
  | .waveCommit ctx sheet => Sys2Proof.Machine.execWaveCommit ctx sheet s
  | .waveAbandon ctx sheet => Sys2Proof.Machine.execWaveAbandon ctx sheet s
  | .crdServe k => Sys2Proof.Machine.execCrdServe k s
  | .cellWriteApply k => Sys2Proof.Machine.execCellWriteApply k s
  | .waveNode ctx sheet => Sys2Proof.Machine.execWaveNode ctx sheet s
  | .matrixCommandStart e seq => Sys2Proof.Machine.execMatrixCommandStart e seq s
  | .matrixStep e seq share => Sys2Proof.Machine.execMatrixStep e seq share s
  | .matrixCommandEnd e seq => Sys2Proof.Machine.execMatrixCommandEnd e seq s
  | .slotReleaseEffect sorus slot => Sys2Proof.Machine.execSlotReleaseEffect sorus slot s
  | .tilePushAccept k => Sys2Proof.Machine.execTilePushAccept k s
  | .hostCompletionTimeout e => Sys2Proof.Machine.execHostCompletionTimeout e s
  | .refreshWindow die bank => Sys2Proof.Machine.execRefreshWindow die bank s
  | .frameApply sn => Sys2Proof.Machine.execFrameApply sn s
  | .maskResolutionApply sn => Sys2Proof.Machine.execMaskResolutionApply sn s
  | .frondComposed leader => Sys2Proof.Machine.execFrondComposed leader s
  | .gangSwitch ctx => Sys2Proof.Machine.execGangSwitch ctx s
  | .switchSave ctx => Sys2Proof.Machine.execSwitchSave ctx s
  | .switchResume ctx => Sys2Proof.Machine.execSwitchResume ctx s
  | .deviceFence e => Sys2Proof.Machine.execDeviceFence e s
  | .debugStop e => Sys2Proof.Machine.execDebugStop e s
  | .engineReportDeliver ctx => Sys2Proof.Machine.execEngineReportDeliver ctx s
  | .uncorrectableDataError site => Sys2Proof.Machine.execUncorrectableDataError site s
  | .traceCollectorWrite die => Sys2Proof.Machine.execTraceCollectorWrite die s

end Sys2Proof.Machine
end

