-- ==== Sys2Proof/Machine/Issue.lean ====
section
/-!
DEFINITION. What one agent does when it is its turn: an element issues its next instruction, an event happens, or a move
without a row of the table is made.
-/
namespace Sys2Proof.Machine

/-- The instruction that an element executes at its turn: the one that waits, or the one that it fetches. -/
def State.waiting (s : State) (e : EId) (A : Act) : Except Flt Instr :=
  match (s.elem e).stalled, (s.elem e).insn with
  | true, some i => .ok i
  | _, _ => fetch s e A.pc.toNat

/-- The executing element issues an instruction: a stall is over until the instruction stalls again, TIME of its first issue is
noted, and a block transfer that a fault stopped is over where another instruction issues (R300). -/
def State.issue (s : State) (e : EId) (A : Act) (i : Instr) : State :=
  (s.begin e A).updElem e (fun E => { E with
    stalled := false
    insn := some i
    transfer := E.transfer.filter (fun T => T.insn == i && T.pc == A.pc)
    since := if E.stalled then E.since else s.time
    tokens := if E.stalled then E.tokens else none })

/-- Element e issues its next instruction, takes the watchdog fault, or has nothing to do. -/
def stepCore (e : EId) (s : State) : Host.Outcome State Fault Refusal :=
  match s.act with
  | none => .next s
  | some A =>
    if !s.mayIssue e then .next s
    else if s.watchdogDue e A && !(s.elem e).stalled then
      .next (s.takeFault e { code := 0x70, faddr := 0, extra := BitVec.ofNat 64 (s.wdcnt A) })
    else match s.waiting e A with
    | .error f => .next ((s.begin e A).takeFault e f)
    | .ok i =>
      match exec i (s.issue e A i) with
      | .next t => .next (t.afterInstr e)
      | .fault r => .fault r
      | .refused r => .refused r

/-- One move. An event is a row of the table without an encoding; any other move has no row. -/
def move (t : Turn) (s : State) : Host.Outcome State Fault Refusal :=
  match t with
  | .core e => stepCore e { s with cur := e }
  | .event i => if (encode i).isEmpty then exec i s else .next s
  | .serve k => .next (s.serveRequest k)
  | .xferSend ctx => .next (s.xferGranule ctx)
  | .replay p => .next (s.replayPort p.toNat)
  | .attest nonce => .next (if s.pkg.mailbox then { s with pkg := { s.pkg with reply := s.attestation nonce } } else s)
  | other => .next (s.otherMove other)

/-- The agent that moves at this step: the first of the turns to come, or a free one (log 1). -/
def State.nextTurn (s : State) : Turn := match s.turns with | t :: _ => t | [] => Config.turn s.stepNo

/-- One move of the next agent, and the clock after it. -/
def State.advance (s : State) : Host.Outcome State Fault Refusal :=
  match move s.nextTurn { s with turns := s.turns.tail } with
  | .next s' => .next (s'.traceChanges.tick s.stepNo)
  | .fault r => .fault r
  | .refused r => .refused r

end Sys2Proof.Machine
end

