-- ==== Sys2Proof/Laws/Decode.lean ====
section
/-!
SUPPORT. The slots of each format read back from the words that the encoder builds (R30, R37), and when a word decodes
to a given instruction.
-/
namespace Sys2Proof

theorem extractLsb'_append_hi {n m : Nat} (x : BitVec n) (y : BitVec m) (s l : Nat) (h : m ≤ s) :
    (x ++ y).extractLsb' s l = x.extractLsb' (s - m) l := by
  apply BitVec.eq_of_getLsbD_eq
  intro i hi
  have hn : ¬ (s + i < m) := by omega
  simp only [BitVec.getLsbD_extractLsb', BitVec.getLsbD_append, hn, if_false]
  congr 2; omega

theorem extractLsb'_append_lo {n m : Nat} (x : BitVec n) (y : BitVec m) (s l : Nat) (h : s + l ≤ m) :
    (x ++ y).extractLsb' s l = y.extractLsb' s l := by
  apply BitVec.eq_of_getLsbD_eq
  intro i hi
  have hn : s + i < m := by omega
  simp only [BitVec.getLsbD_extractLsb', BitVec.getLsbD_append, hn, if_true]

/-! ### The values of a short selector -/

theorem bv1_cases (c : BitVec 1) : c = 0#1 ∨ c = 1#1 := by revert c; decide

theorem bv2_cases (c : BitVec 2) : c = 0#2 ∨ c = 1#2 ∨ c = 2#2 ∨ c = 3#2 := by revert c; decide

theorem bv3_cases (c : BitVec 3) : c = 0#3 ∨ c = 1#3 ∨ c = 2#3 ∨ c = 3#3 ∨ c = 4#3 ∨ c = 5#3 ∨ c = 6#3 ∨ c = 7#3 := by
  revert c; decide

/-- The two halfwords of a word join to the word. -/
theorem halves_join (w : BitVec 32) : w.extractLsb' 16 16 ++ w.extractLsb' 0 16 = w :=
  BitVec.extractLsb'_append_extractLsb' (w := 16) (len := 16)

/-- Bits [15:14] of a word: 3 in every 32-bit instruction (R26). -/
def lenBits (w : BitVec 32) : BitVec 2 := w.extractLsb' 14 2

theorem isLong_low (w : BitVec 32) : isLong (w.extractLsb' 0 16) = decide (lenBits w = 3#2) := by
  have h : (w.extractLsb' 0 16).extractLsb' 14 2 = lenBits w := by
    apply BitVec.eq_of_getLsbD_eq
    intro i hi
    have : 14 + i < 16 := by omega
    simp [lenBits, this, hi]
  simp [isLong, h]

/-! ### Slots of the 32-bit formats -/

@[simp] theorem sMaj_encR (maj : BitVec 6) (d : Reg) (f : BitVec 4) (a b : Reg) (z : BitVec 2) :
    sMaj (encR maj d f a b z) = maj := by
  show BitVec.extractLsb' (n := 6+6+4+2+6+6+2) 26 6 (maj ++ d ++ f ++ 3#2 ++ a ++ b ++ z) = _
  iterate 6 rw [extractLsb'_append_hi (h := by decide)]
  exact BitVec.extractLsb'_eq_self

@[simp] theorem sD_encR (maj : BitVec 6) (d : Reg) (f : BitVec 4) (a b : Reg) (z : BitVec 2) :
    sD (encR maj d f a b z) = d := by
  show BitVec.extractLsb' (n := 6+6+4+2+6+6+2) 20 6 (maj ++ d ++ f ++ 3#2 ++ a ++ b ++ z) = _
  iterate 5 rw [extractLsb'_append_hi (h := by decide)]
  rw [extractLsb'_append_lo (h := by decide)]
  exact BitVec.extractLsb'_eq_self

@[simp] theorem sF_encR (maj : BitVec 6) (d : Reg) (f : BitVec 4) (a b : Reg) (z : BitVec 2) :
    sF (encR maj d f a b z) = f := by
  show BitVec.extractLsb' (n := 6+6+4+2+6+6+2) 16 4 (maj ++ d ++ f ++ 3#2 ++ a ++ b ++ z) = _
  iterate 4 rw [extractLsb'_append_hi (h := by decide)]
  rw [extractLsb'_append_lo (h := by decide)]
  exact BitVec.extractLsb'_eq_self

@[simp] theorem sA_encR (maj : BitVec 6) (d : Reg) (f : BitVec 4) (a b : Reg) (z : BitVec 2) :
    sA (encR maj d f a b z) = a := by
  show BitVec.extractLsb' (n := 6+6+4+2+6+6+2) 8 6 (maj ++ d ++ f ++ 3#2 ++ a ++ b ++ z) = _
  iterate 2 rw [extractLsb'_append_hi (h := by decide)]
  rw [extractLsb'_append_lo (h := by decide)]
  exact BitVec.extractLsb'_eq_self

@[simp] theorem sB_encR (maj : BitVec 6) (d : Reg) (f : BitVec 4) (a b : Reg) (z : BitVec 2) :
    sB (encR maj d f a b z) = b := by
  show BitVec.extractLsb' (n := 6+6+4+2+6+6+2) 2 6 (maj ++ d ++ f ++ 3#2 ++ a ++ b ++ z) = _
  iterate 1 rw [extractLsb'_append_hi (h := by decide)]
  rw [extractLsb'_append_lo (h := by decide)]
  exact BitVec.extractLsb'_eq_self

@[simp] theorem sZ_encR (maj : BitVec 6) (d : Reg) (f : BitVec 4) (a b : Reg) (z : BitVec 2) :
    sZ (encR maj d f a b z) = z := by
  show BitVec.extractLsb' (n := 6+6+4+2+6+6+2) 0 2 (maj ++ d ++ f ++ 3#2 ++ a ++ b ++ z) = _
  rw [extractLsb'_append_lo (h := by decide)]
  exact BitVec.extractLsb'_eq_self

@[simp] theorem sOp3_encR (maj : BitVec 6) (d : Reg) (f : BitVec 4) (a b : Reg) (z : BitVec 2) :
    sOp3 (encR maj d f a b z) = (f).extractLsb' 0 3 := by
  show BitVec.extractLsb' (n := 6+6+4+2+6+6+2) 16 3 (maj ++ d ++ f ++ 3#2 ++ a ++ b ++ z) = _
  iterate 4 rw [extractLsb'_append_hi (h := by decide)]
  rw [extractLsb'_append_lo (h := by decide)]

@[simp] theorem mD_encR (maj : BitVec 6) (d : Reg) (f : BitVec 4) (a b : Reg) (z : BitVec 2) :
    mD (encR maj d f a b z) = (d).extractLsb' 0 5 := by
  show BitVec.extractLsb' (n := 6+6+4+2+6+6+2) 20 5 (maj ++ d ++ f ++ 3#2 ++ a ++ b ++ z) = _
  iterate 5 rw [extractLsb'_append_hi (h := by decide)]
  rw [extractLsb'_append_lo (h := by decide)]

@[simp] theorem lenBits_encR (maj : BitVec 6) (d : Reg) (f : BitVec 4) (a b : Reg) (z : BitVec 2) :
    lenBits (encR maj d f a b z) = 3#2 := by
  show BitVec.extractLsb' (n := 6+6+4+2+6+6+2) 14 2 (maj ++ d ++ f ++ 3#2 ++ a ++ b ++ z) = _
  iterate 3 rw [extractLsb'_append_hi (h := by decide)]
  rw [extractLsb'_append_lo (h := by decide)]
  exact BitVec.extractLsb'_eq_self

@[simp] theorem sMaj_encI (maj : BitVec 6) (d : Reg) (f : BitVec 4) (a : Reg) (i : BitVec 8) :
    sMaj (encI maj d f a i) = maj := by
  show BitVec.extractLsb' (n := 6+6+4+2+6+8) 26 6 (maj ++ d ++ f ++ 3#2 ++ a ++ i) = _
  iterate 5 rw [extractLsb'_append_hi (h := by decide)]
  exact BitVec.extractLsb'_eq_self

@[simp] theorem sD_encI (maj : BitVec 6) (d : Reg) (f : BitVec 4) (a : Reg) (i : BitVec 8) :
    sD (encI maj d f a i) = d := by
  show BitVec.extractLsb' (n := 6+6+4+2+6+8) 20 6 (maj ++ d ++ f ++ 3#2 ++ a ++ i) = _
  iterate 4 rw [extractLsb'_append_hi (h := by decide)]
  rw [extractLsb'_append_lo (h := by decide)]
  exact BitVec.extractLsb'_eq_self

@[simp] theorem sF_encI (maj : BitVec 6) (d : Reg) (f : BitVec 4) (a : Reg) (i : BitVec 8) :
    sF (encI maj d f a i) = f := by
  show BitVec.extractLsb' (n := 6+6+4+2+6+8) 16 4 (maj ++ d ++ f ++ 3#2 ++ a ++ i) = _
  iterate 3 rw [extractLsb'_append_hi (h := by decide)]
  rw [extractLsb'_append_lo (h := by decide)]
  exact BitVec.extractLsb'_eq_self

@[simp] theorem sF2_encI (maj : BitVec 6) (d : Reg) (f : BitVec 4) (a : Reg) (i : BitVec 8) :
    sF2 (encI maj d f a i) = (f).extractLsb' 0 2 := by
  show BitVec.extractLsb' (n := 6+6+4+2+6+8) 16 2 (maj ++ d ++ f ++ 3#2 ++ a ++ i) = _
  iterate 3 rw [extractLsb'_append_hi (h := by decide)]
  rw [extractLsb'_append_lo (h := by decide)]

@[simp] theorem sA_encI (maj : BitVec 6) (d : Reg) (f : BitVec 4) (a : Reg) (i : BitVec 8) :
    sA (encI maj d f a i) = a := by
  show BitVec.extractLsb' (n := 6+6+4+2+6+8) 8 6 (maj ++ d ++ f ++ 3#2 ++ a ++ i) = _
  iterate 1 rw [extractLsb'_append_hi (h := by decide)]
  rw [extractLsb'_append_lo (h := by decide)]
  exact BitVec.extractLsb'_eq_self

@[simp] theorem sI8_encI (maj : BitVec 6) (d : Reg) (f : BitVec 4) (a : Reg) (i : BitVec 8) :
    sI8 (encI maj d f a i) = i := by
  show BitVec.extractLsb' (n := 6+6+4+2+6+8) 0 8 (maj ++ d ++ f ++ 3#2 ++ a ++ i) = _
  rw [extractLsb'_append_lo (h := by decide)]
  exact BitVec.extractLsb'_eq_self

@[simp] theorem sI6_encI (maj : BitVec 6) (d : Reg) (f : BitVec 4) (a : Reg) (i : BitVec 8) :
    sI6 (encI maj d f a i) = (i).extractLsb' 0 6 := by
  show BitVec.extractLsb' (n := 6+6+4+2+6+8) 0 6 (maj ++ d ++ f ++ 3#2 ++ a ++ i) = _
  rw [extractLsb'_append_lo (h := by decide)]

@[simp] theorem lenBits_encI (maj : BitVec 6) (d : Reg) (f : BitVec 4) (a : Reg) (i : BitVec 8) :
    lenBits (encI maj d f a i) = 3#2 := by
  show BitVec.extractLsb' (n := 6+6+4+2+6+8) 14 2 (maj ++ d ++ f ++ 3#2 ++ a ++ i) = _
  iterate 2 rw [extractLsb'_append_hi (h := by decide)]
  rw [extractLsb'_append_lo (h := by decide)]
  exact BitVec.extractLsb'_eq_self

@[simp] theorem sMaj_encL (d : Reg) (f : BitVec 1) (i : BitVec 16) :
    sMaj (encL d f i) = 2#6 := by
  show BitVec.extractLsb' (n := 6+6+1+1+2+2+14) 26 6 (2#6 ++ d ++ 1#1 ++ f ++ (i.extractLsb' 14 2) ++ 3#2 ++ (i.extractLsb' 0 14)) = _
  iterate 6 rw [extractLsb'_append_hi (h := by decide)]
  exact BitVec.extractLsb'_eq_self

@[simp] theorem sD_encL (d : Reg) (f : BitVec 1) (i : BitVec 16) :
    sD (encL d f i) = d := by
  show BitVec.extractLsb' (n := 6+6+1+1+2+2+14) 20 6 (2#6 ++ d ++ 1#1 ++ f ++ (i.extractLsb' 14 2) ++ 3#2 ++ (i.extractLsb' 0 14)) = _
  iterate 5 rw [extractLsb'_append_hi (h := by decide)]
  rw [extractLsb'_append_lo (h := by decide)]
  exact BitVec.extractLsb'_eq_self

@[simp] theorem sF2_encL (d : Reg) (f : BitVec 1) (i : BitVec 16) :
    sF2 (encL d f i) = i.extractLsb' 14 2 := by
  show BitVec.extractLsb' (n := 6+6+1+1+2+2+14) 16 2 (2#6 ++ d ++ 1#1 ++ f ++ (i.extractLsb' 14 2) ++ 3#2 ++ (i.extractLsb' 0 14)) = _
  iterate 2 rw [extractLsb'_append_hi (h := by decide)]
  rw [extractLsb'_append_lo (h := by decide)]
  exact BitVec.extractLsb'_eq_self

@[simp] theorem lenBits_encL (d : Reg) (f : BitVec 1) (i : BitVec 16) :
    lenBits (encL d f i) = 3#2 := by
  show BitVec.extractLsb' (n := 6+6+1+1+2+2+14) 14 2 (2#6 ++ d ++ 1#1 ++ f ++ (i.extractLsb' 14 2) ++ 3#2 ++ (i.extractLsb' 0 14)) = _
  iterate 1 rw [extractLsb'_append_hi (h := by decide)]
  rw [extractLsb'_append_lo (h := by decide)]
  exact BitVec.extractLsb'_eq_self

@[simp] theorem sMaj_encJ (a : Reg) (f : BitVec 4) (i : BitVec 14) :
    sMaj (encJ a f i) = 4#6 := by
  show BitVec.extractLsb' (n := 6+6+4+2+14) 26 6 (4#6 ++ a ++ f ++ 3#2 ++ i) = _
  iterate 4 rw [extractLsb'_append_hi (h := by decide)]
  exact BitVec.extractLsb'_eq_self

@[simp] theorem sD_encJ (a : Reg) (f : BitVec 4) (i : BitVec 14) :
    sD (encJ a f i) = a := by
  show BitVec.extractLsb' (n := 6+6+4+2+14) 20 6 (4#6 ++ a ++ f ++ 3#2 ++ i) = _
  iterate 3 rw [extractLsb'_append_hi (h := by decide)]
  rw [extractLsb'_append_lo (h := by decide)]
  exact BitVec.extractLsb'_eq_self

@[simp] theorem sF_encJ (a : Reg) (f : BitVec 4) (i : BitVec 14) :
    sF (encJ a f i) = f := by
  show BitVec.extractLsb' (n := 6+6+4+2+14) 16 4 (4#6 ++ a ++ f ++ 3#2 ++ i) = _
  iterate 2 rw [extractLsb'_append_hi (h := by decide)]
  rw [extractLsb'_append_lo (h := by decide)]
  exact BitVec.extractLsb'_eq_self

@[simp] theorem jC_encJ (a : Reg) (f : BitVec 4) (i : BitVec 14) :
    jC (encJ a f i) = (f).extractLsb' 0 3 := by
  show BitVec.extractLsb' (n := 6+6+4+2+14) 16 3 (4#6 ++ a ++ f ++ 3#2 ++ i) = _
  iterate 2 rw [extractLsb'_append_hi (h := by decide)]
  rw [extractLsb'_append_lo (h := by decide)]

@[simp] theorem jI_encJ (a : Reg) (f : BitVec 4) (i : BitVec 14) :
    jI (encJ a f i) = i := by
  show BitVec.extractLsb' (n := 6+6+4+2+14) 0 14 (4#6 ++ a ++ f ++ 3#2 ++ i) = _
  rw [extractLsb'_append_lo (h := by decide)]
  exact BitVec.extractLsb'_eq_self

@[simp] theorem lenBits_encJ (a : Reg) (f : BitVec 4) (i : BitVec 14) :
    lenBits (encJ a f i) = 3#2 := by
  show BitVec.extractLsb' (n := 6+6+4+2+14) 14 2 (4#6 ++ a ++ f ++ 3#2 ++ i) = _
  iterate 1 rw [extractLsb'_append_hi (h := by decide)]
  rw [extractLsb'_append_lo (h := by decide)]
  exact BitVec.extractLsb'_eq_self

@[simp] theorem sMaj_encB (f : BitVec 2) (i : BitVec 22) :
    sMaj (encB f i) = 3#6 := by
  show BitVec.extractLsb' (n := 6+2+8+2+14) 26 6 (3#6 ++ f ++ (i.extractLsb' 14 8) ++ 3#2 ++ (i.extractLsb' 0 14)) = _
  iterate 4 rw [extractLsb'_append_hi (h := by decide)]
  exact BitVec.extractLsb'_eq_self

@[simp] theorem bF_encB (f : BitVec 2) (i : BitVec 22) :
    bF (encB f i) = f := by
  show BitVec.extractLsb' (n := 6+2+8+2+14) 24 2 (3#6 ++ f ++ (i.extractLsb' 14 8) ++ 3#2 ++ (i.extractLsb' 0 14)) = _
  iterate 3 rw [extractLsb'_append_hi (h := by decide)]
  rw [extractLsb'_append_lo (h := by decide)]
  exact BitVec.extractLsb'_eq_self

@[simp] theorem lenBits_encB (f : BitVec 2) (i : BitVec 22) :
    lenBits (encB f i) = 3#2 := by
  show BitVec.extractLsb' (n := 6+2+8+2+14) 14 2 (3#6 ++ f ++ (i.extractLsb' 14 8) ++ 3#2 ++ (i.extractLsb' 0 14)) = _
  iterate 1 rw [extractLsb'_append_hi (h := by decide)]
  rw [extractLsb'_append_lo (h := by decide)]
  exact BitVec.extractLsb'_eq_self

@[simp] theorem sMaj_encV (maj : BitVec 6) (d : VReg) (k z : BitVec 3) (a b : VReg) (f : BitVec 6) :
    sMaj (encV maj d k z a b f) = maj := by
  show BitVec.extractLsb' (n := 6+4+3+3+2+4+4+6) 26 6 (maj ++ d ++ k ++ z ++ 3#2 ++ a ++ b ++ f) = _
  iterate 7 rw [extractLsb'_append_hi (h := by decide)]
  exact BitVec.extractLsb'_eq_self

@[simp] theorem vD_encV (maj : BitVec 6) (d : VReg) (k z : BitVec 3) (a b : VReg) (f : BitVec 6) :
    vD (encV maj d k z a b f) = d := by
  show BitVec.extractLsb' (n := 6+4+3+3+2+4+4+6) 22 4 (maj ++ d ++ k ++ z ++ 3#2 ++ a ++ b ++ f) = _
  iterate 6 rw [extractLsb'_append_hi (h := by decide)]
  rw [extractLsb'_append_lo (h := by decide)]
  exact BitVec.extractLsb'_eq_self

@[simp] theorem vK_encV (maj : BitVec 6) (d : VReg) (k z : BitVec 3) (a b : VReg) (f : BitVec 6) :
    vK (encV maj d k z a b f) = k := by
  show BitVec.extractLsb' (n := 6+4+3+3+2+4+4+6) 19 3 (maj ++ d ++ k ++ z ++ 3#2 ++ a ++ b ++ f) = _
  iterate 5 rw [extractLsb'_append_hi (h := by decide)]
  rw [extractLsb'_append_lo (h := by decide)]
  exact BitVec.extractLsb'_eq_self

@[simp] theorem vZ_encV (maj : BitVec 6) (d : VReg) (k z : BitVec 3) (a b : VReg) (f : BitVec 6) :
    vZ (encV maj d k z a b f) = z := by
  show BitVec.extractLsb' (n := 6+4+3+3+2+4+4+6) 16 3 (maj ++ d ++ k ++ z ++ 3#2 ++ a ++ b ++ f) = _
  iterate 4 rw [extractLsb'_append_hi (h := by decide)]
  rw [extractLsb'_append_lo (h := by decide)]
  exact BitVec.extractLsb'_eq_self

@[simp] theorem vA_encV (maj : BitVec 6) (d : VReg) (k z : BitVec 3) (a b : VReg) (f : BitVec 6) :
    vA (encV maj d k z a b f) = a := by
  show BitVec.extractLsb' (n := 6+4+3+3+2+4+4+6) 10 4 (maj ++ d ++ k ++ z ++ 3#2 ++ a ++ b ++ f) = _
  iterate 2 rw [extractLsb'_append_hi (h := by decide)]
  rw [extractLsb'_append_lo (h := by decide)]
  exact BitVec.extractLsb'_eq_self

@[simp] theorem vB_encV (maj : BitVec 6) (d : VReg) (k z : BitVec 3) (a b : VReg) (f : BitVec 6) :
    vB (encV maj d k z a b f) = b := by
  show BitVec.extractLsb' (n := 6+4+3+3+2+4+4+6) 6 4 (maj ++ d ++ k ++ z ++ 3#2 ++ a ++ b ++ f) = _
  iterate 1 rw [extractLsb'_append_hi (h := by decide)]
  rw [extractLsb'_append_lo (h := by decide)]
  exact BitVec.extractLsb'_eq_self

@[simp] theorem vF_encV (maj : BitVec 6) (d : VReg) (k z : BitVec 3) (a b : VReg) (f : BitVec 6) :
    vF (encV maj d k z a b f) = f := by
  show BitVec.extractLsb' (n := 6+4+3+3+2+4+4+6) 0 6 (maj ++ d ++ k ++ z ++ 3#2 ++ a ++ b ++ f) = _
  rw [extractLsb'_append_lo (h := by decide)]
  exact BitVec.extractLsb'_eq_self

@[simp] theorem vFh_encV (maj : BitVec 6) (d : VReg) (k z : BitVec 3) (a b : VReg) (f : BitVec 6) :
    vFh (encV maj d k z a b f) = (f).extractLsb' 4 2 := by
  show BitVec.extractLsb' (n := 6+4+3+3+2+4+4+6) 4 2 (maj ++ d ++ k ++ z ++ 3#2 ++ a ++ b ++ f) = _
  rw [extractLsb'_append_lo (h := by decide)]

@[simp] theorem vC_encV (maj : BitVec 6) (d : VReg) (k z : BitVec 3) (a b : VReg) (f : BitVec 6) :
    vC (encV maj d k z a b f) = (f).extractLsb' 0 4 := by
  show BitVec.extractLsb' (n := 6+4+3+3+2+4+4+6) 0 4 (maj ++ d ++ k ++ z ++ 3#2 ++ a ++ b ++ f) = _
  rw [extractLsb'_append_lo (h := by decide)]

@[simp] theorem vF2_encV (maj : BitVec 6) (d : VReg) (k z : BitVec 3) (a b : VReg) (f : BitVec 6) :
    vF2 (encV maj d k z a b f) = (f).extractLsb' 0 2 := by
  show BitVec.extractLsb' (n := 6+4+3+3+2+4+4+6) 0 2 (maj ++ d ++ k ++ z ++ 3#2 ++ a ++ b ++ f) = _
  rw [extractLsb'_append_lo (h := by decide)]

@[simp] theorem vF3_encV (maj : BitVec 6) (d : VReg) (k z : BitVec 3) (a b : VReg) (f : BitVec 6) :
    vF3 (encV maj d k z a b f) = (f).extractLsb' 0 3 := by
  show BitVec.extractLsb' (n := 6+4+3+3+2+4+4+6) 0 3 (maj ++ d ++ k ++ z ++ 3#2 ++ a ++ b ++ f) = _
  rw [extractLsb'_append_lo (h := by decide)]

@[simp] theorem lenBits_encV (maj : BitVec 6) (d : VReg) (k z : BitVec 3) (a b : VReg) (f : BitVec 6) :
    lenBits (encV maj d k z a b f) = 3#2 := by
  show BitVec.extractLsb' (n := 6+4+3+3+2+4+4+6) 14 2 (maj ++ d ++ k ++ z ++ 3#2 ++ a ++ b ++ f) = _
  iterate 3 rw [extractLsb'_append_hi (h := by decide)]
  rw [extractLsb'_append_lo (h := by decide)]
  exact BitVec.extractLsb'_eq_self

@[simp] theorem sMaj_encVM (d : VReg) (k f : BitVec 3) (a : Reg) (i : BitVec 8) :
    sMaj (encVM d k f a i) = 16#6 := by
  show BitVec.extractLsb' (n := 6+4+3+3+2+6+8) 26 6 (16#6 ++ d ++ k ++ f ++ 3#2 ++ a ++ i) = _
  iterate 6 rw [extractLsb'_append_hi (h := by decide)]
  exact BitVec.extractLsb'_eq_self

@[simp] theorem vD_encVM (d : VReg) (k f : BitVec 3) (a : Reg) (i : BitVec 8) :
    vD (encVM d k f a i) = d := by
  show BitVec.extractLsb' (n := 6+4+3+3+2+6+8) 22 4 (16#6 ++ d ++ k ++ f ++ 3#2 ++ a ++ i) = _
  iterate 5 rw [extractLsb'_append_hi (h := by decide)]
  rw [extractLsb'_append_lo (h := by decide)]
  exact BitVec.extractLsb'_eq_self

@[simp] theorem vK_encVM (d : VReg) (k f : BitVec 3) (a : Reg) (i : BitVec 8) :
    vK (encVM d k f a i) = k := by
  show BitVec.extractLsb' (n := 6+4+3+3+2+6+8) 19 3 (16#6 ++ d ++ k ++ f ++ 3#2 ++ a ++ i) = _
  iterate 4 rw [extractLsb'_append_hi (h := by decide)]
  rw [extractLsb'_append_lo (h := by decide)]
  exact BitVec.extractLsb'_eq_self

@[simp] theorem vZ_encVM (d : VReg) (k f : BitVec 3) (a : Reg) (i : BitVec 8) :
    vZ (encVM d k f a i) = f := by
  show BitVec.extractLsb' (n := 6+4+3+3+2+6+8) 16 3 (16#6 ++ d ++ k ++ f ++ 3#2 ++ a ++ i) = _
  iterate 3 rw [extractLsb'_append_hi (h := by decide)]
  rw [extractLsb'_append_lo (h := by decide)]
  exact BitVec.extractLsb'_eq_self

@[simp] theorem sA_encVM (d : VReg) (k f : BitVec 3) (a : Reg) (i : BitVec 8) :
    sA (encVM d k f a i) = a := by
  show BitVec.extractLsb' (n := 6+4+3+3+2+6+8) 8 6 (16#6 ++ d ++ k ++ f ++ 3#2 ++ a ++ i) = _
  iterate 1 rw [extractLsb'_append_hi (h := by decide)]
  rw [extractLsb'_append_lo (h := by decide)]
  exact BitVec.extractLsb'_eq_self

@[simp] theorem sI8_encVM (d : VReg) (k f : BitVec 3) (a : Reg) (i : BitVec 8) :
    sI8 (encVM d k f a i) = i := by
  show BitVec.extractLsb' (n := 6+4+3+3+2+6+8) 0 8 (16#6 ++ d ++ k ++ f ++ 3#2 ++ a ++ i) = _
  rw [extractLsb'_append_lo (h := by decide)]
  exact BitVec.extractLsb'_eq_self

@[simp] theorem lenBits_encVM (d : VReg) (k f : BitVec 3) (a : Reg) (i : BitVec 8) :
    lenBits (encVM d k f a i) = 3#2 := by
  show BitVec.extractLsb' (n := 6+4+3+3+2+6+8) 14 2 (16#6 ++ d ++ k ++ f ++ 3#2 ++ a ++ i) = _
  iterate 2 rw [extractLsb'_append_hi (h := by decide)]
  rw [extractLsb'_append_lo (h := by decide)]
  exact BitVec.extractLsb'_eq_self

@[simp] theorem sMaj_encM (g : BitVec 1) (t k : BitVec 2) (q : BitVec 4) (o p : BitVec 7) :
    sMaj (encM g t k q o p) = 17#6 := by
  show BitVec.extractLsb' (n := 6+1+1+2+2+4+2+7+7) 26 6 (17#6 ++ 1#1 ++ g ++ t ++ k ++ q ++ 3#2 ++ o ++ p) = _
  iterate 8 rw [extractLsb'_append_hi (h := by decide)]
  exact BitVec.extractLsb'_eq_self

@[simp] theorem mT_encM (g : BitVec 1) (t k : BitVec 2) (q : BitVec 4) (o p : BitVec 7) :
    mT (encM g t k q o p) = t := by
  show BitVec.extractLsb' (n := 6+1+1+2+2+4+2+7+7) 22 2 (17#6 ++ 1#1 ++ g ++ t ++ k ++ q ++ 3#2 ++ o ++ p) = _
  iterate 5 rw [extractLsb'_append_hi (h := by decide)]
  rw [extractLsb'_append_lo (h := by decide)]
  exact BitVec.extractLsb'_eq_self

@[simp] theorem mK_encM (g : BitVec 1) (t k : BitVec 2) (q : BitVec 4) (o p : BitVec 7) :
    mK (encM g t k q o p) = k := by
  show BitVec.extractLsb' (n := 6+1+1+2+2+4+2+7+7) 20 2 (17#6 ++ 1#1 ++ g ++ t ++ k ++ q ++ 3#2 ++ o ++ p) = _
  iterate 4 rw [extractLsb'_append_hi (h := by decide)]
  rw [extractLsb'_append_lo (h := by decide)]
  exact BitVec.extractLsb'_eq_self

@[simp] theorem mQ_encM (g : BitVec 1) (t k : BitVec 2) (q : BitVec 4) (o p : BitVec 7) :
    mQ (encM g t k q o p) = q := by
  show BitVec.extractLsb' (n := 6+1+1+2+2+4+2+7+7) 16 4 (17#6 ++ 1#1 ++ g ++ t ++ k ++ q ++ 3#2 ++ o ++ p) = _
  iterate 3 rw [extractLsb'_append_hi (h := by decide)]
  rw [extractLsb'_append_lo (h := by decide)]
  exact BitVec.extractLsb'_eq_self

@[simp] theorem mO_encM (g : BitVec 1) (t k : BitVec 2) (q : BitVec 4) (o p : BitVec 7) :
    mO (encM g t k q o p) = o := by
  show BitVec.extractLsb' (n := 6+1+1+2+2+4+2+7+7) 7 7 (17#6 ++ 1#1 ++ g ++ t ++ k ++ q ++ 3#2 ++ o ++ p) = _
  iterate 1 rw [extractLsb'_append_hi (h := by decide)]
  rw [extractLsb'_append_lo (h := by decide)]
  exact BitVec.extractLsb'_eq_self

@[simp] theorem mP_encM (g : BitVec 1) (t k : BitVec 2) (q : BitVec 4) (o p : BitVec 7) :
    mP (encM g t k q o p) = p := by
  show BitVec.extractLsb' (n := 6+1+1+2+2+4+2+7+7) 0 7 (17#6 ++ 1#1 ++ g ++ t ++ k ++ q ++ 3#2 ++ o ++ p) = _
  rw [extractLsb'_append_lo (h := by decide)]
  exact BitVec.extractLsb'_eq_self

@[simp] theorem lenBits_encM (g : BitVec 1) (t k : BitVec 2) (q : BitVec 4) (o p : BitVec 7) :
    lenBits (encM g t k q o p) = 3#2 := by
  show BitVec.extractLsb' (n := 6+1+1+2+2+4+2+7+7) 14 2 (17#6 ++ 1#1 ++ g ++ t ++ k ++ q ++ 3#2 ++ o ++ p) = _
  iterate 2 rw [extractLsb'_append_hi (h := by decide)]
  rw [extractLsb'_append_lo (h := by decide)]
  exact BitVec.extractLsb'_eq_self

theorem sN_sZ (w : BitVec 32) : sN w = (sZ w).getLsbD 0 := by simp [sN, sZ]

@[simp] theorem bit01_bit (n : Bool) : (bit01 n)[0] = n := by cases n <;> rfl

theorem lI_encL (d : Reg) (f : BitVec 1) (i : BitVec 16) : lI (encL d f i) = i := by
  have h1 : (encL d f i).extractLsb' 16 2 = i.extractLsb' 14 2 := sF2_encL d f i
  have h2 : (encL d f i).extractLsb' 0 14 = i.extractLsb' 0 14 := by
    show BitVec.extractLsb' (n := 6+6+1+1+2+2+14) 0 14 _ = _
    unfold encL
    rw [extractLsb'_append_lo (h := by decide)]
    exact BitVec.extractLsb'_eq_self
  unfold lI
  rw [h1, h2]
  exact BitVec.extractLsb'_append_extractLsb' (w := 2) (len := 14)

theorem bI_encB (f : BitVec 2) (i : BitVec 22) : bI (encB f i) = i := by
  have h1 : (encB f i).extractLsb' 16 8 = i.extractLsb' 14 8 := by
    show BitVec.extractLsb' (n := 6+2+8+2+14) 16 8 _ = _
    unfold encB
    iterate 2 rw [extractLsb'_append_hi (h := by decide)]
    rw [extractLsb'_append_lo (h := by decide)]
    exact BitVec.extractLsb'_eq_self
  have h2 : (encB f i).extractLsb' 0 14 = i.extractLsb' 0 14 := by
    show BitVec.extractLsb' (n := 6+2+8+2+14) 0 14 _ = _
    unfold encB
    rw [extractLsb'_append_lo (h := by decide)]
    exact BitVec.extractLsb'_eq_self
  unfold bI
  rw [h1, h2]
  exact BitVec.extractLsb'_append_extractLsb' (w := 8) (len := 14)

@[simp] theorem encR_bit25 (maj : BitVec 6) (d : Reg) (f : BitVec 4) (a b : Reg) (z : BitVec 2) :
    (encR maj d f a b z)[25] = d[5] := by
  have h := congrArg (fun x : BitVec 6 => x[5]) (sD_encR maj d f a b z)
  simpa [sD] using h

@[simp] theorem encR_bit19 (maj : BitVec 6) (d : Reg) (f : BitVec 4) (a b : Reg) (z : BitVec 2) :
    (encR maj d f a b z)[19] = f[3] := by
  have h := congrArg (fun x : BitVec 4 => x[3]) (sF_encR maj d f a b z)
  simpa [sF] using h

@[simp] theorem encR_bit18 (maj : BitVec 6) (d : Reg) (f : BitVec 4) (a b : Reg) (z : BitVec 2) :
    (encR maj d f a b z)[18] = f[2] := by
  have h := congrArg (fun x : BitVec 4 => x[2]) (sF_encR maj d f a b z)
  simpa [sF] using h

theorem encL_fn (d : Reg) (f : BitVec 1) (i : BitVec 16) : (encL d f i).extractLsb' 18 2 = 1#1 ++ f := by
  have h1 : (encL d f i).extractLsb' 19 1 = 1#1 := by
    show BitVec.extractLsb' (n := 6+6+1+1+2+2+14) 19 1 _ = _
    unfold encL
    iterate 4 rw [extractLsb'_append_hi (h := by decide)]
    rw [extractLsb'_append_lo (h := by decide)]
    exact BitVec.extractLsb'_eq_self
  have h0 : (encL d f i).extractLsb' 18 1 = f := by
    show BitVec.extractLsb' (n := 6+6+1+1+2+2+14) 18 1 _ = _
    unfold encL
    iterate 3 rw [extractLsb'_append_hi (h := by decide)]
    rw [extractLsb'_append_lo (h := by decide)]
    exact BitVec.extractLsb'_eq_self
  rw [← h1]
  conv => rhs; rhs; rw [← h0]
  exact (BitVec.extractLsb'_append_extractLsb'_eq_extractLsb' (w := 32) (start₁ := 18) (len₁ := 1) (start₂ := 19) (len₂ := 1) rfl).symm

@[simp] theorem encL_bit19 (d : Reg) (f : BitVec 1) (i : BitVec 16) : (encL d f i)[19] = true := by
  have h := congrArg (fun x : BitVec 2 => x.getLsbD 1) (encL_fn d f i)
  rcases bv1_cases f with rfl | rfl <;> simpa using h

@[simp] theorem encL_bit18 (d : Reg) (f : BitVec 1) (i : BitVec 16) : (encL d f i)[18] = f[0] := by
  have h := congrArg (fun x : BitVec 2 => x.getLsbD 0) (encL_fn d f i)
  rcases bv1_cases f with rfl | rfl <;> simpa using h

@[simp] theorem low6_append (i : BitVec 6) : BitVec.extractLsb' (n := 8) 0 6 (0#2 ++ i) = i := by
  show BitVec.extractLsb' (n := 2 + 6) 0 6 _ = _
  rw [extractLsb'_append_lo (h := by decide)]
  exact BitVec.extractLsb'_eq_self

@[simp] theorem low5_append (d : BitVec 5) : BitVec.extractLsb' (n := 6) 0 5 (0#1 ++ d) = d := by
  show BitVec.extractLsb' (n := 1 + 5) 0 5 _ = _
  rw [extractLsb'_append_lo (h := by decide)]
  exact BitVec.extractLsb'_eq_self

@[simp] theorem low4_append (x : BitVec 2) (c : VReg) : BitVec.extractLsb' (n := 6) 0 4 (x ++ c) = c := by
  show BitVec.extractLsb' (n := 2 + 4) 0 4 _ = _
  rw [extractLsb'_append_lo (h := by decide)]
  exact BitVec.extractLsb'_eq_self

@[simp] theorem high2_append (x : BitVec 2) (c : VReg) : BitVec.extractLsb' (n := 6) 4 2 (x ++ c) = x := by
  show BitVec.extractLsb' (n := 2 + 4) 4 2 _ = _
  rw [extractLsb'_append_hi (h := by decide)]
  exact BitVec.extractLsb'_eq_self

theorem encM_bits (g : BitVec 1) (t k : BitVec 2) (q : BitVec 4) (o p : BitVec 7) :
    (encM g t k q o p).getLsbD 25 = true ∧ (encM g t k q o p).getLsbD 24 = g.getLsbD 0 := by
  have h1 : (encM g t k q o p).extractLsb' 25 1 = 1#1 := by
    show BitVec.extractLsb' (n := 6+1+1+2+2+4+2+7+7) 25 1 _ = _
    unfold encM
    iterate 7 rw [extractLsb'_append_hi (h := by decide)]
    rw [extractLsb'_append_lo (h := by decide)]
    exact BitVec.extractLsb'_eq_self
  have h0 : (encM g t k q o p).extractLsb' 24 1 = g := by
    show BitVec.extractLsb' (n := 6+1+1+2+2+4+2+7+7) 24 1 _ = _
    unfold encM
    iterate 6 rw [extractLsb'_append_hi (h := by decide)]
    rw [extractLsb'_append_lo (h := by decide)]
    exact BitVec.extractLsb'_eq_self
  have b1 := congrArg (fun x : BitVec 1 => x.getLsbD 0) h1
  have b0 := congrArg (fun x : BitVec 1 => x.getLsbD 0) h0
  simp only [BitVec.getLsbD_extractLsb'] at b1 b0
  exact ⟨b1, b0⟩

@[simp] theorem encM_bit25 (g : BitVec 1) (t k : BitVec 2) (q : BitVec 4) (o p : BitVec 7) : (encM g t k q o p)[25] = true :=
  (encM_bits g t k q o p).1

@[simp] theorem encM_bit24 (g : BitVec 1) (t k : BitVec 2) (q : BitVec 4) (o p : BitVec 7) : (encM g t k q o p)[24] = g[0] :=
  (encM_bits g t k q o p).2

@[simp] theorem top_append (d : BitVec 5) : (0#1 ++ d : BitVec 6)[5] = false := by
  have h : BitVec.getLsbD (w := 1 + 5) (0#1 ++ d) 5 = false := by rw [BitVec.getLsbD_append]; rfl
  exact h

/-! ### Slots of the 16-bit formats -/

/-- Bits [15:14] of a halfword (R26). -/
def topBits (h : Half) : BitVec 2 := h.extractLsb' 14 2

@[simp] theorem cOp_encRR (op d a : BitVec 5) :
    cOp (encRR op d a) = op := by
  show BitVec.extractLsb' (n := 5+5+5+1) 11 5 (op ++ d ++ a ++ 0#1) = _
  iterate 3 rw [extractLsb'_append_hi (h := by decide)]
  exact BitVec.extractLsb'_eq_self

@[simp] theorem cD_encRR (op d a : BitVec 5) :
    cD (encRR op d a) = d := by
  show BitVec.extractLsb' (n := 5+5+5+1) 6 5 (op ++ d ++ a ++ 0#1) = _
  iterate 2 rw [extractLsb'_append_hi (h := by decide)]
  rw [extractLsb'_append_lo (h := by decide)]
  exact BitVec.extractLsb'_eq_self

@[simp] theorem cA_encRR (op d a : BitVec 5) :
    cA (encRR op d a) = a := by
  show BitVec.extractLsb' (n := 5+5+5+1) 1 5 (op ++ d ++ a ++ 0#1) = _
  iterate 1 rw [extractLsb'_append_hi (h := by decide)]
  rw [extractLsb'_append_lo (h := by decide)]
  exact BitVec.extractLsb'_eq_self

@[simp] theorem topBits_encRR (op d a : BitVec 5) :
    topBits (encRR op d a) = (op).extractLsb' 3 2 := by
  show BitVec.extractLsb' (n := 5+5+5+1) 14 2 (op ++ d ++ a ++ 0#1) = _
  iterate 3 rw [extractLsb'_append_hi (h := by decide)]

@[simp] theorem cOp_encRI (op d : BitVec 5) (i : BitVec 6) :
    cOp (encRI op d i) = op := by
  show BitVec.extractLsb' (n := 5+5+6) 11 5 (op ++ d ++ i) = _
  iterate 2 rw [extractLsb'_append_hi (h := by decide)]
  exact BitVec.extractLsb'_eq_self

@[simp] theorem cD_encRI (op d : BitVec 5) (i : BitVec 6) :
    cD (encRI op d i) = d := by
  show BitVec.extractLsb' (n := 5+5+6) 6 5 (op ++ d ++ i) = _
  iterate 1 rw [extractLsb'_append_hi (h := by decide)]
  rw [extractLsb'_append_lo (h := by decide)]
  exact BitVec.extractLsb'_eq_self

@[simp] theorem cI6_encRI (op d : BitVec 5) (i : BitVec 6) :
    cI6 (encRI op d i) = i := by
  show BitVec.extractLsb' (n := 5+5+6) 0 6 (op ++ d ++ i) = _
  rw [extractLsb'_append_lo (h := by decide)]
  exact BitVec.extractLsb'_eq_self

@[simp] theorem topBits_encRI (op d : BitVec 5) (i : BitVec 6) :
    topBits (encRI op d i) = (op).extractLsb' 3 2 := by
  show BitVec.extractLsb' (n := 5+5+6) 14 2 (op ++ d ++ i) = _
  iterate 2 rw [extractLsb'_append_hi (h := by decide)]

@[simp] theorem cOp_encCM (op d : BitVec 5) (a i : BitVec 3) :
    cOp (encCM op d a i) = op := by
  show BitVec.extractLsb' (n := 5+5+3+3) 11 5 (op ++ d ++ a ++ i) = _
  iterate 3 rw [extractLsb'_append_hi (h := by decide)]
  exact BitVec.extractLsb'_eq_self

@[simp] theorem cD_encCM (op d : BitVec 5) (a i : BitVec 3) :
    cD (encCM op d a i) = d := by
  show BitVec.extractLsb' (n := 5+5+3+3) 6 5 (op ++ d ++ a ++ i) = _
  iterate 2 rw [extractLsb'_append_hi (h := by decide)]
  rw [extractLsb'_append_lo (h := by decide)]
  exact BitVec.extractLsb'_eq_self

@[simp] theorem cM_encCM (op d : BitVec 5) (a i : BitVec 3) :
    cM (encCM op d a i) = a := by
  show BitVec.extractLsb' (n := 5+5+3+3) 3 3 (op ++ d ++ a ++ i) = _
  iterate 1 rw [extractLsb'_append_hi (h := by decide)]
  rw [extractLsb'_append_lo (h := by decide)]
  exact BitVec.extractLsb'_eq_self

@[simp] theorem cI3_encCM (op d : BitVec 5) (a i : BitVec 3) :
    cI3 (encCM op d a i) = i := by
  show BitVec.extractLsb' (n := 5+5+3+3) 0 3 (op ++ d ++ a ++ i) = _
  rw [extractLsb'_append_lo (h := by decide)]
  exact BitVec.extractLsb'_eq_self

@[simp] theorem topBits_encCM (op d : BitVec 5) (a i : BitVec 3) :
    topBits (encCM op d a i) = (op).extractLsb' 3 2 := by
  show BitVec.extractLsb' (n := 5+5+3+3) 14 2 (op ++ d ++ a ++ i) = _
  iterate 3 rw [extractLsb'_append_hi (h := by decide)]

@[simp] theorem cOp_encCJ (i : BitVec 11) :
    cOp (encCJ i) = 14#5 := by
  show BitVec.extractLsb' (n := 5+11) 11 5 (14#5 ++ i) = _
  iterate 1 rw [extractLsb'_append_hi (h := by decide)]
  exact BitVec.extractLsb'_eq_self

@[simp] theorem cI11_encCJ (i : BitVec 11) :
    cI11 (encCJ i) = i := by
  show BitVec.extractLsb' (n := 5+11) 0 11 (14#5 ++ i) = _
  rw [extractLsb'_append_lo (h := by decide)]
  exact BitVec.extractLsb'_eq_self

@[simp] theorem topBits_encCJ (i : BitVec 11) :
    topBits (encCJ i) = (14#5).extractLsb' 3 2 := by
  show BitVec.extractLsb' (n := 5+11) 14 2 (14#5 ++ i) = _
  iterate 1 rw [extractLsb'_append_hi (h := by decide)]

@[simp] theorem cOp_encCZ (f : BitVec 11) :
    cOp (encCZ f) = 17#5 := by
  show BitVec.extractLsb' (n := 5+11) 11 5 (17#5 ++ f) = _
  iterate 1 rw [extractLsb'_append_hi (h := by decide)]
  exact BitVec.extractLsb'_eq_self

@[simp] theorem cI11_encCZ (f : BitVec 11) :
    cI11 (encCZ f) = f := by
  show BitVec.extractLsb' (n := 5+11) 0 11 (17#5 ++ f) = _
  rw [extractLsb'_append_lo (h := by decide)]
  exact BitVec.extractLsb'_eq_self

@[simp] theorem topBits_encCZ (f : BitVec 11) :
    topBits (encCZ f) = (17#5).extractLsb' 3 2 := by
  show BitVec.extractLsb' (n := 5+11) 14 2 (17#5 ++ f) = _
  iterate 1 rw [extractLsb'_append_hi (h := by decide)]

/-! ### When an instruction decodes -/

/-- The decoder reads back a 32-bit instruction whose word names it, if its slots are well formed. -/
theorem decode_long (i : Instr) (w : BitVec 32) (he : encode i = halves w) (hl : lenBits w = 3#2)
    (hc : cand w = .ok (i, w)) (hw : wfReason i = 0) :
    decode ((encode i).getD 0 0) ((encode i).getD 1 0) = .ok i := by
  rw [he]
  simp only [halves, List.getD_cons_zero, List.getD_cons_succ, decode, isLong_low, hl, decide_true, if_true, halves_join, decode32,
    hc, he, hw, ne_eq, not_true_eq_false, if_false]

/-- The decoder reads back a 16-bit instruction whose halfword names it. -/
theorem decode_short (i : Instr) (h : Half) (he : encode i = [h]) (hl : topBits h ≠ 3#2) (hc : candC h = .ok i) :
    decode ((encode i).getD 0 0) ((encode i).getD 1 0) = .ok i := by
  have hl' : isLong h = false := by simpa [isLong, topBits] using hl
  rw [he]
  simp [decode, hl', decode16, hc, he]

end Sys2Proof
end

