-- ==== Sys2Proof/Laws/PerInstr.lean ====
section
/-!
SUPPORT. Statements about every instruction as syntax, one lemma per constructor.
-/
namespace Sys2Proof.Laws.RoundTrip

-- one lemma after another: elaborated side by side, they wait for the kernel in a thread each
set_option Elab.async false

/-- Decoding the encoding of a well-formed instruction gives it back, with every operand; an operation or event of the
device has no encoding (R26, R30, R37, R41). -/
def Statement (i : Instr) : Prop :=
  encode i ≠ [] → wfReason i = 0 → decode ((encode i).getD 0 0) ((encode i).getD 1 0) = .ok i

theorem add (d : Reg) (a : Reg) (b : Reg) : Statement (.add d a b) := by
  intro _ hw
  exact decode_long _ _ rfl (by simp) (by simp [cand, cand.candOf, cand00]) hw

theorem sub (d : Reg) (a : Reg) (b : Reg) : Statement (.sub d a b) := by
  intro _ hw
  exact decode_long _ _ rfl (by simp) (by simp [cand, cand.candOf, cand00]) hw

theorem mul (d : Reg) (a : Reg) (b : Reg) : Statement (.mul d a b) := by
  intro _ hw
  exact decode_long _ _ rfl (by simp) (by simp [cand, cand.candOf, cand00]) hw

theorem mulh (d : Reg) (a : Reg) (b : Reg) (n : Bool) : Statement (.mulh d a b n) := by
  intro _ hw
  exact decode_long _ _ rfl (by simp) (by simp [cand, cand.candOf, cand00, sN_sZ]) hw

theorem div (d : Reg) (a : Reg) (b : Reg) (n : Bool) : Statement (.div d a b n) := by
  intro _ hw
  exact decode_long _ _ rfl (by simp) (by simp [cand, cand.candOf, cand00, sN_sZ]) hw

theorem rem (d : Reg) (a : Reg) (b : Reg) (n : Bool) : Statement (.rem d a b n) := by
  intro _ hw
  exact decode_long _ _ rfl (by simp) (by simp [cand, cand.candOf, cand00, sN_sZ]) hw

theorem and (d : Reg) (a : Reg) (b : Reg) : Statement (.and d a b) := by
  intro _ hw
  exact decode_long _ _ rfl (by simp) (by simp [cand, cand.candOf, cand00]) hw

theorem or (d : Reg) (a : Reg) (b : Reg) : Statement (.or d a b) := by
  intro _ hw
  exact decode_long _ _ rfl (by simp) (by simp [cand, cand.candOf, cand00]) hw

theorem xor (d : Reg) (a : Reg) (b : Reg) : Statement (.xor d a b) := by
  intro _ hw
  exact decode_long _ _ rfl (by simp) (by simp [cand, cand.candOf, cand00]) hw

theorem shl (d : Reg) (a : Reg) (b : Reg) : Statement (.shl d a b) := by
  intro _ hw
  exact decode_long _ _ rfl (by simp) (by simp [cand, cand.candOf, cand00]) hw

theorem shr (d : Reg) (a : Reg) (b : Reg) : Statement (.shr d a b) := by
  intro _ hw
  exact decode_long _ _ rfl (by simp) (by simp [cand, cand.candOf, cand00]) hw

theorem sra (d : Reg) (a : Reg) (b : Reg) : Statement (.sra d a b) := by
  intro _ hw
  exact decode_long _ _ rfl (by simp) (by simp [cand, cand.candOf, cand00]) hw

theorem rotl (d : Reg) (a : Reg) (b : Reg) : Statement (.rotl d a b) := by
  intro _ hw
  exact decode_long _ _ rfl (by simp) (by simp [cand, cand.candOf, cand00]) hw

theorem min (d : Reg) (a : Reg) (b : Reg) (n : Bool) : Statement (.min d a b n) := by
  intro _ hw
  exact decode_long _ _ rfl (by simp) (by simp [cand, cand.candOf, cand00, sN_sZ]) hw

theorem max (d : Reg) (a : Reg) (b : Reg) (n : Bool) : Statement (.max d a b n) := by
  intro _ hw
  exact decode_long _ _ rfl (by simp) (by simp [cand, cand.candOf, cand00, sN_sZ]) hw

theorem sel (d : Reg) (a : Reg) (b : Reg) : Statement (.sel d a b) := by
  intro _ hw
  exact decode_long _ _ rfl (by simp) (by simp [cand, cand.candOf, cand00]) hw

theorem addi (d : Reg) (a : Reg) (i : BitVec 8) : Statement (.addi d a i) := by
  intro _ hw
  exact decode_long _ _ rfl (by simp) (by simp [cand, cand.candOf, cand01]) hw

theorem andi (d : Reg) (a : Reg) (i : BitVec 8) : Statement (.andi d a i) := by
  intro _ hw
  exact decode_long _ _ rfl (by simp) (by simp [cand, cand.candOf, cand01]) hw

theorem ori (d : Reg) (a : Reg) (i : BitVec 8) : Statement (.ori d a i) := by
  intro _ hw
  exact decode_long _ _ rfl (by simp) (by simp [cand, cand.candOf, cand01]) hw

theorem xori (d : Reg) (a : Reg) (i : BitVec 8) : Statement (.xori d a i) := by
  intro _ hw
  exact decode_long _ _ rfl (by simp) (by simp [cand, cand.candOf, cand01]) hw

theorem shlImm (d : Reg) (a : Reg) (i : BitVec 6) : Statement (.shlImm d a i) := by
  intro _ hw
  exact decode_long _ _ rfl (by simp) (by simp [cand, cand.candOf, cand01]) hw

theorem shrImm (d : Reg) (a : Reg) (i : BitVec 6) : Statement (.shrImm d a i) := by
  intro _ hw
  exact decode_long _ _ rfl (by simp) (by simp [cand, cand.candOf, cand01]) hw

theorem sraImm (d : Reg) (a : Reg) (i : BitVec 6) : Statement (.sraImm d a i) := by
  intro _ hw
  exact decode_long _ _ rfl (by simp) (by simp [cand, cand.candOf, cand01]) hw

theorem rotlImm (d : Reg) (a : Reg) (i : BitVec 6) : Statement (.rotlImm d a i) := by
  intro _ hw
  exact decode_long _ _ rfl (by simp) (by simp [cand, cand.candOf, cand01]) hw

theorem seqImm (d : Reg) (a : Reg) (i : BitVec 8) : Statement (.seqImm d a i) := by
  intro _ hw
  exact decode_long _ _ rfl (by simp) (by simp [cand, cand.candOf, cand01]) hw

theorem sneImm (d : Reg) (a : Reg) (i : BitVec 8) : Statement (.sneImm d a i) := by
  intro _ hw
  exact decode_long _ _ rfl (by simp) (by simp [cand, cand.candOf, cand01]) hw

theorem sltImm (d : Reg) (a : Reg) (i : BitVec 8) : Statement (.sltImm d a i) := by
  intro _ hw
  exact decode_long _ _ rfl (by simp) (by simp [cand, cand.candOf, cand01]) hw

theorem sleImm (d : Reg) (a : Reg) (i : BitVec 8) : Statement (.sleImm d a i) := by
  intro _ hw
  exact decode_long _ _ rfl (by simp) (by simp [cand, cand.candOf, cand01]) hw

theorem not (d : Reg) (a : Reg) : Statement (.not d a) := by
  intro _ hw
  exact decode_long _ _ rfl (by simp) (by simp [cand, cand.candOf, cand02]) hw

theorem clz (d : Reg) (a : Reg) : Statement (.clz d a) := by
  intro _ hw
  exact decode_long _ _ rfl (by simp) (by simp [cand, cand.candOf, cand02]) hw

theorem ctz (d : Reg) (a : Reg) : Statement (.ctz d a) := by
  intro _ hw
  exact decode_long _ _ rfl (by simp) (by simp [cand, cand.candOf, cand02]) hw

theorem popc (d : Reg) (a : Reg) : Statement (.popc d a) := by
  intro _ hw
  exact decode_long _ _ rfl (by simp) (by simp [cand, cand.candOf, cand02]) hw

theorem seq (d : Reg) (a : Reg) (b : Reg) : Statement (.seq d a b) := by
  intro _ hw
  exact decode_long _ _ rfl (by simp) (by simp [cand, cand.candOf, cand02]) hw

theorem sne (d : Reg) (a : Reg) (b : Reg) : Statement (.sne d a b) := by
  intro _ hw
  exact decode_long _ _ rfl (by simp) (by simp [cand, cand.candOf, cand02]) hw

theorem slt (d : Reg) (a : Reg) (b : Reg) (n : Bool) : Statement (.slt d a b n) := by
  intro _ hw
  exact decode_long _ _ rfl (by simp) (by simp [cand, cand.candOf, cand02, sN_sZ]) hw

theorem sle (d : Reg) (a : Reg) (b : Reg) (n : Bool) : Statement (.sle d a b n) := by
  intro _ hw
  exact decode_long _ _ rfl (by simp) (by simp [cand, cand.candOf, cand02, sN_sZ]) hw

theorem li (d : Reg) (i : BitVec 16) : Statement (.li d i) := by
  intro _ hw
  exact decode_long _ _ rfl (by simp) (by simp [cand, cand.candOf, cand02, lI_encL]) hw

theorem lih (d : Reg) (i : BitVec 16) : Statement (.lih d i) := by
  intro _ hw
  exact decode_long _ _ rfl (by simp) (by simp [cand, cand.candOf, cand02, lI_encL]) hw

theorem br (i : BitVec 22) : Statement (.br i) := by
  intro _ hw
  exact decode_long _ _ rfl (by simp) (by simp [cand, cand.candOf, cand03, bI_encB]) hw

theorem call (i : BitVec 22) : Statement (.call i) := by
  intro _ hw
  exact decode_long _ _ rfl (by simp) (by simp [cand, cand.candOf, cand03, bI_encB]) hw

theorem brc (a : Reg) (c : BitVec 3) (i : BitVec 14) : Statement (.brc a c i) := by
  intro _ hw
  rcases bv3_cases c with rfl | rfl | rfl | rfl | rfl | rfl | rfl | rfl
  · exact decode_long _ _ rfl (by simp) (by simp [cand, cand.candOf, cand04]) hw
  · exact decode_long _ _ rfl (by simp) (by simp [cand, cand.candOf, cand04]) hw
  · exact decode_long _ _ rfl (by simp) (by simp [cand, cand.candOf, cand04]) hw
  · exact decode_long _ _ rfl (by simp) (by simp [cand, cand.candOf, cand04]) hw
  · exact decode_long _ _ rfl (by simp) (by simp [cand, cand.candOf, cand04]) hw
  · exact decode_long _ _ rfl (by simp) (by simp [cand, cand.candOf, cand04]) hw
  · exact absurd hw (by simp [wfReason, regsOk, rangesOk]; split <;> simp)
  · exact absurd hw (by simp [wfReason, regsOk, rangesOk]; split <;> simp)

theorem jmp (d : Reg) (a : Reg) : Statement (.jmp d a) := by
  intro _ hw
  exact decode_long _ _ rfl (by simp) (by simp [cand, cand.candOf, cand04]) hw

theorem ret : Statement (.ret) := by
  intro _ hw
  exact decode_long _ _ rfl (by simp) (by simp [cand, cand.candOf, cand04]) hw

theorem endt : Statement (.endt) := by
  intro _ hw
  exact decode_long _ _ rfl (by simp) (by simp [cand, cand.candOf, cand04]) hw

theorem yield (a : Reg) (b : Reg) : Statement (.yield a b) := by
  intro _ hw
  exact decode_long _ _ rfl (by simp) (by simp [cand, cand.candOf, cand04]) hw

theorem mka (d : Reg) (a : Reg) (b : Reg) (z : BitVec 2) : Statement (.mka d a b z) := by
  intro _ hw
  exact decode_long _ _ rfl (by simp) (by simp [cand, cand.candOf, cand04]) hw

theorem nop : Statement (.nop) := by
  intro _ hw
  exact decode_long _ _ rfl (by simp) (by simp [cand, cand.candOf, cand04]) hw

theorem ld (d : Reg) (s : BitVec 2) (a : Reg) (i : BitVec 8) : Statement (.ld d s a i) := by
  intro _ hw
  rcases bv2_cases s with rfl | rfl | rfl | rfl
  · exact decode_long _ _ rfl (by simp) (by simp [cand, cand.candOf, cand05]) hw
  · exact decode_long _ _ rfl (by simp) (by simp [cand, cand.candOf, cand05]) hw
  · exact decode_long _ _ rfl (by simp) (by simp [cand, cand.candOf, cand05]) hw
  · exact decode_long _ _ rfl (by simp) (by simp [cand, cand.candOf, cand05]) hw

theorem ldSigned (d : Reg) (s : BitVec 2) (a : Reg) (i : BitVec 8) : Statement (.ldSigned d s a i) := by
  intro _ hw
  rcases bv2_cases s with rfl | rfl | rfl | rfl
  · exact decode_long _ _ rfl (by simp) (by simp [cand, cand.candOf, cand05]) hw
  · exact decode_long _ _ rfl (by simp) (by simp [cand, cand.candOf, cand05]) hw
  · exact decode_long _ _ rfl (by simp) (by simp [cand, cand.candOf, cand05]) hw
  · exact absurd hw (by simp [wfReason, regsOk, rangesOk]; split <;> simp)

theorem st (d : Reg) (s : BitVec 2) (a : Reg) (i : BitVec 8) : Statement (.st d s a i) := by
  intro _ hw
  rcases bv2_cases s with rfl | rfl | rfl | rfl
  · exact decode_long _ _ rfl (by simp) (by simp [cand, cand.candOf, cand05]) hw
  · exact decode_long _ _ rfl (by simp) (by simp [cand, cand.candOf, cand05]) hw
  · exact decode_long _ _ rfl (by simp) (by simp [cand, cand.candOf, cand05]) hw
  · exact decode_long _ _ rfl (by simp) (by simp [cand, cand.candOf, cand05]) hw

theorem ldx (d : Reg) (a : Reg) (b : Reg) (z : BitVec 2) : Statement (.ldx d a b z) := by
  intro _ hw
  exact decode_long _ _ rfl (by simp) (by simp [cand, cand.candOf, cand06]) hw

theorem stx (d : Reg) (a : Reg) (b : Reg) (z : BitVec 2) : Statement (.stx d a b z) := by
  intro _ hw
  exact decode_long _ _ rfl (by simp) (by simp [cand, cand.candOf, cand06]) hw

theorem ldm (d : Reg) (a : Reg) (b : Reg) : Statement (.ldm d a b) := by
  intro _ hw
  exact decode_long _ _ rfl (by simp) (by simp [cand, cand.candOf, cand06]) hw

theorem stm (d : Reg) (a : Reg) (b : Reg) : Statement (.stm d a b) := by
  intro _ hw
  exact decode_long _ _ rfl (by simp) (by simp [cand, cand.candOf, cand06]) hw

theorem ltag (d : Reg) (a : Reg) : Statement (.ltag d a) := by
  intro _ hw
  exact decode_long _ _ rfl (by simp) (by simp [cand, cand.candOf, cand06]) hw

theorem stag (a : Reg) (b : Reg) : Statement (.stag a b) := by
  intro _ hw
  exact decode_long _ _ rfl (by simp) (by simp [cand, cand.candOf, cand06]) hw

theorem cva (d : Reg) (a : Reg) (z : BitVec 2) : Statement (.cva d a z) := by
  intro _ hw
  exact decode_long _ _ rfl (by simp) (by simp [cand, cand.candOf, cand06]) hw

theorem tsta (d : Reg) (a : Reg) (b : Reg) : Statement (.tsta d a b) := by
  intro _ hw
  exact decode_long _ _ rfl (by simp) (by simp [cand, cand.candOf, cand06]) hw

theorem regionRd (d : Reg) (b : Reg) : Statement (.regionRd d b) := by
  intro _ hw
  exact decode_long _ _ rfl (by simp) (by simp [cand, cand.candOf, cand06]) hw

theorem regionWr (a : Reg) (b : Reg) : Statement (.regionWr a b) := by
  intro _ hw
  exact decode_long _ _ rfl (by simp) (by simp [cand, cand.candOf, cand06]) hw

theorem rld (d : Reg) (a : Reg) (z : BitVec 2) : Statement (.rld d a z) := by
  intro _ hw
  exact decode_long _ _ rfl (by simp) (by simp [cand, cand.candOf, cand07]) hw

theorem rst (d : Reg) (a : Reg) (b : Reg) (z : BitVec 2) : Statement (.rst d a b z) := by
  intro _ hw
  exact decode_long _ _ rfl (by simp) (by simp [cand, cand.candOf, cand07]) hw

theorem rcopy (d : Reg) (a : Reg) (b : Reg) : Statement (.rcopy d a b) := by
  intro _ hw
  exact decode_long _ _ rfl (by simp) (by simp [cand, cand.candOf, cand07]) hw

theorem amo (d : Reg) (o : BitVec 3) (a : Reg) (b : Reg) (z : BitVec 2) : Statement (.amo d o a b z) := by
  intro _ hw
  rcases bv3_cases o with rfl | rfl | rfl | rfl | rfl | rfl | rfl | rfl
  · exact decode_long _ _ rfl (by simp) (by simp [cand, cand.candOf, cand08]) hw
  · exact decode_long _ _ rfl (by simp) (by simp [cand, cand.candOf, cand08]) hw
  · exact decode_long _ _ rfl (by simp) (by simp [cand, cand.candOf, cand08]) hw
  · exact decode_long _ _ rfl (by simp) (by simp [cand, cand.candOf, cand08]) hw
  · exact decode_long _ _ rfl (by simp) (by simp [cand, cand.candOf, cand08]) hw
  · exact decode_long _ _ rfl (by simp) (by simp [cand, cand.candOf, cand08]) hw
  · exact decode_long _ _ rfl (by simp) (by simp [cand, cand.candOf, cand08]) hw
  · exact decode_long _ _ rfl (by simp) (by simp [cand, cand.candOf, cand08]) hw

theorem ramo (d : Reg) (o : BitVec 3) (a : Reg) (b : Reg) (z : BitVec 2) : Statement (.ramo d o a b z) := by
  intro _ hw
  rcases bv3_cases o with rfl | rfl | rfl | rfl | rfl | rfl | rfl | rfl
  · exact decode_long _ _ rfl (by simp) (by simp [cand, cand.candOf, cand08]) hw
  · exact decode_long _ _ rfl (by simp) (by simp [cand, cand.candOf, cand08]) hw
  · exact decode_long _ _ rfl (by simp) (by simp [cand, cand.candOf, cand08]) hw
  · exact decode_long _ _ rfl (by simp) (by simp [cand, cand.candOf, cand08]) hw
  · exact decode_long _ _ rfl (by simp) (by simp [cand, cand.candOf, cand08]) hw
  · exact decode_long _ _ rfl (by simp) (by simp [cand, cand.candOf, cand08]) hw
  · exact decode_long _ _ rfl (by simp) (by simp [cand, cand.candOf, cand08]) hw
  · exact decode_long _ _ rfl (by simp) (by simp [cand, cand.candOf, cand08]) hw

theorem fence (b : Reg) : Statement (.fence b) := by
  intro _ hw
  exact decode_long _ _ rfl (by simp) (by simp [cand, cand.candOf, cand09]) hw

theorem bar (a : Reg) (b : Reg) : Statement (.bar a b) := by
  intro _ hw
  exact decode_long _ _ rfl (by simp) (by simp [cand, cand.candOf, cand09]) hw

theorem scw (a : Reg) : Statement (.scw a) := by
  intro _ hw
  exact decode_long _ _ rfl (by simp) (by simp [cand, cand.candOf, cand09]) hw

theorem scr (d : Reg) (a : Reg) (b : Reg) : Statement (.scr d a b) := by
  intro _ hw
  exact decode_long _ _ rfl (by simp) (by simp [cand, cand.candOf, cand09]) hw

theorem ldAcq (d : Reg) (a : Reg) (z : BitVec 2) : Statement (.ldAcq d a z) := by
  intro _ hw
  exact decode_long _ _ rfl (by simp) (by simp [cand, cand.candOf, cand09]) hw

theorem stRel (d : Reg) (a : Reg) (z : BitVec 2) : Statement (.stRel d a z) := by
  intro _ hw
  exact decode_long _ _ rfl (by simp) (by simp [cand, cand.candOf, cand09]) hw

theorem cas (d : Reg) (a : Reg) (b : Reg) (z : BitVec 2) : Statement (.cas d a b z) := by
  intro _ hw
  exact decode_long _ _ rfl (by simp) (by simp [cand, cand.candOf, cand09]) hw

theorem rcas (d : Reg) (a : Reg) (b : Reg) (z : BitVec 2) : Statement (.rcas d a b z) := by
  intro _ hw
  exact decode_long _ _ rfl (by simp) (by simp [cand, cand.candOf, cand09]) hw

theorem send (d : Reg) (a : Reg) : Statement (.send d a) := by
  intro _ hw
  exact decode_long _ _ rfl (by simp) (by simp [cand, cand.candOf, cand0A]) hw

theorem sendb (d : Reg) (a : Reg) (b : Reg) : Statement (.sendb d a b) := by
  intro _ hw
  exact decode_long _ _ rfl (by simp) (by simp [cand, cand.candOf, cand0A]) hw

theorem sendw (d : Reg) (a : Reg) : Statement (.sendw d a) := by
  intro _ hw
  exact decode_long _ _ rfl (by simp) (by simp [cand, cand.candOf, cand0A]) hw

theorem sendk (d : Reg) (a : Reg) (b : Reg) : Statement (.sendk d a b) := by
  intro _ hw
  exact decode_long _ _ rfl (by simp) (by simp [cand, cand.candOf, cand0A]) hw

theorem sendh (d : Reg) : Statement (.sendh d) := by
  intro _ hw
  exact decode_long _ _ rfl (by simp) (by simp [cand, cand.candOf, cand0A]) hw

theorem allow (d : Reg) (a : Reg) : Statement (.allow d a) := by
  intro _ hw
  exact decode_long _ _ rfl (by simp) (by simp [cand, cand.candOf, cand0A]) hw

theorem bind (a : Reg) : Statement (.bind a) := by
  intro _ hw
  exact decode_long _ _ rfl (by simp) (by simp [cand, cand.candOf, cand0A]) hw

theorem unbind (a : Reg) : Statement (.unbind a) := by
  intro _ hw
  exact decode_long _ _ rfl (by simp) (by simp [cand, cand.candOf, cand0A]) hw

theorem prio (a : Reg) : Statement (.prio a) := by
  intro _ hw
  exact decode_long _ _ rfl (by simp) (by simp [cand, cand.candOf, cand0A]) hw

theorem bincfg (a : Reg) (b : Reg) : Statement (.bincfg a b) := by
  intro _ hw
  exact decode_long _ _ rfl (by simp) (by simp [cand, cand.candOf, cand0B]) hw

theorem binseal (d : Reg) (a : Reg) : Statement (.binseal d a) := by
  intro _ hw
  exact decode_long _ _ rfl (by simp) (by simp [cand, cand.candOf, cand0B]) hw

theorem binrd (d : Reg) (a : Reg) (b : Reg) : Statement (.binrd d a b) := by
  intro _ hw
  exact decode_long _ _ rfl (by simp) (by simp [cand, cand.candOf, cand0B]) hw

theorem evset (a : Reg) (b : Reg) : Statement (.evset a b) := by
  intro _ hw
  exact decode_long _ _ rfl (by simp) (by simp [cand, cand.candOf, cand0B]) hw

theorem evclr (a : Reg) : Statement (.evclr a) := by
  intro _ hw
  exact decode_long _ _ rfl (by simp) (by simp [cand, cand.candOf, cand0B]) hw

theorem evadd (a : Reg) (b : Reg) : Statement (.evadd a b) := by
  intro _ hw
  exact decode_long _ _ rfl (by simp) (by simp [cand, cand.candOf, cand0B]) hw

theorem evarm (a : Reg) (b : Reg) : Statement (.evarm a b) := by
  intro _ hw
  exact decode_long _ _ rfl (by simp) (by simp [cand, cand.candOf, cand0B]) hw

theorem fadd (d : VReg) (k : BitVec 3) (z : BitVec 3) (a : VReg) (b : VReg) : Statement (.fadd d k z a b) := by
  intro _ hw
  exact decode_long _ _ rfl (by simp) (by simp [cand, cand.candOf, cand0C]) hw

theorem fsub (d : VReg) (k : BitVec 3) (z : BitVec 3) (a : VReg) (b : VReg) : Statement (.fsub d k z a b) := by
  intro _ hw
  exact decode_long _ _ rfl (by simp) (by simp [cand, cand.candOf, cand0C]) hw

theorem fmul (d : VReg) (k : BitVec 3) (z : BitVec 3) (a : VReg) (b : VReg) : Statement (.fmul d k z a b) := by
  intro _ hw
  exact decode_long _ _ rfl (by simp) (by simp [cand, cand.candOf, cand0C]) hw

theorem fmin (d : VReg) (k : BitVec 3) (z : BitVec 3) (a : VReg) (b : VReg) : Statement (.fmin d k z a b) := by
  intro _ hw
  exact decode_long _ _ rfl (by simp) (by simp [cand, cand.candOf, cand0C]) hw

theorem fmax (d : VReg) (k : BitVec 3) (z : BitVec 3) (a : VReg) (b : VReg) : Statement (.fmax d k z a b) := by
  intro _ hw
  exact decode_long _ _ rfl (by simp) (by simp [cand, cand.candOf, cand0C]) hw

theorem fabs (d : VReg) (k : BitVec 3) (z : BitVec 3) (a : VReg) : Statement (.fabs d k z a) := by
  intro _ hw
  exact decode_long _ _ rfl (by simp) (by simp [cand, cand.candOf, cand0C]) hw

theorem fneg (d : VReg) (k : BitVec 3) (z : BitVec 3) (a : VReg) : Statement (.fneg d k z a) := by
  intro _ hw
  exact decode_long _ _ rfl (by simp) (by simp [cand, cand.candOf, cand0C]) hw

theorem fcps (d : VReg) (k : BitVec 3) (z : BitVec 3) (a : VReg) (b : VReg) : Statement (.fcps d k z a b) := by
  intro _ hw
  exact decode_long _ _ rfl (by simp) (by simp [cand, cand.candOf, cand0C]) hw

theorem fcmp (d : VReg) (k : BitVec 3) (z : BitVec 3) (a : VReg) (b : VReg) (c : BitVec 2) : Statement (.fcmp d k z a b c) := by
  intro _ hw
  rcases bv2_cases c with rfl | rfl | rfl | rfl
  · exact decode_long _ _ rfl (by simp) (by simp [cand, cand.candOf, cand0C]) hw
  · exact decode_long _ _ rfl (by simp) (by simp [cand, cand.candOf, cand0C]) hw
  · exact decode_long _ _ rfl (by simp) (by simp [cand, cand.candOf, cand0C]) hw
  · exact decode_long _ _ rfl (by simp) (by simp [cand, cand.candOf, cand0C]) hw

theorem fclass (d : VReg) (k : BitVec 3) (z : BitVec 3) (a : VReg) : Statement (.fclass d k z a) := by
  intro _ hw
  exact decode_long _ _ rfl (by simp) (by simp [cand, cand.candOf, cand0C]) hw

theorem fma (d : VReg) (k : BitVec 3) (z : BitVec 3) (a : VReg) (b : VReg) (c : VReg) : Statement (.fma d k z a b c) := by
  intro _ hw
  exact decode_long _ _ rfl (by simp) (by simp [cand, cand.candOf, cand0C]) hw

theorem fms (d : VReg) (k : BitVec 3) (z : BitVec 3) (a : VReg) (b : VReg) (c : VReg) : Statement (.fms d k z a b c) := by
  intro _ hw
  exact decode_long _ _ rfl (by simp) (by simp [cand, cand.candOf, cand0C]) hw

theorem fnma (d : VReg) (k : BitVec 3) (z : BitVec 3) (a : VReg) (b : VReg) (c : VReg) : Statement (.fnma d k z a b c) := by
  intro _ hw
  exact decode_long _ _ rfl (by simp) (by simp [cand, cand.candOf, cand0C]) hw

theorem vadd (d : VReg) (k : BitVec 3) (z : BitVec 3) (a : VReg) (b : VReg) : Statement (.vadd d k z a b) := by
  intro _ hw
  exact decode_long _ _ rfl (by simp) (by simp [cand, cand.candOf, cand0D]) hw

theorem vsub (d : VReg) (k : BitVec 3) (z : BitVec 3) (a : VReg) (b : VReg) : Statement (.vsub d k z a b) := by
  intro _ hw
  exact decode_long _ _ rfl (by simp) (by simp [cand, cand.candOf, cand0D]) hw

theorem vmul (d : VReg) (k : BitVec 3) (z : BitVec 3) (a : VReg) (b : VReg) : Statement (.vmul d k z a b) := by
  intro _ hw
  exact decode_long _ _ rfl (by simp) (by simp [cand, cand.candOf, cand0D]) hw

theorem vand (d : VReg) (k : BitVec 3) (z : BitVec 3) (a : VReg) (b : VReg) : Statement (.vand d k z a b) := by
  intro _ hw
  exact decode_long _ _ rfl (by simp) (by simp [cand, cand.candOf, cand0D]) hw

theorem vor (d : VReg) (k : BitVec 3) (z : BitVec 3) (a : VReg) (b : VReg) : Statement (.vor d k z a b) := by
  intro _ hw
  exact decode_long _ _ rfl (by simp) (by simp [cand, cand.candOf, cand0D]) hw

theorem vxor (d : VReg) (k : BitVec 3) (z : BitVec 3) (a : VReg) (b : VReg) : Statement (.vxor d k z a b) := by
  intro _ hw
  exact decode_long _ _ rfl (by simp) (by simp [cand, cand.candOf, cand0D]) hw

theorem vshl (d : VReg) (k : BitVec 3) (z : BitVec 3) (a : VReg) (b : VReg) : Statement (.vshl d k z a b) := by
  intro _ hw
  exact decode_long _ _ rfl (by simp) (by simp [cand, cand.candOf, cand0D]) hw

theorem vshr (d : VReg) (k : BitVec 3) (z : BitVec 3) (a : VReg) (b : VReg) : Statement (.vshr d k z a b) := by
  intro _ hw
  exact decode_long _ _ rfl (by simp) (by simp [cand, cand.candOf, cand0D]) hw

theorem vsra (d : VReg) (k : BitVec 3) (z : BitVec 3) (a : VReg) (b : VReg) : Statement (.vsra d k z a b) := by
  intro _ hw
  exact decode_long _ _ rfl (by simp) (by simp [cand, cand.candOf, cand0D]) hw

theorem vsel (d : VReg) (k : BitVec 3) (z : BitVec 3) (a : VReg) (b : VReg) : Statement (.vsel d k z a b) := by
  intro _ hw
  exact decode_long _ _ rfl (by simp) (by simp [cand, cand.candOf, cand0D]) hw

theorem vminI (d : VReg) (k : BitVec 3) (z : BitVec 3) (a : VReg) (b : VReg) : Statement (.vminI d k z a b) := by
  intro _ hw
  exact decode_long _ _ rfl (by simp) (by simp [cand, cand.candOf, cand0D]) hw

theorem vminN (d : VReg) (k : BitVec 3) (z : BitVec 3) (a : VReg) (b : VReg) : Statement (.vminN d k z a b) := by
  intro _ hw
  exact decode_long _ _ rfl (by simp) (by simp [cand, cand.candOf, cand0D]) hw

theorem vmaxI (d : VReg) (k : BitVec 3) (z : BitVec 3) (a : VReg) (b : VReg) : Statement (.vmaxI d k z a b) := by
  intro _ hw
  exact decode_long _ _ rfl (by simp) (by simp [cand, cand.candOf, cand0D]) hw

theorem vmaxN (d : VReg) (k : BitVec 3) (z : BitVec 3) (a : VReg) (b : VReg) : Statement (.vmaxN d k z a b) := by
  intro _ hw
  exact decode_long _ _ rfl (by simp) (by simp [cand, cand.candOf, cand0D]) hw

theorem vcmp (d : VReg) (k : BitVec 3) (z : BitVec 3) (a : VReg) (b : VReg) (c : BitVec 3) : Statement (.vcmp d k z a b c) := by
  intro _ hw
  rcases bv3_cases c with rfl | rfl | rfl | rfl | rfl | rfl | rfl | rfl
  · exact decode_long _ _ rfl (by simp) (by simp [cand, cand.candOf, cand0D]) hw
  · exact decode_long _ _ rfl (by simp) (by simp [cand, cand.candOf, cand0D]) hw
  · exact decode_long _ _ rfl (by simp) (by simp [cand, cand.candOf, cand0D]) hw
  · exact decode_long _ _ rfl (by simp) (by simp [cand, cand.candOf, cand0D]) hw
  · exact decode_long _ _ rfl (by simp) (by simp [cand, cand.candOf, cand0D]) hw
  · exact decode_long _ _ rfl (by simp) (by simp [cand, cand.candOf, cand0D]) hw
  · exact absurd hw (by simp [wfReason, regsOk, rangesOk])
  · exact absurd hw (by simp [wfReason, regsOk, rangesOk])

theorem vmad (d : VReg) (k : BitVec 3) (z : BitVec 3) (a : VReg) (b : VReg) (c : VReg) : Statement (.vmad d k z a b c) := by
  intro _ hw
  exact decode_long _ _ rfl (by simp) (by simp [cand, cand.candOf, cand0D]) hw

theorem vbcast (d : VReg) (k : BitVec 3) (z : BitVec 3) (a : VReg) : Statement (.vbcast d k z a) := by
  intro _ hw
  exact decode_long _ _ rfl (by simp) (by simp [cand, cand.candOf, cand0E]) hw

theorem vperm (d : VReg) (k : BitVec 3) (z : BitVec 3) (a : VReg) (b : VReg) : Statement (.vperm d k z a b) := by
  intro _ hw
  exact decode_long _ _ rfl (by simp) (by simp [cand, cand.candOf, cand0E]) hw

theorem vmaxi (d : VReg) (k : BitVec 3) (z : BitVec 3) (a : VReg) : Statement (.vmaxi d k z a) := by
  intro _ hw
  exact decode_long _ _ rfl (by simp) (by simp [cand, cand.candOf, cand0E]) hw

theorem vmaxiN (d : VReg) (k : BitVec 3) (z : BitVec 3) (a : VReg) : Statement (.vmaxiN d k z a) := by
  intro _ hw
  exact decode_long _ _ rfl (by simp) (by simp [cand, cand.candOf, cand0E]) hw

theorem kand (d : VReg) (a : VReg) (b : VReg) : Statement (.kand d a b) := by
  intro _ hw
  exact decode_long _ _ rfl (by simp) (by simp [cand, cand.candOf, cand0E]) hw

theorem kor (d : VReg) (a : VReg) (b : VReg) : Statement (.kor d a b) := by
  intro _ hw
  exact decode_long _ _ rfl (by simp) (by simp [cand, cand.candOf, cand0E]) hw

theorem knot (d : VReg) (a : VReg) : Statement (.knot d a) := by
  intro _ hw
  exact decode_long _ _ rfl (by simp) (by simp [cand, cand.candOf, cand0E]) hw

theorem kmov (d : VReg) (a : VReg) (b : VReg) : Statement (.kmov d a b) := by
  intro _ hw
  exact decode_long _ _ rfl (by simp) (by simp [cand, cand.candOf, cand0E]) hw

theorem vred (d : VReg) (k : BitVec 3) (z : BitVec 3) (a : VReg) (o : BitVec 4) : Statement (.vred d k z a o) := by
  intro _ hw
  exact decode_long _ _ rfl (by simp) (by simp [cand, cand.candOf, cand0E]) hw

theorem vscan (d : VReg) (k : BitVec 3) (z : BitVec 3) (a : VReg) (o : BitVec 4) : Statement (.vscan d k z a o) := by
  intro _ hw
  exact decode_long _ _ rfl (by simp) (by simp [cand, cand.candOf, cand0E]) hw

theorem fcvt (d : VReg) (k : BitVec 3) (z : BitVec 3) (a : VReg) (b : VReg) : Statement (.fcvt d k z a b) := by
  intro _ hw
  exact decode_long _ _ rfl (by simp) (by simp [cand, cand.candOf, cand0F]) hw

theorem frnd (d : VReg) (k : BitVec 3) (z : BitVec 3) (a : VReg) (b : VReg) : Statement (.frnd d k z a b) := by
  intro _ hw
  exact decode_long _ _ rfl (by simp) (by simp [cand, cand.candOf, cand0F]) hw

theorem fseed (d : VReg) (k : BitVec 3) (z : BitVec 3) (a : VReg) (b : VReg) : Statement (.fseed d k z a b) := by
  intro _ hw
  exact decode_long _ _ rfl (by simp) (by simp [cand, cand.candOf, cand0F]) hw

theorem fred (d : VReg) (k : BitVec 3) (z : BitVec 3) (a : VReg) (b : VReg) : Statement (.fred d k z a b) := by
  intro _ hw
  exact decode_long _ _ rfl (by simp) (by simp [cand, cand.candOf, cand0F]) hw

theorem fscale (d : VReg) (k : BitVec 3) (z : BitVec 3) (a : VReg) (b : VReg) : Statement (.fscale d k z a b) := by
  intro _ hw
  exact decode_long _ _ rfl (by simp) (by simp [cand, cand.candOf, cand0F]) hw

theorem fexpo (d : VReg) (k : BitVec 3) (z : BitVec 3) (a : VReg) : Statement (.fexpo d k z a) := by
  intro _ hw
  exact decode_long _ _ rfl (by simp) (by simp [cand, cand.candOf, cand0F]) hw

theorem fmant (d : VReg) (k : BitVec 3) (z : BitVec 3) (a : VReg) : Statement (.fmant d k z a) := by
  intro _ hw
  exact decode_long _ _ rfl (by simp) (by simp [cand, cand.candOf, cand0F]) hw

theorem vld (d : VReg) (k : BitVec 3) (a : Reg) (i : BitVec 8) : Statement (.vld d k a i) := by
  intro _ hw
  exact decode_long _ _ rfl (by simp) (by simp [cand, cand.candOf, cand10]) hw

theorem vst (d : VReg) (k : BitVec 3) (a : Reg) (i : BitVec 8) : Statement (.vst d k a i) := by
  intro _ hw
  exact decode_long _ _ rfl (by simp) (by simp [cand, cand.candOf, cand10]) hw

theorem mcfg (a : Reg) (t : BitVec 2) : Statement (.mcfg a t) := by
  intro _ hw
  exact decode_long _ _ rfl (by simp) (by simp [cand, cand.candOf, cand11]) hw

theorem mcfgGang (a : Reg) : Statement (.mcfgGang a) := by
  intro _ hw
  exact decode_long _ _ rfl (by simp) (by simp [cand, cand.candOf, cand11]) hw

theorem mzero (t : BitVec 2) : Statement (.mzero t) := by
  intro _ hw
  exact decode_long _ _ rfl (by simp) (by simp [cand, cand.candOf, cand11]) hw

theorem oclaim (d : BitVec 5) (a : Reg) : Statement (.oclaim d a) := by
  intro _ hw
  exact decode_long _ _ rfl (by simp) (by simp [cand, cand.candOf, cand11]) hw

theorem orelease (a : Reg) : Statement (.orelease a) := by
  intro _ hw
  exact decode_long _ _ rfl (by simp) (by simp [cand, cand.candOf, cand11]) hw

theorem ofill (a : Reg) (b : Reg) : Statement (.ofill a b) := by
  intro _ hw
  exact decode_long _ _ rfl (by simp) (by simp [cand, cand.candOf, cand11]) hw

theorem mrdr (d : BitVec 5) (a : Reg) (t : BitVec 2) : Statement (.mrdr d a t) := by
  intro _ hw
  exact decode_long _ _ rfl (by simp) (by simp [cand, cand.candOf, cand11]) hw

theorem mrdc (d : BitVec 5) (a : Reg) (t : BitVec 2) : Statement (.mrdc d a t) := by
  intro _ hw
  exact decode_long _ _ rfl (by simp) (by simp [cand, cand.candOf, cand11]) hw

theorem mwrr (d : BitVec 5) (a : Reg) (t : BitVec 2) : Statement (.mwrr d a t) := by
  intro _ hw
  exact decode_long _ _ rfl (by simp) (by simp [cand, cand.candOf, cand11]) hw

theorem mwrc (d : BitVec 5) (a : Reg) (t : BitVec 2) : Statement (.mwrc d a t) := by
  intro _ hw
  exact decode_long _ _ rfl (by simp) (by simp [cand, cand.candOf, cand11]) hw

theorem mstat (d : BitVec 5) : Statement (.mstat d) := by
  intro _ hw
  exact decode_long _ _ rfl (by simp) (by simp [cand, cand.candOf, cand11]) hw

theorem merr (d : BitVec 5) (a : Reg) : Statement (.merr d a) := by
  intro _ hw
  exact decode_long _ _ rfl (by simp) (by simp [cand, cand.candOf, cand11]) hw

theorem mlenHold : Statement (.mlenHold) := by
  intro _ hw
  exact decode_long _ _ rfl (by simp) (by simp [cand, cand.candOf, cand11]) hw

theorem mlenSet (a : Reg) : Statement (.mlenSet a) := by
  intro _ hw
  exact decode_long _ _ rfl (by simp) (by simp [cand, cand.candOf, cand11]) hw

theorem mflush : Statement (.mflush) := by
  intro _ hw
  exact decode_long _ _ rfl (by simp) (by simp [cand, cand.candOf, cand11]) hw

theorem mma (t : BitVec 2) (k : BitVec 2) (q : BitVec 4) (o : BitVec 7) (p : BitVec 7) : Statement (.mma t k q o p) := by
  intro _ hw
  exact decode_long _ _ rfl (by simp) (by simp [cand, cand.candOf, cand11]) hw

theorem mmag (t : BitVec 2) (k : BitVec 2) (q : BitVec 4) (o : BitVec 7) (p : BitVec 7) : Statement (.mmag t k q o p) := by
  intro _ hw
  exact decode_long _ _ rfl (by simp) (by simp [cand, cand.candOf, cand11]) hw

theorem cdef (d : Reg) (a : Reg) : Statement (.cdef d a) := by
  intro _ hw
  exact decode_long _ _ rfl (by simp) (by simp [cand, cand.candOf, cand12]) hw

theorem cbind (d : Reg) (a : Reg) (b : Reg) : Statement (.cbind d a b) := by
  intro _ hw
  exact decode_long _ _ rfl (by simp) (by simp [cand, cand.candOf, cand12]) hw

theorem crebind (d : Reg) (a : Reg) (b : Reg) : Statement (.crebind d a b) := by
  intro _ hw
  exact decode_long _ _ rfl (by simp) (by simp [cand, cand.candOf, cand12]) hw

theorem cdrop (d : Reg) (a : Reg) (b : Reg) : Statement (.cdrop d a b) := by
  intro _ hw
  exact decode_long _ _ rfl (by simp) (by simp [cand, cand.candOf, cand12]) hw

theorem crd (d : Reg) (a : Reg) (b : Reg) : Statement (.crd d a b) := by
  intro _ hw
  exact decode_long _ _ rfl (by simp) (by simp [cand, cand.candOf, cand12]) hw

theorem cwr (d : Reg) (a : Reg) (b : Reg) : Statement (.cwr d a b) := by
  intro _ hw
  exact decode_long _ _ rfl (by simp) (by simp [cand, cand.candOf, cand12]) hw

theorem cdone (a : Reg) (b : Reg) : Statement (.cdone a b) := by
  intro _ hw
  exact decode_long _ _ rfl (by simp) (by simp [cand, cand.candOf, cand12]) hw

theorem cwave (a : Reg) : Statement (.cwave a) := by
  intro _ hw
  exact decode_long _ _ rfl (by simp) (by simp [cand, cand.candOf, cand12]) hw

theorem cwait (a : Reg) (b : Reg) : Statement (.cwait a b) := by
  intro _ hw
  exact decode_long _ _ rfl (by simp) (by simp [cand, cand.candOf, cand12]) hw

theorem crun (a : Reg) (b : Reg) : Statement (.crun a b) := by
  intro _ hw
  exact decode_long _ _ rfl (by simp) (by simp [cand, cand.candOf, cand12]) hw

theorem cstat (d : Reg) (a : Reg) (b : Reg) : Statement (.cstat d a b) := by
  intro _ hw
  exact decode_long _ _ rfl (by simp) (by simp [cand, cand.candOf, cand12]) hw

theorem sopen (d : Reg) (a : Reg) : Statement (.sopen d a) := by
  intro _ hw
  exact decode_long _ _ rfl (by simp) (by simp [cand, cand.candOf, cand13]) hw

theorem sclose (d : Reg) (a : Reg) : Statement (.sclose d a) := by
  intro _ hw
  exact decode_long _ _ rfl (by simp) (by simp [cand, cand.candOf, cand13]) hw

theorem sgen (d : Reg) (a : Reg) : Statement (.sgen d a) := by
  intro _ hw
  exact decode_long _ _ rfl (by simp) (by simp [cand, cand.candOf, cand13]) hw

theorem spost (d : Reg) (a : Reg) (b : Reg) : Statement (.spost d a b) := by
  intro _ hw
  exact decode_long _ _ rfl (by simp) (by simp [cand, cand.candOf, cand13]) hw

theorem strunc (d : Reg) (a : Reg) (b : Reg) : Statement (.strunc d a b) := by
  intro _ hw
  exact decode_long _ _ rfl (by simp) (by simp [cand, cand.candOf, cand13]) hw

theorem sckpt (d : Reg) (a : Reg) : Statement (.sckpt d a) := by
  intro _ hw
  exact decode_long _ _ rfl (by simp) (by simp [cand, cand.candOf, cand13]) hw

theorem srefeed (d : Reg) (a : Reg) (b : Reg) : Statement (.srefeed d a b) := by
  intro _ hw
  exact decode_long _ _ rfl (by simp) (by simp [cand, cand.candOf, cand13]) hw

theorem smask (d : Reg) (a : Reg) (b : Reg) : Statement (.smask d a b) := by
  intro _ hw
  exact decode_long _ _ rfl (by simp) (by simp [cand, cand.candOf, cand13]) hw

theorem sframe (d : Reg) (a : Reg) (b : Reg) : Statement (.sframe d a b) := by
  intro _ hw
  exact decode_long _ _ rfl (by simp) (by simp [cand, cand.candOf, cand13]) hw

theorem sstat (d : Reg) (a : Reg) (b : Reg) : Statement (.sstat d a b) := by
  intro _ hw
  exact decode_long _ _ rfl (by simp) (by simp [cand, cand.candOf, cand13]) hw

theorem sfloor (d : Reg) (a : Reg) (b : Reg) : Statement (.sfloor d a b) := by
  intro _ hw
  exact decode_long _ _ rfl (by simp) (by simp [cand, cand.candOf, cand13]) hw

theorem compose (d : Reg) (a : Reg) (b : Reg) : Statement (.compose d a b) := by
  intro _ hw
  exact decode_long _ _ rfl (by simp) (by simp [cand, cand.candOf, cand14]) hw

theorem release (d : Reg) (a : Reg) : Statement (.release d a) := by
  intro _ hw
  exact decode_long _ _ rfl (by simp) (by simp [cand, cand.candOf, cand14]) hw

theorem frstat (d : Reg) (a : Reg) : Statement (.frstat d a) := by
  intro _ hw
  exact decode_long _ _ rfl (by simp) (by simp [cand, cand.candOf, cand14]) hw

theorem mcld (a : Reg) (b : Reg) : Statement (.mcld a b) := by
  intro _ hw
  exact decode_long _ _ rfl (by simp) (by simp [cand, cand.candOf, cand15]) hw

theorem mcst (a : Reg) (b : Reg) : Statement (.mcst a b) := by
  intro _ hw
  exact decode_long _ _ rfl (by simp) (by simp [cand, cand.candOf, cand15]) hw

theorem mcpush (d : Reg) (a : Reg) (b : Reg) : Statement (.mcpush d a b) := by
  intro _ hw
  exact decode_long _ _ rfl (by simp) (by simp [cand, cand.candOf, cand15]) hw

theorem tlbinv (a : Reg) (b : Reg) : Statement (.tlbinv a b) := by
  intro _ hw
  exact decode_long _ _ rfl (by simp) (by simp [cand, cand.candOf, cand15]) hw

theorem pgrelQ (d : Reg) (a : Reg) (b : Reg) : Statement (.pgrelQ d a b) := by
  intro _ hw
  exact decode_long _ _ rfl (by simp) (by simp [cand, cand.candOf, cand15]) hw

theorem pgrelR (d : Reg) : Statement (.pgrelR d) := by
  intro _ hw
  exact decode_long _ _ rfl (by simp) (by simp [cand, cand.candOf, cand15]) hw

theorem qcnt (d : Reg) : Statement (.qcnt d) := by
  intro _ hw
  exact decode_long _ _ rfl (by simp) (by simp [cand, cand.candOf, cand15]) hw

theorem wswr (d : Reg) (a : Reg) (b : Reg) : Statement (.wswr d a b) := by
  intro _ hw
  exact decode_long _ _ rfl (by simp) (by simp [cand, cand.candOf, cand15]) hw

theorem wsref (d : Reg) (a : Reg) : Statement (.wsref d a) := by
  intro _ hw
  exact decode_long _ _ rfl (by simp) (by simp [cand, cand.candOf, cand15]) hw

theorem srd (d : Reg) (i : BitVec 8) : Statement (.srd d i) := by
  intro _ hw
  exact decode_long _ _ rfl (by simp) (by simp [cand, cand.candOf, cand16]) hw

theorem swr (a : Reg) (i : BitVec 8) : Statement (.swr a i) := by
  intro _ hw
  exact decode_long _ _ rfl (by simp) (by simp [cand, cand.candOf, cand16]) hw

theorem trap (a : Reg) (b : Reg) : Statement (.trap a b) := by
  intro _ hw
  exact decode_long _ _ rfl (by simp) (by simp [cand, cand.candOf, cand17]) hw

theorem dbgrd (d : Reg) (a : Reg) (b : Reg) : Statement (.dbgrd d a b) := by
  intro _ hw
  exact decode_long _ _ rfl (by simp) (by simp [cand, cand.candOf, cand17]) hw

theorem dbgwr (d : Reg) (a : Reg) (b : Reg) : Statement (.dbgwr d a b) := by
  intro _ hw
  exact decode_long _ _ rfl (by simp) (by simp [cand, cand.candOf, cand17]) hw

theorem thaw (a : Reg) (b : Reg) : Statement (.thaw a b) := by
  intro _ hw
  exact decode_long _ _ rfl (by simp) (by simp [cand, cand.candOf, cand17]) hw

theorem retire (a : Reg) (b : Reg) : Statement (.retire a b) := by
  intro _ hw
  exact decode_long _ _ rfl (by simp) (by simp [cand, cand.candOf, cand17]) hw

theorem time (d : Reg) : Statement (.time d) := by
  intro _ hw
  exact decode_long _ _ rfl (by simp) (by simp [cand, cand.candOf, cand17]) hw

theorem timeAr (d : Reg) : Statement (.timeAr d) := by
  intro _ hw
  exact decode_long _ _ rfl (by simp) (by simp [cand, cand.candOf, cand17]) hw

theorem swsched (d : Reg) (a : Reg) (b : Reg) : Statement (.swsched d a b) := by
  intro _ hw
  exact decode_long _ _ rfl (by simp) (by simp [cand, cand.candOf, cand17]) hw

theorem fencec (d : Reg) (a : Reg) : Statement (.fencec d a) := by
  intro _ hw
  exact decode_long _ _ rfl (by simp) (by simp [cand, cand.candOf, cand17]) hw

theorem remap (d : Reg) (a : Reg) : Statement (.remap d a) := by
  intro _ hw
  exact decode_long _ _ rfl (by simp) (by simp [cand, cand.candOf, cand17]) hw

theorem dgrd (d : Reg) (b : Reg) : Statement (.dgrd d b) := by
  intro _ hw
  exact decode_long _ _ rfl (by simp) (by simp [cand, cand.candOf, cand17]) hw

theorem dgchk (d : Reg) (a : Reg) : Statement (.dgchk d a) := by
  intro _ hw
  exact decode_long _ _ rfl (by simp) (by simp [cand, cand.candOf, cand17]) hw

theorem dgchkFlt (d : Reg) (a : Reg) : Statement (.dgchkFlt d a) := by
  intro _ hw
  exact decode_long _ _ rfl (by simp) (by simp [cand, cand.candOf, cand17]) hw

theorem tron (d : Reg) (a : Reg) (b : Reg) : Statement (.tron d a b) := by
  intro _ hw
  exact decode_long _ _ rfl (by simp) (by simp [cand, cand.candOf, cand17]) hw

theorem troff (d : Reg) : Statement (.troff d) := by
  intro _ hw
  exact decode_long _ _ rfl (by simp) (by simp [cand, cand.candOf, cand17]) hw

theorem bkpt (d : Reg) (a : Reg) : Statement (.bkpt d a) := by
  intro _ hw
  exact decode_long _ _ rfl (by simp) (by simp [cand, cand.candOf, cand17]) hw

theorem halt (d : Reg) (a : Reg) : Statement (.halt d a) := by
  intro _ hw
  exact decode_long _ _ rfl (by simp) (by simp [cand, cand.candOf, cand17]) hw

theorem movC (d : BitVec 5) (a : BitVec 5) : Statement (.movC d a) := by
  intro _ _
  exact decode_short _ (encRR 0x01 d a) rfl (by simp) (by simp [candC])

theorem addC (d : BitVec 5) (a : BitVec 5) : Statement (.addC d a) := by
  intro _ _
  exact decode_short _ (encRR 0x02 d a) rfl (by simp) (by simp [candC])

theorem subC (d : BitVec 5) (a : BitVec 5) : Statement (.subC d a) := by
  intro _ _
  exact decode_short _ (encRR 0x03 d a) rfl (by simp) (by simp [candC])

theorem andC (d : BitVec 5) (a : BitVec 5) : Statement (.andC d a) := by
  intro _ _
  exact decode_short _ (encRR 0x04 d a) rfl (by simp) (by simp [candC])

theorem orC (d : BitVec 5) (a : BitVec 5) : Statement (.orC d a) := by
  intro _ _
  exact decode_short _ (encRR 0x05 d a) rfl (by simp) (by simp [candC])

theorem xorC (d : BitVec 5) (a : BitVec 5) : Statement (.xorC d a) := by
  intro _ _
  exact decode_short _ (encRR 0x06 d a) rfl (by simp) (by simp [candC])

theorem addiC (d : BitVec 5) (i : BitVec 6) : Statement (.addiC d i) := by
  intro _ _
  exact decode_short _ (encRI 0x07 d i) rfl (by simp) (by simp [candC])

theorem liC (d : BitVec 5) (i : BitVec 6) : Statement (.liC d i) := by
  intro _ _
  exact decode_short _ (encRI 0x08 d i) rfl (by simp) (by simp [candC])

theorem shlC (d : BitVec 5) (i : BitVec 6) : Statement (.shlC d i) := by
  intro _ _
  exact decode_short _ (encRI 0x09 d i) rfl (by simp) (by simp [candC])

theorem shrC (d : BitVec 5) (i : BitVec 6) : Statement (.shrC d i) := by
  intro _ _
  exact decode_short _ (encRI 0x0A d i) rfl (by simp) (by simp [candC])

theorem sraC (d : BitVec 5) (i : BitVec 6) : Statement (.sraC d i) := by
  intro _ _
  exact decode_short _ (encRI 0x0B d i) rfl (by simp) (by simp [candC])

theorem ldDC (d : BitVec 5) (a : BitVec 3) (i : BitVec 3) : Statement (.ldDC d a i) := by
  intro _ _
  exact decode_short _ (encCM 0x0C d a i) rfl (by simp) (by simp [candC])

theorem stDC (d : BitVec 5) (a : BitVec 3) (i : BitVec 3) : Statement (.stDC d a i) := by
  intro _ _
  exact decode_short _ (encCM 0x0D d a i) rfl (by simp) (by simp [candC])

theorem brC (i : BitVec 11) : Statement (.brC i) := by
  intro _ _
  exact decode_short _ (encCJ i) rfl (by simp) (by simp [candC])

theorem brcNzC (a : BitVec 5) (i : BitVec 6) : Statement (.brcNzC a i) := by
  intro _ _
  exact decode_short _ (encRI 0x0F a i) rfl (by simp) (by simp [candC])

theorem brcZC (a : BitVec 5) (i : BitVec 6) : Statement (.brcZC a i) := by
  intro _ _
  exact decode_short _ (encRI 0x10 a i) rfl (by simp) (by simp [candC])

theorem nopC : Statement (.nopC) := by
  intro _ _
  exact decode_short _ (encCZ 0) rfl (by simp) (by simp [candC])

theorem retC : Statement (.retC) := by
  intro _ _
  exact decode_short _ (encCZ 1) rfl (by simp) (by simp [candC])

theorem endtC : Statement (.endtC) := by
  intro _ _
  exact decode_short _ (encCZ 2) rfl (by simp) (by simp [candC])

theorem packageReset (sigOk : Bool) (counter : Nat) : Statement (.packageReset sigOk counter) := fun h => absurd rfl h
theorem packagePowerLimit : Statement (.packagePowerLimit) := fun h => absurd rfl h
theorem timingReplay (e : EId) : Statement (.timingReplay e) := fun h => absurd rfl h
theorem create (r : CreateReq) : Statement (.create r) := fun h => absurd rfl h
theorem destroy (ctx : Nat) : Statement (.destroy ctx) := fun h => absurd rfl h
theorem sched (ctx : Nat) (share : Nat) (prio : BitVec 7) : Statement (.sched ctx share prio) := fun h => absurd rfl h
theorem ident : Statement (.ident) := fun h => absurd rfl h
theorem doorbell (ctx : Nat) (v : Word) : Statement (.doorbell ctx v) := fun h => absurd rfl h
theorem hqctl (ctx : Nat) (v : Word) : Statement (.hqctl ctx v) := fun h => absurd rfl h
theorem cqctl (ctx : Nat) (v : Word) : Statement (.cqctl ctx v) := fun h => absurd rfl h
theorem launchWindowWrite (ctx : Nat) (off : Nat) (v : Word) : Statement (.launchWindowWrite ctx off v) := fun h => absurd rfl h
theorem launch (ctx : Nat) : Statement (.launch ctx) := fun h => absurd rfl h
theorem loadChunk (ctx : Nat) (e : EId) : Statement (.loadChunk ctx e) := fun h => absurd rfl h
theorem loadComplete (ctx : Nat) (e : EId) : Statement (.loadComplete ctx e) := fun h => absurd rfl h
theorem postLaunch (ctx : Nat) : Statement (.postLaunch ctx) := fun h => absurd rfl h
theorem launchComplete (ctx : Nat) : Statement (.launchComplete ctx) := fun h => absurd rfl h
theorem work (ctx : Nat) : Statement (.work ctx) := fun h => absurd rfl h
theorem frame (ctx : Nat) : Statement (.frame ctx) := fun h => absurd rfl h
theorem reset (ctx : Nat) : Statement (.reset ctx) := fun h => absurd rfl h
theorem functionReset (ctx : Nat) : Statement (.functionReset ctx) := fun h => absurd rfl h
theorem xfer (ctx : Nat) : Statement (.xfer ctx) := fun h => absurd rfl h
theorem xferComplete (x : XferEnd) : Statement (.xferComplete x) := fun h => absurd rfl h
theorem scaleOutFlit (port : BitVec 4) (flit : List Byte) : Statement (.scaleOutFlit port flit) := fun h => absurd rfl h
theorem completionPublish (ctx : Nat) : Statement (.completionPublish ctx) := fun h => absurd rfl h
theorem activationStart (e : EId) : Statement (.activationStart e) := fun h => absurd rfl h
theorem continuationTime (e : EId) (q : BitVec 4) : Statement (.continuationTime e q) := fun h => absurd rfl h
theorem watchdog (e : EId) : Statement (.watchdog e) := fun h => absurd rfl h
theorem messageAccept (k : Nat) : Statement (.messageAccept k) := fun h => absurd rfl h
theorem bulkMessageAccept (k : Nat) : Statement (.bulkMessageAccept k) := fun h => absurd rfl h
theorem undeliverableNotice (k : Nat) : Statement (.undeliverableNotice k) := fun h => absurd rfl h
theorem noticeDeliver (e : EId) : Statement (.noticeDeliver e) := fun h => absurd rfl h
theorem allowanceReturn (k : Nat) : Statement (.allowanceReturn k) := fun h => absurd rfl h
theorem workItemAccept (k : Nat) : Statement (.workItemAccept k) := fun h => absurd rfl h
theorem workItemDeliver (ctx : Nat) (die : Nat) : Statement (.workItemDeliver ctx die) := fun h => absurd rfl h
theorem hostRecordWrite (k : Nat) : Statement (.hostRecordWrite k) := fun h => absurd rfl h
theorem eventRequest (k : Nat) : Statement (.eventRequest k) := fun h => absurd rfl h
theorem eventArm (k : Nat) : Statement (.eventArm k) := fun h => absurd rfl h
theorem binItems (k : Nat) : Statement (.binItems k) := fun h => absurd rfl h
theorem remoteRead (e : EId) : Statement (.remoteRead e) := fun h => absurd rfl h
theorem remoteStore (k : Nat) : Statement (.remoteStore k) := fun h => absurd rfl h
theorem remoteAtomic (k : Nat) : Statement (.remoteAtomic k) := fun h => absurd rfl h
theorem remoteCas (k : Nat) : Statement (.remoteCas k) := fun h => absurd rfl h
theorem rcopyComplete (k : Nat) : Statement (.rcopyComplete k) := fun h => absurd rfl h
theorem barrierArrival (k : Nat) : Statement (.barrierArrival k) := fun h => absurd rfl h
theorem waveStart (ctx : Nat) (sheet : Nat) : Statement (.waveStart ctx sheet) := fun h => absurd rfl h
theorem evalDispatch (ctx : Nat) (sheet : Nat) : Statement (.evalDispatch ctx sheet) := fun h => absurd rfl h
theorem cdoneReport (k : Nat) : Statement (.cdoneReport k) := fun h => absurd rfl h
theorem waveCommit (ctx : Nat) (sheet : Nat) : Statement (.waveCommit ctx sheet) := fun h => absurd rfl h
theorem waveAbandon (ctx : Nat) (sheet : Nat) : Statement (.waveAbandon ctx sheet) := fun h => absurd rfl h
theorem crdServe (k : Nat) : Statement (.crdServe k) := fun h => absurd rfl h
theorem cellWriteApply (k : Nat) : Statement (.cellWriteApply k) := fun h => absurd rfl h
theorem waveNode (ctx : Nat) (sheet : Nat) : Statement (.waveNode ctx sheet) := fun h => absurd rfl h
theorem matrixCommandStart (e : EId) (seq : Nat) : Statement (.matrixCommandStart e seq) := fun h => absurd rfl h
theorem matrixStep (e : EId) (seq : Nat) (share : Nat) : Statement (.matrixStep e seq share) := fun h => absurd rfl h
theorem matrixCommandEnd (e : EId) (seq : Nat) : Statement (.matrixCommandEnd e seq) := fun h => absurd rfl h
theorem slotReleaseEffect (sorus : Nat) (slot : Nat) : Statement (.slotReleaseEffect sorus slot) := fun h => absurd rfl h
theorem tilePushAccept (k : Nat) : Statement (.tilePushAccept k) := fun h => absurd rfl h
theorem hostCompletionTimeout (e : EId) : Statement (.hostCompletionTimeout e) := fun h => absurd rfl h
theorem refreshWindow (die : Nat) (bank : Nat) : Statement (.refreshWindow die bank) := fun h => absurd rfl h
theorem frameApply (sn : Nat) : Statement (.frameApply sn) := fun h => absurd rfl h
theorem maskResolutionApply (sn : Nat) : Statement (.maskResolutionApply sn) := fun h => absurd rfl h
theorem frondComposed (leader : EId) : Statement (.frondComposed leader) := fun h => absurd rfl h
theorem gangSwitch (ctx : Nat) : Statement (.gangSwitch ctx) := fun h => absurd rfl h
theorem switchSave (ctx : Nat) : Statement (.switchSave ctx) := fun h => absurd rfl h
theorem switchResume (ctx : Nat) : Statement (.switchResume ctx) := fun h => absurd rfl h
theorem deviceFence (e : EId) : Statement (.deviceFence e) := fun h => absurd rfl h
theorem debugStop (e : EId) : Statement (.debugStop e) := fun h => absurd rfl h
theorem engineReportDeliver (ctx : Nat) : Statement (.engineReportDeliver ctx) := fun h => absurd rfl h
theorem uncorrectableDataError (site : EccSite) : Statement (.uncorrectableDataError site) := fun h => absurd rfl h
theorem traceCollectorWrite (die : Nat) : Statement (.traceCollectorWrite die) := fun h => absurd rfl h
end Sys2Proof.Laws.RoundTrip
end

