-- ==== Sys2Proof/Safety.lean ====
section
/-!
DEFINITION. What counts as a safe state and a safe step, in the terms the statements use.
-/
namespace Sys2Proof.Machine

/-- The step of a state answers a next state: the machine stops in no fault and refuses nothing. -/
def StepsOn (s : State) : Prop := ∃ t, step s = .next t

/-- Memory stands in its canonical form. -/
abbrev State.MemOk (s : State) : Prop := s.mem.wf = true

/-- The element whose instruction is executed runs the activation A. -/
abbrev State.Runs (s : State) (A : Act) : Prop := s.act = some A

/-- Executing i answers the state in which the running activation is B and everything else stands. -/
def Goes (s : State) (i : Instr) (B : Act) : Prop := exec i s = .next (s.setAct B)

/-- Executing i writes v into register d, which discards it where it cannot be written (R33), goes on n bytes further, and
changes nothing else. -/
def Writes (s : State) (A : Act) (i : Instr) (d : Reg) (v : Word) (n : Nat) : Prop := Goes s i ((A.setReg d v).adv n)

/-- Executing i takes the fault of a code at the own PC, with a fault address and an extra word, and does nothing else. -/
def Traps (s : State) (i : Instr) (code : Nat) (faddr extra : Word) : Prop :=
  exec i s = .next (s.takeFault s.cur { code := code, faddr := faddr, extra := extra })

/-- Executing i leaves, in vector register d, f(j) modulo the lane width in every active lane j and the old lane elsewhere;
the activation goes on 4 bytes further, and nothing else changes (R210). -/
def LaneResult (s : State) (A : Act) (i : Instr) (d : VReg) (k z : BitVec 3) (f : Nat → Nat) : Prop :=
  ∃ V : Vec, exec i s = .next ((s.setV d V).setAct (A.adv 4)) ∧
    ∀ j, j < lanesOf z → lane V (zWidth z.toNat) j =
      if active s k j then f j % 2 ^ zWidth z.toNat else lane (vreg s d) (zWidth z.toNat) j

/-- Executing i leaves f(j) modulo the lane width in every lane j of vector register d, and changes nothing else. -/
def WholeResult (s : State) (A : Act) (i : Instr) (d : VReg) (z : BitVec 3) (f : Nat → Nat) : Prop :=
  ∃ V : Vec, exec i s = .next ((s.setV d V).setAct (A.adv 4)) ∧
    ∀ j, j < lanesOf z → lane V (zWidth z.toNat) j = f j % 2 ^ zWidth z.toNat

/-- Executing i sets bit j of mask register d exactly where lane j is active and f(j) holds, clears every other bit, and
changes nothing else (R219). -/
def MaskResult (s : State) (A : Act) (i : Instr) (d : VReg) (k z : BitVec 3) (f : Nat → Bool) : Prop :=
  ∃ M : Word, exec i s = .next ((s.setK d.toNat M).setAct (A.adv 4)) ∧
    ∀ j, M.getLsbD j = (decide (j < lanesOf z) && (active s k j && f j))

/-- A target at which an instruction may begin: even, and within the PC range of R27 or R352. -/
def State.Fits (s : State) (t : Word) : Prop := t.toNat % 2 = 0 ∧ t.toNat + 2 ≤ s.ownSize s.cur

/-- Executing i transfers control to T with activation B, or, where T does not fit, takes code 0x04 with T (R109). -/
def Transfers (s : State) (i : Instr) (B : Act) (t : Word) : Prop :=
  (s.Fits t → Goes s i { B with pc := t }) ∧ (¬ s.Fits t → Traps s i 0x04 t 0)

/-- An access of n bytes, a power of two up to 8, to offset p of the executing element's own scratchpad through window 0 with
tag 0, which passes the checks of R158: it is aligned, every byte has the attributes, none is tag-checked or lies in the
register area, and no uncorrectable error stands there. The element leads no frond. -/
structure State.OwnAccess (s : State) (A : Act) (a : Word) (p n : Nat) (attrs : List Nat) : Prop where
  addr : a = BitVec.ofNat 64 p
  size : n = 1 ∨ n = 2 ∨ n = 4 ∨ n = 8
  inside : p + n ≤ 65536
  aligned : p % n = 0
  alone : s.frondOf s.cur = none
  permitted : ∀ j, j < n → ∀ x ∈ attrs, hasAttr (s.elem s.cur).regions.toList (p + j) x = true
  unchecked : ∀ j, j < n → hasAttr (s.elem s.cur).regions.toList (p + j) attrTC = false
  clear : ∀ j, j < n → p + j < A.wp.toNat ∨ A.wp.toNat + 256 ≤ p + j
  sound : poisonIn s (scratchKey s.cur p) n = none
  onMesh : s.cur < 16384

/-- A vector access with mask k to the own scratchpad through window n, whose word is w, at offset p with tag 0, which passes
the checks of R227: p is aligned, and every active element lies within the scratchpad, has the attribute, is not tag-checked, lies
outside the register area and holds no uncorrectable error. The element leads no frond. -/
structure State.OwnVector (s : State) (A : Act) (a : Word) (k : BitVec 3) (w : Win) (n p attr : Nat) : Prop where
  addr : a = BitVec.ofNat 64 (65536 * n + p)
  window : n < 8 ∧ winOf (vget 0 (s.elem s.cur).wcfg n) = some w
  some' : ∃ j, j < 512 / w.width ∧ active s k j = true
  start : p < 65536
  inside : ∀ j, j < 512 / w.width → active s k j = true → p + w.elem * j + w.elem ≤ 65536
  aligned : p % w.align = 0
  alone : s.frondOf s.cur = none
  permitted : ∀ j, j < 512 / w.width → active s k j = true → ∀ i, i < w.elem →
    hasAttr (s.elem s.cur).regions.toList (p + w.elem * j + i) attr = true
  unchecked : ∀ j, j < 512 / w.width → active s k j = true → ∀ i, i < w.elem →
    hasAttr (s.elem s.cur).regions.toList (p + w.elem * j + i) attrTC = false
  clear : ∀ j, j < 512 / w.width → active s k j = true → ∀ i, i < w.elem →
    p + w.elem * j + i < A.wp.toNat ∨ A.wp.toNat + 256 ≤ p + w.elem * j + i
  sound : ∀ j, j < 512 / w.width → active s k j = true → poisonIn s (scratchKey s.cur (p + w.elem * j)) w.elem = none
  onMesh : s.cur < 16384

/-- Flight k is f, and it may end now: what is ordered before it has ended, and its context is not switched out. -/
def State.Arrives (s : State) (k : Nat) (f : Flight) : Prop :=
  s.flight k = some f ∧ s.ready f = true ∧ s.moving f.ctx = true

/-- Is there a flight with this source, destination and body? -/
def State.Sent (s : State) (src : EId) (dst : Option EId) (b : Body) : Prop :=
  ∃ f, f ∈ s.fabric ∧ f.src = src ∧ f.dst = dst ∧ f.body = b

/-- A posting instruction has been issued: n units of allowance are taken, the status in d is 0, and every other register
slot, every other element, memory and its tags stand. -/
structure State.Posted (s u : State) (A B : Act) (d : Reg) (n : Nat) : Prop where
  pc : B.pc = A.pc + 4
  status : d.toNat < 40 → B.reg d = 0
  regs : ∀ r, r ≠ d → B.reg r = A.reg r
  avail : (u.elem s.cur).avail = (s.elem s.cur).avail - n
  others : ∀ e, e ≠ s.cur → u.elem e = s.elem e
  mem : u.mem = s.mem
  tags : u.tags = s.tags

/-- The value of an event and the waiters that stay, once its waiters have been taken in order (R138). -/
def settled : Word → List Waiter → Word × List Waiter
  | v, [] => (v, [])
  | v, w :: ws =>
    if condHolds w.cond v then settled (condAct w.cond v) ws
    else ((settled v ws).1, w :: (settled v ws).2)

/-- Executing i answers a next state, in which context ctx is D, and P holds of the two. -/
def State.Leaves (s : State) (i : Instr) (ctx : Nat) (P : State → Ctx → Prop) : Prop :=
  ∃ (t : State) (D : Ctx), exec i s = .next t ∧ tget t.ctxs ctx = some D ∧ P t D

/-- From s to t records have been published in a stream's ring, whose entry was st and is st' (R324–R326): where they fit before the
end of the record area and find room, and no host write fails, they stand one after another and W counts them; where the first of
them finds too little room, OVF is set and nothing of it stands. -/
def State.Publishes (s t : State) (st st' : Stream) (recs : List (List Byte)) : Prop :=
  let at' := st.w % st.ringSize
  let n := recs.flatten.length
  (at' + n ≤ st.ringSize → n ≤ s.ringFree st → s.hostErrors = [] → st.base + 64 + st.ringSize ≤ 2 ^ 64 → s.MemOk →
    st'.w = st.w + n ∧ st'.ovf = st.ovf ∧ memRead t.mem (hostKey (st.hostAt (64 + at'))) n = recs.flatten ∧
    memRead t.mem (hostKey (st.hostAt 0)) 8 = wordBytes (BitVec.ofNat 64 (st.w + n))) ∧
  (∀ bs, recs = [bs] → s.ringFree st < bs.length → t.mem = s.mem ∧ st'.w = st.w ∧ st'.ovf = true)

/-- A completion entry of a KIND, with a TAG and its doublewords 1 and 2 (R414). -/
def Completes (ws : List Word) (kind : Nat) (tag : BitVec 32) (d1 d2 : Word) : Prop :=
  fld (ws.getD 0 0) 7 0 = kind ∧ fld (ws.getD 0 0) 63 32 = tag.toNat ∧ ws.getD 1 0 = d1 ∧ ws.getD 2 0 = d2

/-- The record that context C consumes next has a KIND, and its header is as R408 asks, with FLAGS below a bound. -/
def State.Posts (s : State) (ctx : Nat) (C : Ctx) (kind flags : Nat) : Prop :=
  tget s.ctxs ctx = some C ∧ s.canConsume ctx C = true ∧ fld (C.record 0) 7 0 = kind ∧ fld (C.record 0) 31 16 = 0 ∧
  fld (C.record 0) 15 8 < flags

/-- Executing i consumes a record of context ctx and refuses it with a reason (R408, R414). -/
def State.Refuses (s : State) (i : Instr) (ctx : Nat) (C : Ctx) (reason : Word) : Prop :=
  s.Leaves i ctx (fun t D => t.mem = s.mem ∧ D.consumed = C.consumed + 1 ∧ ∃ ws, D.held = C.held ++ [ws] ∧
    Completes ws 3 (BitVec.ofNat 32 (fld (C.record 0) 63 32)) reason 0)

/-- Two states whose memory reads alike at every key. -/
def SameMem (s t : State) : Prop := ∀ k, memGet t.mem k = memGet s.mem k

/-- What an instruction of a core that only computes leaves: every other element, memory and its tags, the contexts, the
traffic, and of its own element everything but the registers of its activation, v and k. -/
def OnlyRegisters (s t : State) : Prop :=
  t.mem = s.mem ∧ t.tags = s.tags ∧ t.ctxs = s.ctxs ∧ t.fabric = s.fabric ∧ t.slots = s.slots ∧ t.streams = s.streams ∧
  t.fronds = s.fronds ∧ t.pkg = s.pkg ∧ t.time = s.time ∧ (∀ e, e ≠ s.cur → t.elem e = s.elem e) ∧
  ∃ act v k, t.elem s.cur = { s.elem s.cur with act := act, v := v, k := k }

/-- The instructions of the frame of loads. -/
def loads : Instr → Bool
  | .ld _ _ _ _ => true
  | .ldSigned _ _ _ _ => true
  | .ldDC _ _ _ => true
  | .ldx _ _ _ _ => true
  | .ldAcq _ _ _ => true
  | .ldm _ _ _ => true
  | .ltag _ _ => true
  | .rld _ _ _ => true
  | .vld _ _ _ _ => true
  | _ => false

/-- The register slots that a load writes. -/
def loadDests : Instr → List Reg
  | .ld d _ _ _ => [d]
  | .ldSigned d _ _ _ => [d]
  | .ldDC d _ _ => [c5 d]
  | .ldx d _ _ _ => [d]
  | .ldAcq d _ _ => [d]
  | .ldm d _ b => (List.range b.toNat).map (fun j => d + BitVec.ofNat 6 j)
  | .ltag d _ => [d]
  | .rld d _ _ => [d]
  | _ => []

/-- The instructions of the frame of stores. -/
def stores : Instr → Bool
  | .st _ _ _ _ => true
  | .stDC _ _ _ => true
  | .stx _ _ _ _ => true
  | .stRel _ _ _ => true
  | .stm _ _ _ => true
  | .vst _ _ _ _ => true
  | _ => false

/-- The pieces of a plan; none where the checks refuse it. -/
def planned (r : Except Flt (List Piece)) : List Piece := match r with | .ok ps => ps | .error _ => []

/-- The pieces that a store writes: those of the checks that its meaning makes, at the address that its meaning computes. -/
def storePieces (s : State) (A : Act) : Instr → List Piece
  | .st _ z a i => planned (plan s s.cur { aps := apsLoad s.cur, wr := true } (scaled (A.reg a) i (sizeOf2 z)) (sizeOf2 z))
  | .stDC _ a i => planned (plan s s.cur { aps := apsLoad s.cur, wr := true } (A.reg (c3 a) + immN i * 8) 8)
  | .stx _ a b z => match bounded A a b (sizeOf2 z) with
    | .ok ea => planned (plan s s.cur { aps := apsLocal s.cur, wr := true } ea (sizeOf2 z))
    | .error _ => []
  | .stRel _ a z => planned (plan s s.cur { aps := apsLoad s.cur, wr := true, natural := true } (A.reg a) (sizeOf2 z))
  | .stm _ a b => planned (plan s s.cur { aps := apsLocal s.cur, wr := true, natural := true, piece := 8 } (A.reg a) (8 * b.toNat))
  | .vst _ k a i => match vecPlan s s.cur k (A.reg a + immS i) true with
    | .ok (some (_, _, _, ps)) => ps
    | _ => []
  | _ => []

/-- The instructions of the matrix unit (R40). -/
def isMatrix : Instr → Bool
  | .mcfg _ _ => true
  | .mcfgGang _ => true
  | .mzero _ => true
  | .oclaim _ _ => true
  | .orelease _ => true
  | .ofill _ _ => true
  | .mma _ _ _ _ _ => true
  | .mmag _ _ _ _ _ => true
  | .mrdr _ _ _ => true
  | .mrdc _ _ _ => true
  | .mwrr _ _ _ => true
  | .mwrc _ _ _ => true
  | .mstat _ => true
  | .merr _ _ => true
  | .mlenHold => true
  | .mlenSet _ => true
  | .mflush => true
  | _ => false

/-- The register that an integer instruction writes, for those that never trap (R106–R108, R38). -/
def integerDest : Instr → Option Reg
  | .add d _ _ => some d
  | .sub d _ _ => some d
  | .mul d _ _ => some d
  | .mulh d _ _ _ => some d
  | .and d _ _ => some d
  | .or d _ _ => some d
  | .xor d _ _ => some d
  | .shl d _ _ => some d
  | .shr d _ _ => some d
  | .sra d _ _ => some d
  | .rotl d _ _ => some d
  | .min d _ _ _ => some d
  | .max d _ _ _ => some d
  | .sel d _ _ => some d
  | .addi d _ _ => some d
  | .andi d _ _ => some d
  | .ori d _ _ => some d
  | .xori d _ _ => some d
  | .shlImm d _ _ => some d
  | .shrImm d _ _ => some d
  | .sraImm d _ _ => some d
  | .rotlImm d _ _ => some d
  | .seqImm d _ _ => some d
  | .sneImm d _ _ => some d
  | .sltImm d _ _ => some d
  | .sleImm d _ _ => some d
  | .not d _ => some d
  | .clz d _ => some d
  | .ctz d _ => some d
  | .popc d _ => some d
  | .seq d _ _ => some d
  | .sne d _ _ => some d
  | .slt d _ _ _ => some d
  | .sle d _ _ _ => some d
  | .li d _ => some d
  | .lih d _ => some d
  | .movC d _ => some (c5 d)
  | .addC d _ => some (c5 d)
  | .subC d _ => some (c5 d)
  | .andC d _ => some (c5 d)
  | .orC d _ => some (c5 d)
  | .xorC d _ => some (c5 d)
  | .addiC d _ => some (c5 d)
  | .liC d _ => some (c5 d)
  | .shlC d _ => some (c5 d)
  | .shrC d _ => some (c5 d)
  | .sraC d _ => some (c5 d)
  | _ => none

end Sys2Proof.Machine
end

