-- ==== Sys2Proof/Certificates/Slice0/Obligations.lean ====
section
/-!
DEFINITION. The statements for the provers.
-/
open Sys2Proof Sys2Proof.Machine

/-! ### Reset, decoding and the step -/

/-- After a package reset (R25): no context, every element idle with no channel bound and no message pending, an identity
remap table, empty sheet engines, event and stream tables, and the host mailbox not yet enabled; and the reset values that
R103, R104, R124, R149, R150, R152 and R382 give for TIME, WDLIM, ALLOW, WCFG0–WCFG7, the regions and COMBO. That no memory is
listed, host memory with it, is the model's choice (log 5), and so is that every position passes its test (log 63). -/
def Obligations.ResetState : Prop :=
  State.reset.ctxs = [] ∧ State.reset.fabric = [] ∧ State.reset.streams = [] ∧ State.reset.pkg.remap = [] ∧
  State.reset.pkg.mailbox = false ∧ State.reset.time = 0 ∧ State.reset.mem = [] ∧ State.reset.MemOk ∧
  ∀ e, (State.reset.elem e).act = none ∧ (State.reset.elem e).mode = .normal ∧
    (∀ q, q < 16 → (vget Chan.reset (State.reset.elem e).chans q).bind = none ∧
      (vget Chan.reset (State.reset.elem e).chans q).cont = none ∧ (vget Chan.reset (State.reset.elem e).chans q).queue = []) ∧
    (State.reset.elem e).wdlim = 0x00100000#32 ∧ (State.reset.elem e).allow = 16 ∧
    (∀ n, n < 8 → vget 0 (State.reset.elem e).wcfg n = 0x100000#64) ∧
    (∀ n, n < 8 → vget 0 (State.reset.elem e).regions n = 0) ∧ (State.reset.elem e).combo = 0

/-- Words written out bit by bit from the encodings of the spec decode to the instruction they stand for; reserved and
unassigned encodings are refused by the reason of R46. -/
def Obligations.DecodedWords : Prop :=
  -- ADD w3, w1, w2: major 000000, d 000011, f 0000, 11, a 000001, b 000010, z 00
  decode32 0b00000000001100001100000100001000#32 = .ok (.add 3 1 2) ∧
  -- LIH w2, 0xBEEF, the example under R108
  decode32 0x082EFEEF#32 = .ok (.lih 2 0xBEEF#16) ∧
  -- MKA.abs w5, w6, w7, the example under R114
  decode32 0x105CC61C#32 = .ok (.mka 5 6 7 0) ∧
  -- C-RR op 00010: ADD w1, w2 in two bytes
  decode 0b0001000001000100#16 0 = .ok (.addC 1 2) ∧
  -- major 0x18 is unassigned, and function 14 of major 0x04 is
  decode32 0x6000C000#32 = .error 1 ∧ decode32 0x100EC000#32 = .error 2 ∧
  -- a read of register slot 50 is refused by reason 0x04
  decode32 0b00000000001100001111001000001000#32 = .error 4

/-- Every well-formed instruction decodes back from its encoding, with every operand at every value (R26, R30, R37, R41). -/
def Obligations.RoundTrip : Prop := ∀ i : Instr, Laws.RoundTrip.Statement i

/-- The decoder answers an instruction only for the very bits that the encoder gives it, and only a well-formed one: no two
words of one length mean the same instruction, and no bit of a word is dropped (R30, R46, R47). -/
def Obligations.DecodedBits : Prop :=
  ∀ (h h2 : Half) (i : Instr), decode h h2 = .ok i →
    (isLong h = true → encode i = [h, h2] ∧ wfReason i = 0) ∧ (isLong h = false → encode i = [h])

/-- A step runs the decoded instruction: when the next turn is that of element e, which may issue, runs an activation A
short of its watchdog limit, and the bytes at A's PC decode to i, the step is `exec i` with e as the executing element, its
count begun and i noted as issued, then what follows an instruction (a stop after a single step, a gang switch), then the trace
records of what changed and the clock. An element that stalls executes the instruction that waits, with no fetch. Which element
moves, and that a step is one move and then the clock, is the model's choice (logs 1 and 2). -/
def Obligations.StepRunsDecoded : Prop :=
  ∀ (s t : State) (e : EId) (A : Act) (i : Instr) (ts : List Turn),
    let s0 : State := { s with turns := ts, cur := e }
    s.turns = .core e :: ts → (s.elem e).act = some A → s0.mayIssue e = true →
    ((s.elem e).stalled = false ∧ s0.watchdogDue e A = false ∧ fetch s0 e A.pc.toNat = .ok i ∨
      (s.elem e).stalled = true ∧ (s.elem e).insn = some i) →
    exec i (s0.issue e A i) = .next t →
    step s = .next ((t.afterInstr e).traceChanges.tick s.stepNo)

/-- A fetch that fails (an odd PC or one beyond the window, no EX, an uncorrectable error, an illegal encoding) makes the step
take that fault at the element, and no instruction is executed (R27, R47, R153, R157). Code 0x04 comes first, for a second halfword
beyond the range too (the length is read from the first whether or not it may be fetched: log 23), then the region fault. An event of the device makes its move
alone: the step is `exec` of the event, then the trace records and the clock; that is the model's choice (logs 1 and 2). -/
def Obligations.StepOtherwise : Prop :=
  (∀ (s : State) (e : EId) (A : Act) (f : Flt) (ts : List Turn),
      let s0 : State := { s with turns := ts, cur := e }
      s.turns = .core e :: ts → (s.elem e).act = some A → s0.mayIssue e = true → (s.elem e).stalled = false →
      s0.watchdogDue e A = false → fetch s0 e A.pc.toNat = .error f →
      step s = .next (((s0.begin e A).takeFault e f).traceChanges.tick s.stepNo)) ∧
  (∀ (s : State) (e : EId) (pc : Nat),
      let out := fun p : Nat => p % 2 = 1 ∨ s.ownSize e < p + 2
      let bad := fun p : Nat => fetch s e pc = .error { code := 0x04, faddr := BitVec.ofNat 64 p, extra := 0 }
      (out pc → bad pc) ∧
      (¬ out pc → out (pc + 2) → s.poison = [] → fld ((s.fetched e pc).setWidth 64) 15 14 = 3 → bad (pc + 2)) ∧
      (¬ out pc → (¬ out (pc + 2) ∨ fld ((s.fetched e pc).setWidth 64) 15 14 ≠ 3) →
        ∀ i, i < 2 → hasAttr (s.regionsOf e) (pc + i) attrEX = false → (i = 1 → hasAttr (s.regionsOf e) pc attrEX = true) →
          pc + i < s.ownSize e → ∃ f, fetch s e pc = .error f ∧ f.code = 0x14 ∧ f.faddr = BitVec.ofNat 64 (pc + i))) ∧
  (∀ (s t : State) (i : Instr) (ts : List Turn), s.turns = .event i :: ts → encode i = [] →
      exec i { s with turns := ts } = .next t → step s = .next (t.traceChanges.tick s.stepNo))

/-! ### Integer instructions (R106–R108, R38) -/

/-- R106: the sixteen functions of major 0x00 on the values x and y of a and b, every result modulo 2^64; DIV and REM by
zero take code 0x05 with the dividend in the extra word. Nothing else changes. -/
def Obligations.IntegerRegisters : Prop :=
  ∀ (s : State) (A : Act) (d a b : Reg), s.Runs A →
    let x := A.reg a
    let y := A.reg b
    let k := y.toNat % 64
    Writes s A (.add d a b) d (BitVec.ofNat 64 (x.toNat + y.toNat)) 4 ∧
    Writes s A (.sub d a b) d (BitVec.ofInt 64 (x.toInt - y.toInt)) 4 ∧
    Writes s A (.mul d a b) d (BitVec.ofNat 64 (x.toNat * y.toNat)) 4 ∧
    Writes s A (.mulh d a b false) d (BitVec.ofInt 64 (x.toInt * y.toInt / (2 : Int) ^ 64)) 4 ∧
    Writes s A (.mulh d a b true) d (BitVec.ofNat 64 (x.toNat * y.toNat / 2 ^ 64)) 4 ∧
    (y ≠ 0 → Writes s A (.div d a b false) d (BitVec.ofInt 64 (Int.tdiv x.toInt y.toInt)) 4 ∧
      Writes s A (.div d a b true) d (BitVec.ofNat 64 (x.toNat / y.toNat)) 4 ∧
      Writes s A (.rem d a b false) d (BitVec.ofInt 64 (x.toInt - y.toInt * Int.tdiv x.toInt y.toInt)) 4 ∧
      Writes s A (.rem d a b true) d (BitVec.ofNat 64 (x.toNat - y.toNat * (x.toNat / y.toNat))) 4) ∧
    (y = 0 → ∀ n, Traps s (.div d a b n) 0x05 0 x ∧ Traps s (.rem d a b n) 0x05 0 x) ∧
    (∃ v, Writes s A (.and d a b) d v 4 ∧ ∀ j, v.getLsbD j = (x.getLsbD j && y.getLsbD j)) ∧
    (∃ v, Writes s A (.or d a b) d v 4 ∧ ∀ j, v.getLsbD j = (x.getLsbD j || y.getLsbD j)) ∧
    (∃ v, Writes s A (.xor d a b) d v 4 ∧ ∀ j, v.getLsbD j = (x.getLsbD j ^^ y.getLsbD j)) ∧
    Writes s A (.shl d a b) d (BitVec.ofNat 64 (x.toNat * 2 ^ k)) 4 ∧
    Writes s A (.shr d a b) d (BitVec.ofNat 64 (x.toNat / 2 ^ k)) 4 ∧
    Writes s A (.sra d a b) d (BitVec.ofInt 64 (x.toInt / ((2 ^ k : Nat) : Int))) 4 ∧
    (∃ v, Writes s A (.rotl d a b) d v 4 ∧ ∀ j, j < 64 → v.getLsbD ((j + k) % 64) = x.getLsbD j) ∧
    (∃ v : Word, Writes s A (.min d a b false) d v 4 ∧ v.toInt = min x.toInt y.toInt) ∧
    (∃ v : Word, Writes s A (.min d a b true) d v 4 ∧ v.toNat = min x.toNat y.toNat) ∧
    (∃ v : Word, Writes s A (.max d a b false) d v 4 ∧ v.toInt = max x.toInt y.toInt) ∧
    (∃ v : Word, Writes s A (.max d a b true) d v 4 ∧ v.toNat = max x.toNat y.toNat) ∧
    (A.reg d ≠ 0 → Writes s A (.sel d a b) d x 4) ∧ (A.reg d = 0 → Writes s A (.sel d a b) d y 4)

/-- R107: the immediate forms of major 0x01. -/
def Obligations.IntegerImmediates : Prop :=
  ∀ (s : State) (A : Act) (d a : Reg) (i : BitVec 8) (n : BitVec 6), s.Runs A →
    let x := A.reg a
    let c := i.toInt
    let k := n.toNat
    Writes s A (.addi d a i) d (BitVec.ofInt 64 (x.toInt + c)) 4 ∧
    Writes s A (.andi d a i) d (x &&& BitVec.ofInt 64 c) 4 ∧
    Writes s A (.ori d a i) d (x ||| BitVec.ofInt 64 c) 4 ∧
    Writes s A (.xori d a i) d (x ^^^ BitVec.ofInt 64 c) 4 ∧
    Writes s A (.shlImm d a n) d (BitVec.ofNat 64 (x.toNat * 2 ^ k)) 4 ∧
    Writes s A (.shrImm d a n) d (BitVec.ofNat 64 (x.toNat / 2 ^ k)) 4 ∧
    Writes s A (.sraImm d a n) d (BitVec.ofInt 64 (x.toInt / ((2 ^ k : Nat) : Int))) 4 ∧
    (∃ v, Writes s A (.rotlImm d a n) d v 4 ∧ ∀ j, j < 64 → v.getLsbD ((j + k) % 64) = x.getLsbD j) ∧
    Writes s A (.seqImm d a i) d (if x.toInt = c then 1 else 0) 4 ∧
    Writes s A (.sneImm d a i) d (if x.toInt = c then 0 else 1) 4 ∧
    Writes s A (.sltImm d a i) d (if x.toInt < c then 1 else 0) 4 ∧
    Writes s A (.sleImm d a i) d (if x.toInt ≤ c then 1 else 0) 4

/-- R108: NOT, the bit counts, the comparisons as i64 and n64, LI and LIH. -/
def Obligations.UnaryCompareLoadImmediate : Prop :=
  ∀ (s : State) (A : Act) (d a b : Reg) (i : BitVec 16), s.Runs A →
    let x := A.reg a
    let y := A.reg b
    (∃ v, Writes s A (.not d a) d v 4 ∧ ∀ j, j < 64 → v.getLsbD j = !x.getLsbD j) ∧
    (∃ n, n ≤ 64 ∧ Writes s A (.clz d a) d (BitVec.ofNat 64 n) 4 ∧
      (∀ j, j < n → x.getLsbD (63 - j) = false) ∧ (n < 64 → x.getLsbD (63 - n) = true)) ∧
    (∃ n, n ≤ 64 ∧ Writes s A (.ctz d a) d (BitVec.ofNat 64 n) 4 ∧
      (∀ j, j < n → x.getLsbD j = false) ∧ (n < 64 → x.getLsbD n = true)) ∧
    Writes s A (.popc d a) d (BitVec.ofNat 64 ((List.range 64).map (fun j => x.toNat / 2 ^ j % 2)).sum) 4 ∧
    Writes s A (.seq d a b) d (if x = y then 1 else 0) 4 ∧
    Writes s A (.sne d a b) d (if x = y then 0 else 1) 4 ∧
    Writes s A (.slt d a b false) d (if x.toInt < y.toInt then 1 else 0) 4 ∧
    Writes s A (.slt d a b true) d (if x.toNat < y.toNat then 1 else 0) 4 ∧
    Writes s A (.sle d a b false) d (if x.toInt ≤ y.toInt then 1 else 0) 4 ∧
    Writes s A (.sle d a b true) d (if x.toNat ≤ y.toNat then 1 else 0) 4 ∧
    Writes s A (.li d i) d (BitVec.ofInt 64 i.toInt) 4 ∧
    Writes s A (.lih d i) d (BitVec.ofNat 64 ((A.reg d).toNat * 2 ^ 16 + i.toNat)) 4

/-- The compact integer forms write w0–w31 with the result of the full form on the same registers, two bytes further (R38). -/
def Obligations.CompactIntegers : Prop :=
  ∀ (s : State) (A : Act) (d a : BitVec 5) (i : BitVec 6), s.Runs A →
    let r : Reg := BitVec.ofNat 6 d.toNat
    let x := A.reg r
    let y := A.reg (BitVec.ofNat 6 a.toNat)
    Writes s A (.movC d a) r y 2 ∧
    Writes s A (.addC d a) r (BitVec.ofNat 64 (x.toNat + y.toNat)) 2 ∧
    Writes s A (.subC d a) r (BitVec.ofInt 64 (x.toInt - y.toInt)) 2 ∧
    Writes s A (.andC d a) r (x &&& y) 2 ∧ Writes s A (.orC d a) r (x ||| y) 2 ∧ Writes s A (.xorC d a) r (x ^^^ y) 2 ∧
    Writes s A (.addiC d i) r (BitVec.ofInt 64 (x.toInt + i.toInt)) 2 ∧
    Writes s A (.liC d i) r (BitVec.ofInt 64 i.toInt) 2 ∧
    Writes s A (.shlC d i) r (BitVec.ofNat 64 (x.toNat * 2 ^ i.toNat)) 2 ∧
    Writes s A (.shrC d i) r (BitVec.ofNat 64 (x.toNat / 2 ^ i.toNat)) 2 ∧
    Writes s A (.sraC d i) r (BitVec.ofInt 64 (x.toInt / ((2 ^ i.toNat : Nat) : Int))) 2

/-- A write to a register slot: w0–w31 and mb0–mb7 hold the value and every other slot stands, a dead register that is written
is dead no more, and zr and the read-only slots discard the value with nothing else changed (R33, R93). THE FRAME of the
instructions that write one register: add, sub, mul, mulh, and, or, xor, the shifts, min, max, sel, their immediate and
compact forms, not, clz, ctz, popc, the comparisons, li and lih; and of div and rem where the divisor is not zero. Every
register slot but the destination d stands, and so does everything outside the registers of the activation. -/
def Obligations.RegistersAndFrame : Prop :=
  (∀ (A : Act) (r : Reg) (x : Word),
      (r.toNat < 40 → (A.setReg r x).reg r = x) ∧
      (r.toNat < 32 → (A.setReg r x).dead.getLsbD r.toNat = false) ∧
      (40 ≤ r.toNat → A.setReg r x = A) ∧
      (∀ r', r' ≠ r → (A.setReg r x).reg r' = A.reg r') ∧
      (48 ≤ r.toNat → A.reg r = 0) ∧
      (r.toNat < 32 → A.dead.getLsbD r.toNat = true → A.reg r = 0)) ∧
  (∀ (s t : State) (A : Act) (d : Reg) (i : Instr), s.Runs A →
      (integerDest i = some d ∨ ∃ a b n, (i = .div d a b n ∨ i = .rem d a b n) ∧ A.reg b ≠ 0) →
      exec i s = .next t →
      OnlyRegisters s t ∧ (t.elem s.cur).v = (s.elem s.cur).v ∧ (t.elem s.cur).k = (s.elem s.cur).k ∧
      ∃ B, t.act = some B ∧ (∀ r, r ≠ d → B.reg r = A.reg r) ∧ B.wp = A.wp ∧ B.digest = A.digest ∧ B.chan = A.chan ∧
        B.prio = A.prio ∧ B.msg = A.msg)

/-! ### Vector instructions (R210–R227) -/

/-- R218, for the floating lane types z 0–3: each active lane takes the rounded exact result, under nearest-even and once for
a fused form; FMIN and FMAX give NaN where an operand is NaN and order −0 below +0; FABS, FNEG and FCPS act on bit w − 1 alone.
Nothing else changes. -/
def Obligations.FloatLanes : Prop :=
  ∀ (s : State) (A : Act) (d : VReg) (k z : BitVec 3) (a b c : VReg), s.Runs A → z.toNat ≤ 3 →
    let F := zFmt z.toNat
    let w := zWidth z.toNat
    let x := fun j => lane (vreg s a) w j
    let y := fun j => lane (vreg s b) w j
    let X := fun j => F.decode (x j)
    let Y := fun j => F.decode (y j)
    let W := fun j => F.decode (lane (vreg s c) w j)
    LaneResult s A (.fadd d k z a b) d k z (fun j => F.round ((X j).add (Y j))) ∧
    LaneResult s A (.fsub d k z a b) d k z (fun j => F.round ((X j).add (Y j).neg)) ∧
    LaneResult s A (.fmul d k z a b) d k z (fun j => F.round ((X j).mul (Y j))) ∧
    LaneResult s A (.fma d k z a b c) d k z (fun j => F.round (((X j).mul (Y j)).add (W j))) ∧
    LaneResult s A (.fms d k z a b c) d k z (fun j => F.round (((X j).mul (Y j)).add (W j).neg)) ∧
    LaneResult s A (.fnma d k z a b c) d k z (fun j => F.round (((X j).mul (Y j)).neg.add (W j))) ∧
    (∃ f, LaneResult s A (.fmin d k z a b) d k z f ∧ ∀ j,
      ((X j).isNan || (Y j).isNan) = true ∧ f j = F.nanCode ∨
      ∃ o, (X j).ord (Y j) = some o ∧ f j = if o ≤ 0 then x j else y j) ∧
    (∃ f, LaneResult s A (.fmax d k z a b) d k z f ∧ ∀ j,
      ((X j).isNan || (Y j).isNan) = true ∧ f j = F.nanCode ∨
      ∃ o, (X j).ord (Y j) = some o ∧ f j = if 0 ≤ o then x j else y j) ∧
    LaneResult s A (.fabs d k z a) d k z (fun j => x j % 2 ^ (w - 1)) ∧
    LaneResult s A (.fneg d k z a) d k z (fun j => x j ^^^ 2 ^ (w - 1)) ∧
    LaneResult s A (.fcps d k z a b) d k z (fun j => x j % 2 ^ (w - 1) + y j / 2 ^ (w - 1) * 2 ^ (w - 1)) ∧
    LaneResult s A (.fclass d k z a) d k z (fun j => fclass F (x j))

/-- FCMP and VCMP write a mask register: bit j is set where lane j is active and the condition holds, every other bit is
cleared; .eq, .lt and .le are false and .un is true where a lane is NaN (R219, R221). -/
def Obligations.VectorCompares : Prop :=
  ∀ (s : State) (A : Act) (d : VReg) (k z : BitVec 3) (a b : VReg), s.Runs A → d.toNat ≤ 7 →
    let F := zFmt z.toNat
    let w := zWidth z.toNat
    let x := fun j => lane (vreg s a) w j
    let y := fun j => lane (vreg s b) w j
    let r := fun j => (F.decode (x j)).cmp (F.decode (y j))
    (z.toNat ≤ 3 →
      MaskResult s A (.fcmp d k z a b 0) d k z (fun j => match r j with | some c => decide (c = 0) | none => false) ∧
      MaskResult s A (.fcmp d k z a b 1) d k z (fun j => match r j with | some c => decide (c < 0) | none => false) ∧
      MaskResult s A (.fcmp d k z a b 2) d k z (fun j => match r j with | some c => decide (c ≤ 0) | none => false) ∧
      MaskResult s A (.fcmp d k z a b 3) d k z (fun j => match r j with | some _ => false | none => true)) ∧
    (4 ≤ z.toNat →
      MaskResult s A (.vcmp d k z a b 0) d k z (fun j => decide (x j = y j)) ∧
      MaskResult s A (.vcmp d k z a b 1) d k z (fun j => decide (x j ≠ y j)) ∧
      MaskResult s A (.vcmp d k z a b 2) d k z (fun j => decide (sextNat (x j) w < sextNat (y j) w)) ∧
      MaskResult s A (.vcmp d k z a b 3) d k z (fun j => decide (sextNat (x j) w ≤ sextNat (y j) w)) ∧
      MaskResult s A (.vcmp d k z a b 4) d k z (fun j => decide (x j < y j)) ∧
      MaskResult s A (.vcmp d k z a b 5) d k z (fun j => decide (x j ≤ y j)))

/-- R221, for the integer lane types z 4–7, every result modulo the lane width. -/
def Obligations.IntegerLanes : Prop :=
  ∀ (s : State) (A : Act) (d : VReg) (k z : BitVec 3) (a b c : VReg), s.Runs A → 4 ≤ z.toNat →
    let w := zWidth z.toNat
    let x := fun j => lane (vreg s a) w j
    let y := fun j => lane (vreg s b) w j
    let S := fun v => sextNat v w
    LaneResult s A (.vadd d k z a b) d k z (fun j => x j + y j) ∧
    LaneResult s A (.vsub d k z a b) d k z (fun j => (((x j : Int) - y j) % (2 ^ w : Nat)).toNat) ∧
    LaneResult s A (.vmul d k z a b) d k z (fun j => x j * y j) ∧
    LaneResult s A (.vand d k z a b) d k z (fun j => x j &&& y j) ∧
    LaneResult s A (.vor d k z a b) d k z (fun j => x j ||| y j) ∧
    LaneResult s A (.vxor d k z a b) d k z (fun j => x j ^^^ y j) ∧
    LaneResult s A (.vshl d k z a b) d k z (fun j => x j <<< (y j % w)) ∧
    LaneResult s A (.vshr d k z a b) d k z (fun j => x j >>> (y j % w)) ∧
    LaneResult s A (.vsra d k z a b) d k z (fun j => (S (x j) / ((2 ^ (y j % w) : Nat) : Int) % (2 ^ w : Nat)).toNat) ∧
    LaneResult s A (.vsel d k z a b) d k z (fun j => if lane (vreg s d) w j = 0 then y j else x j) ∧
    (∃ f, LaneResult s A (.vminI d k z a b) d k z f ∧ ∀ j, S (f j) = min (S (x j)) (S (y j))) ∧
    LaneResult s A (.vminN d k z a b) d k z (fun j => min (x j) (y j)) ∧
    (∃ f, LaneResult s A (.vmaxI d k z a b) d k z f ∧ ∀ j, S (f j) = max (S (x j)) (S (y j))) ∧
    LaneResult s A (.vmaxN d k z a b) d k z (fun j => max (x j) (y j)) ∧
    LaneResult s A (.vmad d k z a b c) d k z (fun j => x j * y j + lane (vreg s c) w j)

/-- VBCAST, VPERM and the mask instructions (R222): every lane of a is read by VPERM, whatever the mask; KMOV moves between
mask registers and w registers. -/
def Obligations.PermuteAndMasks : Prop :=
  ∀ (s : State) (A : Act) (d : VReg) (k z : BitVec 3) (a b : VReg), s.Runs A →
    let w := zWidth z.toNat
    LaneResult s A (.vbcast d k z a) d k z (fun _ => (A.reg (BitVec.ofNat 6 a.toNat)).toNat) ∧
    LaneResult s A (.vperm d k z a b) d k z (fun j => lane (vreg s a) w (lane (vreg s b) w j % (512 / w))) ∧
    exec (.kand d a b) s = .next ((s.setK d.toNat (kreg s a.toNat &&& kreg s b.toNat)).setAct (A.adv 4)) ∧
    exec (.kor d a b) s = .next ((s.setK d.toNat (kreg s a.toNat ||| kreg s b.toNat)).setAct (A.adv 4)) ∧
    exec (.knot d a) s = .next ((s.setK d.toNat (~~~kreg s a.toNat)).setAct (A.adv 4)) ∧
    exec (.kmov d a 0) s = .next ((s.setK d.toNat (kreg s a.toNat)).setAct (A.adv 4)) ∧
    exec (.kmov d a 1) s = .next ((s.setK d.toNat (A.reg (BitVec.ofNat 6 a.toNat))).setAct (A.adv 4)) ∧
    Writes s A (.kmov d a 2) (BitVec.ofNat 6 d.toNat) (kreg s a.toNat) 4

/-- VRED writes the tree result of R211 to lane 0 and zero elsewhere; VSCAN writes each left-to-right prefix (R212, R224);
VMAXI writes the largest active lane and the number of the lowest lane that holds it, a NaN winning over every number, and
with no active lane the identity and all ones (R223). -/
def Obligations.Reductions : Prop :=
  ∀ (s : State) (A : Act) (d : VReg) (k z : BitVec 3) (a : VReg) (o : BitVec 4), s.Runs A → redOk z o = true →
    let F := zFmt z.toNat
    let w := zWidth z.toNat
    let L := lanesOf z
    let x := fun j => lane (vreg s a) w j
    let e := fun j => if active s k j then x j else redIdent F o.toNat
    WholeResult s A (.vred d k z a o) d z (fun j =>
      if j = 0 then (treeRed (redOp F o.toNat) (lg L) ((List.range L).map e)).getD 0 0 else 0) ∧
    WholeResult s A (.vscan d k z a o) d z (fun j =>
      if j = 0 then canonLane F (e 0) else (((List.range L).map e).drop 1 |>.take j).foldl (redOp F o.toNat) (e 0)) ∧
    (∃ f, WholeResult s A (.vmaxi d k z a) d z f ∧ (∀ j, 2 ≤ j → j < L → f j = 0) ∧
      ((∀ j, j < L → active s k j = false) → f 0 = redIdent F 2 ∧ f 1 = 2 ^ w - 1) ∧
      ((∃ j, j < L ∧ active s k j = true) → ∃ m, m < L ∧ active s k m = true ∧ f 1 = m ∧
        ((F.decode (x m)).isNan = true ∧ f 0 = F.nanCode ∧
            (∀ j, j < m → active s k j = true → (F.decode (x j)).isNan = false) ∨
          f 0 = x m ∧ ∀ j, j < L → active s k j = true → (F.decode (x j)).isNan = false ∧
            laneGt F (x j) (x m) = false ∧ (j < m → laneGt F (x m) (x j) = true)))) ∧
    (4 ≤ z.toNat → ∃ f, WholeResult s A (.vmaxiN d k z a) d z f ∧ (∀ j, 2 ≤ j → j < L → f j = 0) ∧
      ((∀ j, j < L → active s k j = false) → f 0 = 0 ∧ f 1 = 2 ^ w - 1) ∧
      ((∃ j, j < L ∧ active s k j = true) → ∃ m, m < L ∧ active s k m = true ∧ f 1 = m ∧ f 0 = x m ∧
        ∀ j, j < L → active s k j = true → x j ≤ x m ∧ (j < m → x j < x m)))

/-- FCVT, FRND, FSEED, FRED, FSCALE, FEXPO and FMANT give each active lane the value of R213–R215, R225 and R226; FCVT's
lanes beyond those of the source type are zero. -/
def Obligations.ConversionsAndHelpers : Prop :=
  ∀ (s : State) (A : Act) (d : VReg) (k z : BitVec 3) (a b : VReg), s.Runs A →
    let F := zFmt z.toNat
    let w := zWidth z.toNat
    let x := fun j => lane (vreg s a) w j
    (∀ src : BitVec 3, LaneResult s A (.fcvt d k z a (0#1 ++ src)) d k z (fun j =>
      let G := zFmt src.toNat
      if j < 512 / G.bits then F.round (G.decode (lane (vreg s a) G.bits j)) 0 else 0)) ∧
    (∀ src : BitVec 3, LaneResult s A (.fcvt d k z a (1#1 ++ src)) d k z (fun j =>
      let G := zFmt src.toNat
      if j < 512 / G.bits then F.round (G.decode (lane (vreg s a) G.bits j)) 1 else 0)) ∧
    (z.toNat ≤ 3 → b.toNat ≤ 3 → LaneResult s A (.frnd d k z a b) d k z (fun j => F.round ((F.decode (x j)).integral b.toNat))) ∧
    (z.toNat ≤ 1 → LaneResult s A (.fseed d k z a 0) d k z (fun j => F.round (seedRcp (F.decode (x j)))) ∧
      LaneResult s A (.fseed d k z a 1) d k z (fun j => F.round (seedRsq (F.decode (x j))))) ∧
    (z.toNat ≤ 1 → b.toNat ≤ 5 →
      LaneResult s A (.fred d k z a b) d k z (fun j => fred F b.toNat (x j) (lane (vreg s d) w j))) ∧
    (z.toNat ≤ 3 → LaneResult s A (.fscale d k z a b) d k z (fun j => fscale F (x j) (lane (vreg s b) w j)) ∧
      LaneResult s A (.fexpo d k z a) d k z (fun j => fexpo F (x j)) ∧
      LaneResult s A (.fmant d k z a) d k z (fun j => fmant F (x j)))

/-- VLD and VST (R150, R208, R210, R227, R380): with no active lane of the window's lane type they make no check and have no
effect. On the own scratchpad through a window, where every active element may be accessed, VLD decodes each active element into
its lane and leaves the other lanes, and VST writes the encoded active elements, no other byte, and folds them, in ascending
order, into the digest. That with no active lane an address of another aperture than 0 and 1 is taken by the lanes of
WCFG0's lane type is the model's choice (log 23). Whatever the aperture: when a check fails, they take its fault and load or store nothing; when the checks
pass and the pieces can be performed, the lanes accessed are exactly the active ones. -/
def Obligations.VectorLoadStore : Prop :=
  ∀ (s : State) (A : Act) (d : VReg) (k : BitVec 3) (a : Reg) (i : BitVec 8), s.Runs A →
    let ea := A.reg a + BitVec.ofInt 64 i.toInt
    ((∀ j, j < 512 / zWidth (fld (windowWord s s.cur ea) 22 20) → active s k j = false) →
      Goes s (.vld d k a i) (A.adv 4) ∧ Goes s (.vst d k a i) (A.adv 4)) ∧
    (∀ (w : Win) (n p : Nat), s.OwnVector A ea k w n p attrRD → ∃ V : Vec,
      exec (.vld d k a i) s = .next ((s.setV d V).setAct (A.adv 4)) ∧
      ∀ j, j < 512 / w.width → lane V w.width j =
        if active s k j then w.load (leNat (memRead s.mem (scratchKey s.cur (p + w.elem * j)) w.elem)) % 2 ^ w.width
        else lane (vreg s d) w.width j) ∧
    (∀ (w : Win) (n p : Nat), s.OwnVector A ea k w n p attrWR → s.MemOk →
      let el := fun j => leBytes w.elem (w.store (lane (vreg s d) w.width j))
      let bs := (List.range (512 / w.width)).flatMap (fun j => if active s k j then (el j).map some else List.replicate w.elem none)
      ∃ t : State, exec (.vst d k a i) s = .next (t.setAct ({ A with digest := foldMasked A.digest (locOwn 65536) p bs }.adv 4)) ∧
        (∀ j, j < 512 / w.width → active s k j = true → memRead t.mem (scratchKey s.cur (p + w.elem * j)) w.elem = el j) ∧
        (∀ key, (∀ j, j < 512 / w.width → active s k j = true →
            key < scratchKey s.cur (p + w.elem * j) ∨ scratchKey s.cur (p + w.elem * j) + w.elem ≤ key) →
          memGet t.mem key = memGet s.mem key) ∧
        t.tags = s.tags ∧ (t.elem s.cur).v = (s.elem s.cur).v ∧ ∀ e, e ≠ s.cur → t.elem e = s.elem e) ∧
    (∀ f, vecPlan s s.cur k ea false = .error f → exec (.vld d k a i) s = .next (s.takeFault s.cur f)) ∧
    (∀ f, vecPlan s s.cur k ea true = .error f → exec (.vst d k a i) s = .next (s.takeFault s.cur f)) ∧
    (∀ w pl lanes ps bs, vecPlan s s.cur k ea false = .ok (some (w, pl, lanes, ps)) → readPieces s ps 0 = .ok bs →
      lanes = (List.range (512 / w.width)).filter (fun j => active s k j) ∧ ∃ V : Vec, exec (.vld d k a i) s = .next ((s.setV d V).setAct (A.adv 4)) ∧
        (∀ j, j < 512 / w.width → active s k j = false → lane V w.width j = lane (vreg s d) w.width j) ∧
        (∀ n, n < lanes.length → lane V w.width (lanes.getD n 0) =
          w.load (leNat ((bs.drop (w.elem * n)).take w.elem)) % 2 ^ w.width)) ∧
    (∀ w pl lanes ps t, vecPlan s s.cur k ea true = .ok (some (w, pl, lanes, ps)) →
      writePieces s ps (lanes.flatMap (fun j => leBytes w.elem (w.store (lane (vreg s d) w.width j)))) 0 = (t, none) →
      lanes = (List.range (512 / w.width)).filter (fun j => active s k j) ∧
      exec (.vst d k a i) s = .next (t.setAct
        ({ A with digest := foldAt s s.cur A.digest pl (storedBytes w (vreg s d) lanes) }.adv 4)))

/-! ### Control transfers, the end of an activation, special registers (R89, R93, R94, R97, R98, R100–R104, R109–R115) -/

/-- R110–R112 with R109: every transfer computes and checks its target before it changes any state; CALL writes w31 and JMP
its register with PC + 4; BRC transfers where its condition on a holds, and otherwise goes on without checking the target;
NOP has no effect. The compact forms do the same, two bytes further where they do not transfer (R39). -/
def Obligations.BranchesAndCalls : Prop :=
  ∀ (s : State) (A : Act) (d a : Reg) (i : BitVec 22) (c : BitVec 3) (j : BitVec 14) (m : BitVec 11) (r : BitVec 5) (n : BitVec 6),
    s.Runs A →
    let x := A.reg a
    let y := A.reg (BitVec.ofNat 6 r.toNat)
    let at' := fun v : Int => A.pc + BitVec.ofInt 64 (2 * v)
    let holds := (c = 0 ∧ x = 0) ∨ (c = 1 ∧ x ≠ 0) ∨ (c = 2 ∧ x.toInt < 0) ∨ (c = 3 ∧ 0 ≤ x.toInt) ∨
      (c = 4 ∧ 0 < x.toInt) ∨ (c = 5 ∧ x.toInt ≤ 0)
    Transfers s (.br i) A (at' i.toInt) ∧ Transfers s (.brC m) A (at' m.toInt) ∧
    Transfers s (.call i) (A.setReg 31 (A.pc + 4)) (at' i.toInt) ∧
    Transfers s (.jmp d a) (A.setReg d (A.pc + 4)) x ∧
    Transfers s .ret A (A.reg 31) ∧ Transfers s .retC A (A.reg 31) ∧
    (c.toNat ≤ 5 → holds → Transfers s (.brc a c j) A (at' j.toInt)) ∧
    (c.toNat ≤ 5 → ¬ holds → Goes s (.brc a c j) (A.adv 4)) ∧
    (y ≠ 0 → Transfers s (.brcNzC r n) A (at' n.toInt)) ∧ (y = 0 → Goes s (.brcNzC r n) (A.adv 2)) ∧
    (y = 0 → Transfers s (.brcZC r n) A (at' n.toInt)) ∧ (y ≠ 0 → Goes s (.brcZC r n) (A.adv 2)) ∧
    Goes s .nop (A.adv 4) ∧ Goes s .nopC (A.adv 2)

/-- R114: MKA builds a generic address; every bit of its result is named here, for MKA.loc of a frond too (R349). It never faults. CVA
and TSTA never fault (R166, R167): CVA of an address that has no form of the kind asked for gives all ones; outside a frond CVA.abs names
the element in aperture 2, CVA.rel by its distance in aperture 3, CVA.sor by its member number in aperture 1, and CVA.loc the own
offset, each with tag and offset kept, and within a frond CVA.loc the pooled offset of a member's byte. TSTA's bit 0 says that the
element is in the scope, bit 1 that RLD reaches the address, bit 2 that it is the element itself, bit 3 that it is in its sorus; that an
address refused for its tag, its window or the partition still names its element is the model's choice (log 23), and so are all ones from
CVA.rel where the distance does not fit and from CVA.sor on a memory core, and bit 3 there for the core itself (log 22). -/
def Obligations.Addresses : Prop :=
  (∀ (s : State) (A : Act) (d a b : Reg) (z : BitVec 2), s.Runs A →
      ∃ v, Writes s A (.mka d a b z) d v 4 ∧ fld v 59 56 = fld (A.reg b) 59 56 ∧ fld v 18 0 = fld (A.reg b) 18 0 ∧
        fld v 31 19 = (if A.frond = true ∧ z = 3 then fld (A.reg b) 22 19 else 0) ∧ fld v 55 48 = 0 ∧
        (z = 0 → fld v 63 60 = 2 ∧ fld v 47 32 = fld (A.reg a) 15 0) ∧
        (z = 1 → fld v 63 60 = 3 ∧ fld v 47 32 = fld (A.reg a) 15 0) ∧
        (z = 2 → fld v 63 60 = 1 ∧ fld v 34 32 = fld (A.reg a) 2 0 ∧ fld v 47 35 = 0) ∧
        (z = 3 → fld v 63 60 = 0 ∧ fld v 47 32 = 0)) ∧
  (∀ (s : State) (A : Act) (d a b : Reg) (z : BitVec 2), s.Runs A →
      let e := s.cur
      let x := A.reg a
      let lost := fun z => Writes s A (.cva d a z) d (BitVec.allOnes 64) 4
      let gives := fun z ap coord off => ∃ v, Writes s A (.cva d a z) d v 4 ∧ fld v 63 60 = ap ∧ fld v 59 56 = fld x 59 56 ∧
        fld v 55 48 = 0 ∧ fld v 47 32 = coord ∧ fld v 31 0 = off
      (∃ v, Writes s A (.cva d a z) d v 4 ∧ (convert s e x z.toNat = none → v = BitVec.allOnes 64)) ∧
      (named s e x = none → lost z) ∧
      (s.frondOf e = none → fld x 63 60 = 0 → fld x 55 16 = 0 → e < 16384 → gives 0 2 e (fld x 15 0)) ∧
      (∀ t o w, s.frondOf e = none → isElem e = true → named s e x = some (t, o, w, false) →
        let dx := (eX t : Int) - eX e
        let dy := (eY t : Int) - eY e
        (w ≠ 0 → z ≠ 3 ∨ fld x 63 60 ≠ 0 → lost z) ∧
        (w = 0 → isElem t = true → gives 0 2 t o ∧
          (-64 ≤ dx ∧ dx ≤ 63 ∧ -32 ≤ dy ∧ dy ≤ 31 →
            gives 1 3 ((((eDie t : Int) - eDie e) % 8).toNat * 2 ^ 13 + (dx % 128).toNat * 2 ^ 6 + (dy % 64).toNat) o) ∧
          (¬ (-64 ≤ dx ∧ dx ≤ 63 ∧ -32 ≤ dy ∧ dy ≤ 31) → lost 1) ∧
          (if isCore e = true ∧ isCore t = true ∧ sorusOf e = sorusOf t then gives 2 1 (memberOf t) o else lost 2)) ∧
        (w = 0 ∨ fld x 63 60 = 0 → if t = e then gives 3 0 0 (w * 65536 + o) else lost 3)) ∧
      (∀ f t o, s.frondOf e = some f → named s e x = some (t, o, 0, false) →
        if t ∈ f.members then Writes s A (.cva d a 3) d
          (bitsAt (fld x 59 56) 56 ||| BitVec.ofNat 64 (64 * f.n * (o / 64) + 64 * f.index t + o % 64)) 4
        else lost 3) ∧
      (∃ v, Writes s A (.tsta d a b) d v 4 ∧ fld v 63 4 = 0 ∧
        (v.getLsbD 0 = true ↔ ∃ t o w p C, named s e x = some (t, o, w, p) ∧ s.ctxAt e = some C ∧ t ∈ C.scopeMembers e b.toNat) ∧
        (v.getLsbD 1 = true ↔ ∃ pl, resolve s e (apsRemote e) x = .ok pl) ∧
        (v.getLsbD 2 = true ↔ ∃ o w p, named s e x = some (e, o, w, p)) ∧
        (v.getLsbD 3 = true ↔ ∃ t o w p, named s e x = some (t, o, w, p) ∧
          (t = e ∨ isCore e = true ∧ isCore t = true ∧ sorusOf e = sorusOf t))))

/-- THE END OF AN ACTIVATION (R89, R93, R94, R382): ENDT, of a core's own activation or a frond's, leaves the element with no
activation; the stores of every wi that is not dead into doubleword i of the register area are folded, in ascending i, into the
digest, and the digest is rotated left by (16 × rank + channel) mod 64 and combined into COMBO, where the rank is the place in
scope-3 order. On a core that leads no frond the
doublewords hold the registers' values, those of dead registers stand, and so does every other byte of memory. -/
def Obligations.ActivationEnds : Prop :=
  ∀ (s : State) (A : Act) (i : Instr), s.Runs A → (i = .endt ∨ i = .endtC) →
    let g := (List.range 32).foldl (fun g j => if A.dead.getLsbD j then g
      else foldStore g (locOwn (s.ownSize s.cur)) (A.wp.toNat + 8 * j) (wordBytes (vget 0 A.w j))) A.digest
    let rank := match s.ctxAt s.cur with | some C => C.rankOf s.cur | none => 0
    ∃ t, exec i s = .next t ∧ (t.elem s.cur).act = none ∧ (t.elem s.cur).lastD = g ∧
      (t.elem s.cur).combo = (s.elem s.cur).combo ^^^ g.rotateLeft ((16 * rank + A.chan.toNat) % 64) ∧
      (t.elem s.cur).v = (s.elem s.cur).v ∧ (t.elem s.cur).k = (s.elem s.cur).k ∧
      (s.MemOk → s.frondOf s.cur = none → A.wp.toNat + 256 ≤ 65536 →
      (∀ j, j < 32 → A.dead.getLsbD j = false →
        memRead t.mem (scratchKey s.cur (A.wp.toNat + 8 * j)) 8 = wordBytes (vget 0 A.w j)) ∧
      (∀ j, j < 32 → A.dead.getLsbD j = true →
        memRead t.mem (scratchKey s.cur (A.wp.toNat + 8 * j)) 8 = memRead s.mem (scratchKey s.cur (A.wp.toNat + 8 * j)) 8) ∧
      (∀ k, k < scratchKey s.cur A.wp.toNat ∨ scratchKey s.cur A.wp.toNat + 256 ≤ k → memGet t.mem k = memGet s.mem k))

/-- YIELD (R97, R98, R113): a valid descriptor whose slot is empty arms that slot with its entry and kind, and the activation
ends; a malformed descriptor, an unbound channel or an argument that its kind does not allow takes code 0x07 with the argument
and the descriptor; an armed slot takes code 0x06. The slots are those of the activation's channel set, the frond channels within a
frond (R355); the other slots of it, and those of the other set, stand, and kind 2 sends its arm request. That every check of code 0x07 comes before the armed slot is the model's reading
(log 17). -/
def Obligations.YieldArms : Prop :=
  ∀ (s : State) (A : Act) (a b : Reg), s.Runs A →
    let desc := A.reg a
    let arg := A.reg b
    let q := fld desc 19 16
    let kind := fld desc 23 20
    let c := s.chan s.cur A.frond q
    let bad := fld desc 63 24 ≠ 0 ∨ desc.getLsbD 0 = true ∨ 3 < kind ∨ c.bind = none ∨ ((kind = 0 ∨ kind = 3) ∧ arg ≠ 0) ∨
      (kind = 2 ∧ condOk arg = false)
    (bad → Traps s (.yield a b) 0x07 arg desc) ∧
    (¬ bad → c.cont ≠ none → Traps s (.yield a b) 0x06 0 desc) ∧
    (¬ bad → c.cont = none →
      ∃ t ct, exec (.yield a b) s = .next t ∧ (t.elem s.cur).act = none ∧
        (t.chan s.cur A.frond q).cont = some ct ∧ ct.entry = desc.setWidth 16 ∧ ct.fired = none ∧
        (kind = 0 → ct.kind = .now) ∧ (kind = 1 → ct.kind = .time arg) ∧
        (kind = 2 → ct.kind = .event arg ∧
          t.Sent s.cur (some (enginePort (if fld arg 15 0 < 0x8000 then 0 else 1))) (.evArm arg A.frond (BitVec.ofNat 4 q))) ∧
        (kind = 3 → ct.kind = .message) ∧
        (∀ q', q' ≠ q → (t.chan s.cur A.frond q').cont = (s.chan s.cur A.frond q').cont) ∧
        (∀ q', (t.chan s.cur (!A.frond) q').cont = (s.chan s.cur (!A.frond) q').cont))

/-- Special registers (R84, R93, R96, R100–R104, R115, R124, R149–R151, R351, R385): SRD reads every register that R100 assigns:
CAPA, SELF, WP, CHAN, PRIO, TIME, DEADMASK, WDLIM, WDCNT, ALLOW, FROND, DIGEST, WCFG0–WCFG7 and EVC0–EVC7, each with the value
that stands here. SWR of an assigned register that is not writable takes code 0x09 with its number, one that sets a reserved
bit code 0x01 with reason 0x08; SWR DEADMASK discards the values of the registers it names, SWR ALLOW writes NQ and NEN and
clears OVF where bit 13 is 1, SWR WCFG1–WCFG7 writes the window register; a later SRD of the same register sees the new value (R84).
That WDCNT wraps modulo 2^32 is the model's choice (log 56). -/
def Obligations.SpecialRegisters : Prop :=
  ∀ (s : State) (A : Act) (d a : Reg), s.Runs A →
    let E := s.elem s.cur
    let x := A.reg a
    Writes s A (.srd d 0) d (BitVec.ofNat 64 (0xB0 + 6 * 2 ^ 8 + 5 * 2 ^ 12 + 3 * 2 ^ 16 + (if isMemCore s.cur then 2 ^ 20 else 0))) 4 ∧
    Writes s A (.srd d 1) d (BitVec.ofNat 64 (s.cur +
      (if isCore s.cur then (eX s.cur % 4 + 4 * (eY s.cur % 2)) * 2 ^ 16 + (16 * (eY s.cur / 2) + eX s.cur / 4) * 2 ^ 19 else 0) +
      (s.ctxOf s.cur).getD 0 * 2 ^ 32)) 4 ∧
    Writes s A (.srd d 2) d A.wp 4 ∧
    Writes s A (.srd d 3) d (BitVec.ofNat 64 (A.chan.toNat + (if A.cont then 16 else 0))) 4 ∧
    Writes s A (.srd d 4) d (BitVec.ofNat 64 (A.prio.toNat + (if A.floor then 128 else 0))) 4 ∧
    Writes s A (.srd d 5) d (BitVec.ofNat 64 s.time) 4 ∧
    Writes s A (.srd d 6) d (A.dead.setWidth 64) 4 ∧
    Writes s A (.srd d 7) d (E.wdlim.setWidth 64) 4 ∧
    (∀ n, A.wdHeld = some n → Writes s A (.srd d 8) d (BitVec.ofNat 64 (n % 2 ^ 32)) 4) ∧
    (A.wdHeld = none → A.begun = true → Writes s A (.srd d 8) d (BitVec.ofNat 64 (((s.time : Int) - A.wdStart).toNat % 2 ^ 32)) 4) ∧
    Writes s A (.srd d 9) d (BitVec.ofNat 64 (E.avail % 32 + E.nq.toNat * 2 ^ 8 + (if E.nen then 2 ^ 12 else 0) +
      (if E.ovf then 2 ^ 13 else 0) + E.undel.toNat * 2 ^ 16)) 4 ∧
    (s.frondOf s.cur = none → Writes s A (.srd d 10) d 0 4) ∧
    (∀ f, s.frondOf s.cur = some f → Writes s A (.srd d 10) d (BitVec.ofNat 64 (1 + lg f.n * 2 ^ 4 + f.scope * 2 ^ 8 +
      f.origin * 2 ^ 16 + f.index f.leader * 2 ^ 32 + f.w * 2 ^ 36 + f.h * 2 ^ 40)) 4) ∧
    Writes s A (.srd d 11) d A.digest 4 ∧
    (∀ n, n < 8 → Writes s A (.srd d (BitVec.ofNat 8 (16 + n))) d (vget 0 E.wcfg n) 4 ∧
      Writes s A (.srd d (BitVec.ofNat 8 (24 + n))) d (vget 0 E.evc n) 4) ∧
    (∀ n : BitVec 8, sprReserved n.toNat x = true → Traps s (.swr a n) 0x01 0 (insnExtra (.swr a n) 8)) ∧
    (∀ n : BitVec 8, sprReserved n.toNat x = false → (n.toNat ≤ 11 ∨ 16 ≤ n.toNat ∧ n.toNat ≤ 31) → n ≠ 6 → n ≠ 9 →
      ¬ (17 ≤ n.toNat ∧ n.toNat ≤ 23) →
      Traps s (.swr a n) 0x09 0 (BitVec.ofNat 64 n.toNat)) ∧
    (fld x 63 32 = 0 → ∃ B, Goes s (.swr a 6) B ∧ B.pc = A.pc + 4 ∧ B.dead = x.setWidth 32 ∧
      (∀ r : Reg, r.toNat < 32 → B.reg r = if x.getLsbD r.toNat then 0 else A.reg r) ∧ B.mb = A.mb ∧ B.inn = A.inn) ∧
    (sprReserved 9 x = false → exec (.swr a 9) s = .next ((s.setElem s.cur { E with
      nq := BitVec.ofNat 4 (fld x 11 8), nen := x.getLsbD 12, ovf := E.ovf && !x.getLsbD 13 }).setAct (A.adv 4))) ∧
    (∀ n : BitVec 8, 17 ≤ n.toNat → n.toNat ≤ 23 → sprReserved n.toNat x = false →
      exec (.swr a n) s = .next ((s.setElem s.cur { E with wcfg := vset E.wcfg (n.toNat - 16) x }).setAct (A.adv 4))) ∧
    (∀ n : BitVec 8, (n = 6 ∨ 17 ≤ n.toNat ∧ n.toNat ≤ 23) → sprReserved n.toNat x = false → ∃ (t : State) (B : Act),
      exec (.swr a n) s = .next t ∧ t.Runs B ∧ Writes t B (.srd d n) d x 4) ∧
    (sprReserved 9 x = false → ∃ (t : State) (B : Act) (v : Word), exec (.swr a 9) s = .next t ∧ t.Runs B ∧ Writes t B (.srd d 9) d v 4 ∧
      fld v 11 8 = fld x 11 8 ∧ v.getLsbD 12 = x.getLsbD 12 ∧ (x.getLsbD 13 = true → v.getLsbD 13 = false))

/-! ### Scratchpad and memory access (R4, R145–R168) -/

/-- Loads from the own scratchpad: where the access passes the checks, the little-endian value at the address replaces the
register, zero-extended, or sign-extended by the .i forms; nothing else changes. LDX first checks its index against the bound
in register a + 1, and takes code 0x13 with both where it is out of bounds (R4, R161–R163, R195). The compact doubleword forms
address w0–w7 plus eight times their immediate (R38). Stores to the own scratchpad: where the access passes the checks, the
low bytes of the register stand at the address, lowest first, and are folded into the digest, and an older halfword that another
element overwrote there is fetched no more (R28); nothing else changes. ST.rel
that passes the checks first waits while a posted write of the element is in flight (log 20), with nothing done (R4, R161, R163, R195, R380). A load that the checks of R158 refuse, or that a
piece stops, takes that fault and writes no register; one that passes writes the value read, whatever the aperture: own or
other scratchpad, HBM or host memory; a store that passes leaves each piece of the register's bytes where its address leads: the
scratchpad of the sorus member, the page's HBM, host memory (R145), but none where the HBM controllers bar it (R419; log 64). A store
that the checks refuse takes their fault and stores nothing; one that a piece stops takes
that piece's fault with the pieces below it stored, and the digest stands (R146, R158, R160). -/
def Obligations.OwnAccesses : Prop :=
  (∀ (s : State) (A : Act) (d a b : Reg) (z : BitVec 2) (i : BitVec 8) (p : Nat), s.Runs A →
      let n := 2 ^ z.toNat
      let v := leNat (memRead s.mem (scratchKey s.cur p) n)
      (s.OwnAccess A (A.reg a + BitVec.ofInt 64 (i.toInt * n)) p n [attrRD] →
        Writes s A (.ld d z a i) d (BitVec.ofNat 64 v) 4 ∧
        Writes s A (.ldSigned d z a i) d (BitVec.ofInt 64 (if v < 2 ^ (8 * n - 1) then (v : Int) else v - 2 ^ (8 * n))) 4) ∧
      (s.OwnAccess A (A.reg a) p n [attrRD] → Writes s A (.ldAcq d a z) d (BitVec.ofNat 64 v) 4) ∧
      ((A.reg b).toNat < (A.reg (a + 1)).toNat → s.OwnAccess A (A.reg a + BitVec.ofNat 64 ((A.reg b).toNat * n)) p n [attrRD] →
        Writes s A (.ldx d a b z) d (BitVec.ofNat 64 v) 4) ∧
      ((A.reg (a + 1)).toNat ≤ (A.reg b).toNat → Traps s (.ldx d a b z) 0x13 (A.reg b) (A.reg (a + 1)) ∧
        Traps s (.stx d a b z) 0x13 (A.reg b) (A.reg (a + 1)))) ∧
  (∀ (s : State) (A : Act) (d : BitVec 5) (a i : BitVec 3) (p : Nat), s.Runs A →
      let r : Reg := BitVec.ofNat 6 d.toNat
      let ea := A.reg (BitVec.ofNat 6 a.toNat) + BitVec.ofNat 64 (8 * i.toNat)
      (s.OwnAccess A ea p 8 [attrRD] → Writes s A (.ldDC d a i) r (leWord (memRead s.mem (scratchKey s.cur p) 8)) 2) ∧
      (s.OwnAccess A ea p 8 [attrWR] → exec (.stDC d a i) s = .next (State.setAct
        { s.dropOlds s.cur p 8 with mem := memWrite s.mem (scratchKey s.cur p) (wordBytes (A.reg r)) }
        ({ A with digest := foldStore A.digest (locOwn 65536) p (wordBytes (A.reg r)) }.adv 2)))) ∧
  (∀ (s : State) (A : Act) (d a b : Reg) (z : BitVec 2) (i : BitVec 8) (p : Nat), s.Runs A →
      let n := 2 ^ z.toNat
      let bs := leBytes n (A.reg d).toNat
      let t := State.setAct { s.dropOlds s.cur p n with mem := memWrite s.mem (scratchKey s.cur p) bs }
        ({ A with digest := foldStore A.digest (locOwn 65536) p bs }.adv 4)
      (s.OwnAccess A (A.reg a + BitVec.ofInt 64 (i.toInt * n)) p n [attrWR] → exec (.st d z a i) s = .next t) ∧
      ((A.reg b).toNat < (A.reg (a + 1)).toNat → s.OwnAccess A (A.reg a + BitVec.ofNat 64 ((A.reg b).toNat * n)) p n [attrWR] →
        exec (.stx d a b z) s = .next t) ∧
      (s.OwnAccess A (A.reg a) p n [attrWR] → s.postedOf s.cur = [] → exec (.stRel d a z) s = .next t)) ∧
  (∀ (s t : State) (A : Act) (d a : Reg) (z : BitVec 2) (i : BitVec 8), s.Runs A →
      let n : Nat := 2 ^ z.toNat
      let ea := A.reg a + BitVec.ofInt 64 (i.toInt * n)
      (∀ f, loadBytes s { aps := apsLoad s.cur, rd := true } ea n = (t, .error f) →
        exec (.ld d z a i) s = .next (t.takeFault t.cur f) ∧ exec (.ldSigned d z a i) s = .next (t.takeFault t.cur f)) ∧
      (∀ bs, loadBytes s { aps := apsLoad s.cur, rd := true } ea n = (t, .ok bs) →
        exec (.ld d z a i) s = .next (t.setAct ((A.setReg d (BitVec.ofNat 64 (leNat bs))).adv 4)))) ∧
  (∀ (s : State) (A : Act) (d a b : Reg) (z : BitVec 2) (i : BitVec 8), s.Runs A →
      let n : Nat := 2 ^ z.toNat
      let aps := apsLoad s.cur
      let bs := leBytes n (A.reg d).toNat
      let fails := fun (j : Instr) (need : Need) (ea : Word) (bs : List Byte) =>
        (∀ f, plan s s.cur need ea bs.length = .error f →
          exec j s = .next (((noteStopped s s.cur need ea bs.length f).setAct A).takeFault s.cur f)) ∧
        (∀ ps t f, plan s s.cur need ea bs.length = .ok ps → writePieces s ps bs 0 = (t, some f) →
          exec j s = .next (((notePieces t s.cur ps).setAct A).takeFault s.cur f))
      let succeeds := fun (j : Instr) (need : Need) (ea : Word) (bs : List Byte) (len : Nat) => ∀ ps t,
        plan s s.cur need ea bs.length = .ok ps → writePieces s ps bs 0 = (t, none) →
        exec j s = .next ((notePieces t s.cur ps).setAct ({ A with digest := foldPieces s s.cur A.digest ps bs }.adv len))
      succeeds (.st d z a i) { aps := aps, wr := true } (A.reg a + BitVec.ofInt 64 (i.toInt * n)) bs 4 ∧
      ((A.reg b).toNat < (A.reg (a + 1)).toNat →
        succeeds (.stx d a b z) { aps := apsLocal s.cur, wr := true } (A.reg a + BitVec.ofNat 64 ((A.reg b).toNat * n)) bs 4) ∧
      (s.postedOf s.cur = [] → succeeds (.stRel d a z) { aps := aps, wr := true, natural := true } (A.reg a) bs 4) ∧
      (∀ ps, plan s s.cur { aps := aps, wr := true, natural := true } (A.reg a) n = .ok ps → s.postedOf s.cur ≠ [] →
        exec (.stRel d a z) s = .next (s.updElem s.cur (fun E => { E with stalled := true }))) ∧
      (∀ (c : BitVec 5) (m k : BitVec 3), succeeds (.stDC c m k) { aps := aps, wr := true }
        (A.reg (BitVec.ofNat 6 m.toNat) + BitVec.ofNat 64 (8 * k.toNat)) (wordBytes (A.reg (BitVec.ofNat 6 c.toNat))) 2) ∧
      fails (.st d z a i) { aps := aps, wr := true } (A.reg a + BitVec.ofInt 64 (i.toInt * n)) bs ∧
      ((A.reg b).toNat < (A.reg (a + 1)).toNat →
        fails (.stx d a b z) { aps := apsLocal s.cur, wr := true } (A.reg a + BitVec.ofNat 64 ((A.reg b).toNat * n)) bs) ∧
      (∀ f, plan s s.cur { aps := aps, wr := true, natural := true } (A.reg a) n = .error f → exec (.stRel d a z) s =
        .next ((noteStopped s s.cur { aps := aps, wr := true, natural := true } (A.reg a) n f).takeFault s.cur f)) ∧
      (s.postedOf s.cur = [] → ∀ ps t f, plan s s.cur { aps := aps, wr := true, natural := true } (A.reg a) n = .ok ps →
        writePieces s ps bs 0 = (t, some f) → exec (.stRel d a z) s = .next (((notePieces t s.cur ps).setAct A).takeFault s.cur f)) ∧
      (∀ (c : BitVec 5) (m k : BitVec 3), fails (.stDC c m k) { aps := aps, wr := true }
        (A.reg (BitVec.ofNat 6 m.toNat) + BitVec.ofNat 64 (8 * k.toNat)) (wordBytes (A.reg (BitVec.ofNat 6 c.toNat))))) ∧
  (∀ (s t : State) (ps : List Piece) (bs : List Byte) (i : Nat) (p : Piece) (k : Nat), s.MemOk → writePieces s ps bs 0 = (t, none) →
      ps[i]? = some p → p.key = .ok k →
      (∀ j q k', j ≠ i → ps[j]? = some q → q.key = .ok k' → k + p.size ≤ k' ∨ k' + q.size ≤ k) →
      let before := ((ps.take i).map Piece.size).sum
      if s.barred (s.keyOf s.cur) k p.size = true then memRead t.mem k p.size = memRead s.mem k p.size
      else before + p.size ≤ bs.length → memRead t.mem k p.size = (bs.drop before).take p.size) ∧
  (∀ (s : State) (need : Need) (ea : Word) (n : Nat) (ps : List Piece) (p : Piece) (k : Nat), plan s s.cur need ea n = .ok ps → p ∈ ps →
      p.key = .ok k →
      (fld p.addr 63 60 = 1 → isCore s.cur = true → ∃ t, isCore t = true ∧ sorusOf t = sorusOf s.cur ∧ memberOf t = fld p.addr 34 32 ∧
        k = scratchKey t (fld p.addr 15 0)) ∧
      (fld p.addr 63 60 = 8 → ∃ tr, xlate s s.cur (fld p.addr 51 0) = .ok tr ∧ k = hbmKey (tr.phys (fld p.addr 51 0))) ∧
      (fld p.addr 63 60 = 9 → k = hostKey (s.hostOf s.cur (fld p.addr 55 0))))

/-- LDM and STM move doublewords between b registers upward from d and consecutive doublewords at the address: doubleword j lies
8j bytes above the base, on the own scratchpad as in every aperture that the checks admit. LDM loads its base register last: where
an uncorrectable error stops it at doubleword m, it takes code 0x18 with PROGRESS the doublewords moved before, which are those of
the registers below other than the base, or, where the base itself was to be loaded, all the others; those registers hold their
values, and every other register stands, the base among them. STM leaves every other byte of memory, and folds its stores into the
digest; where its checks fail, or a doubleword stops it, it takes that fault, the doublewords below stored (R157, R158, R164, R380). -/
def Obligations.MultipleTransfers : Prop :=
  ∀ (s : State) (A : Act) (d a b : Reg) (ps : List Piece), s.Runs A → d.toNat + b.toNat ≤ 32 →
    let at' := fun j : Nat => A.reg a + BitVec.ofNat 64 (8 * j)
    let into := fun j : Nat => d + BitVec.ofNat 6 j
    let words := (List.range b.toNat).flatMap (fun j => wordBytes (A.reg (into j)))
    (∀ p, 1 ≤ b.toNat → (∀ j, j < b.toNat → s.OwnAccess A (at' j) (p + 8 * j) 8 [attrRD]) →
      ∃ B, Goes s (.ldm d a b) B ∧ B.pc = A.pc + 4 ∧
        (∀ j, j < b.toNat → B.reg (into j) = leWord (memRead s.mem (scratchKey s.cur (p + 8 * j)) 8)) ∧
        (∀ r, (∀ j, j < b.toNat → r ≠ into j) → B.reg r = A.reg r)) ∧
    (∀ p, 1 ≤ b.toNat → (∀ j, j < b.toNat → s.OwnAccess A (at' j) (p + 8 * j) 8 [attrWR]) → s.MemOk →
      ∃ t : State, exec (.stm d a b) s = .next (t.setAct ({ A with digest := foldStore A.digest (locOwn 65536) p words }.adv 4)) ∧
        (∀ j, j < b.toNat → memRead t.mem (scratchKey s.cur (p + 8 * j)) 8 = wordBytes (A.reg (into j))) ∧
        (∀ k, k < scratchKey s.cur p ∨ scratchKey s.cur (p + 8 * b.toNat) ≤ k → memGet t.mem k = memGet s.mem k) ∧ t.tags = s.tags) ∧
    (∀ wr, plan s s.cur { aps := apsLocal s.cur, rd := !wr, wr := wr, natural := true, piece := 8 } (A.reg a) (8 * b.toNat) = .ok ps →
      ps.length = b.toNat ∧ ∀ j p, ps[j]? = some p → p.addr = at' j ∧ p.size = 8) ∧
    (∀ m k, plan s s.cur { aps := apsLocal s.cur, rd := true, natural := true, piece := 8 } (A.reg a) (8 * b.toNat) = .ok ps →
      (∃ p, ps[m]? = some p ∧ p.key = .ok k) → poisonIn s k 8 = some k →
      let before := fun j : Nat => j < b.toNat ∧ j ≠ m ∧ (into m = a ∨ j < m ∧ into j ≠ a)
      (∀ j, before j → ∃ p k', ps[j]? = some p ∧ p.key = .ok k' ∧ poisonIn s k' 8 = none) →
      ∃ B f, exec (.ldm d a b) s = .next ((s.setAct B).takeFault s.cur f) ∧ f.code = 0x18 ∧ f.faddr = at' m ∧
        fld f.extra 31 24 = ((List.range b.toNat).filter (fun j => decide (j ≠ m) && (decide (into m = a) ||
          (decide (j < m) && decide (into j ≠ a))))).length ∧ B.pc = A.pc ∧
        (∀ j, before j → ∀ p k', ps[j]? = some p → p.key = .ok k' → B.reg (into j) = leWord (memRead s.mem k' 8)) ∧
        (∀ r, (∀ j, before j → r ≠ into j) → B.reg r = A.reg r)) ∧
    (plan s s.cur { aps := apsLocal s.cur, rd := true, natural := true, piece := 8 } (A.reg a) (8 * b.toNat) = .ok ps →
      (∀ p ∈ ps, ∃ k, p.key = .ok k ∧ poisonIn s k p.size = none) →
      ∃ B, Goes s (.ldm d a b) B ∧ B.pc = A.pc + 4 ∧
        (∀ j, j < b.toNat → ∀ p k, ps[j]? = some p → p.key = .ok k →
          B.reg (d + BitVec.ofNat 6 j) = leWord (memRead s.mem k 8)) ∧
        (∀ r, (∀ j, j < b.toNat → r ≠ d + BitVec.ofNat 6 j) → B.reg r = A.reg r)) ∧
    (∀ t, plan s s.cur { aps := apsLocal s.cur, wr := true, natural := true, piece := 8 } (A.reg a) (8 * b.toNat) = .ok ps →
      writePieces s ps words 0 = (t, none) →
      exec (.stm d a b) s = .next ((notePieces t s.cur ps).setAct ({ A with digest := foldPieces s s.cur A.digest ps words }.adv 4))) ∧
    (let need : Need := { aps := apsLocal s.cur, wr := true, natural := true, piece := 8 }
     (∀ f, plan s s.cur need (A.reg a) (8 * b.toNat) = .error f →
       exec (.stm d a b) s = .next (((noteStopped s s.cur need (A.reg a) (8 * b.toNat) f).setAct A).takeFault s.cur f)) ∧
     (∀ t f, plan s s.cur need (A.reg a) (8 * b.toNat) = .ok ps → writePieces s ps words 0 = (t, some f) →
       exec (.stm d a b) s = .next (((notePieces t s.cur ps).setAct A).takeFault s.cur f)))

/-- LTAG reads and STAG writes the tag of the line or granule that an address names (R154, R165, R296). Through aperture 0 that is the
64-byte line of the own scratchpad, which needs RD for LTAG and WR for STAG on every byte (0x14) and must lie outside the register area
(0x08); through aperture 1 the member's line, outside the register area and of a member that is not fenced (0x17); through aperture 8
the 32-byte granule of HBM that the page gives, which STAG may not write on an RO page (0x16); through aperture 9 there is none: LTAG
answers zero, and STAG takes code 0x19 with a value that is not zero (R295). STAG of a value with a bit above 3 takes code 0x19 with it,
before the line is checked, which is the model's order (log 23). A fault of the line is taken by both in every aperture; SIZE 6 and 5 in its extra word,
the granule or the address as given in that of a translation fault (log 23), and 0x17 after 0x08 (log 15) are the model's choices. STAG of a granule
that lies in another context's allotment completes and leaves every tag (R419; that it says nothing is the model's choice, log 64). No
other tag, and no byte or register, changes but the destination of LTAG; a translated page may enter the TLB (log 3). REGION reads any
region register, of the pooled set within a frond (R350); it writes one only on the supervisor core, which otherwise takes code 0x03, and
only a value with no reserved bit whose range lies within the scratchpad, or the 0x10_0000 bytes of the pooled set, otherwise code 0x19
(R152, R168). -/
def Obligations.TagsAndRegions : Prop :=
  (∀ (s : State) (A : Act) (d a b : Reg), s.Runs A →
      let x := A.reg a
      let y := A.reg b
      let e := s.cur
      let n := noteTag s x
      let word := fun (wr : Bool) (size cause : Nat) => MemX.word { size := size, write := wr, ptag := ptagOf x, cause := cause }
      (∀ wr c, resolve s e (apsLoad e) x = .error c → tagLine s e wr x = .error { code := 0x10, faddr := x, extra := word wr 64 c }) ∧
      (∀ wr p, resolve s e (apsLoad e) x = .ok (.own p) →
        let l := p / 64 * 64
        let lacks := lacking (s.regionsOf e) (if wr then attrWR else attrRD) (s.ownSize e) l 64
        (∀ o c, lacks = some (o, c) → tagLine s e wr x =
          .error { code := 0x14, faddr := x - BitVec.ofNat 64 (p - l) + BitVec.ofNat 64 o, extra := word wr 64 c }) ∧
        (lacks = none → touchesArea s e (.own l) 64 = true → tagLine s e wr x = .error { code := 0x08, faddr := x, extra := 0 }) ∧
        (lacks = none → touchesArea s e (.own l) 64 = false → tagLine s e wr x = .ok (some (s.ownKey e l)))) ∧
      (∀ wr t o, resolve s e (apsLoad e) x = .ok (.raw t o) →
        let l := o / 64 * 64
        (touchesArea s e (.raw t l) 64 = true → tagLine s e wr x = .error { code := 0x08, faddr := x, extra := 0 }) ∧
        (touchesArea s e (.raw t l) 64 = false → s.isFenced t = true →
          tagLine s e wr x = .error { code := 0x17, faddr := x, extra := word wr 64 0 }) ∧
        (touchesArea s e (.raw t l) 64 = false → s.isFenced t = false → tagLine s e wr x = .ok (some (scratchKey t l)))) ∧
      (∀ wr va, resolve s e (apsLoad e) x = .ok (.dev va) →
        (∀ code c, xlate s e va = .error (code, c) →
          tagLine s e wr x = .error { code := code, faddr := x &&& ~~~31#64, extra := word wr 32 c }) ∧
        (∀ tr, xlate s e va = .ok tr →
          ((wr = true ∧ tr.ro = true) → tagLine s e wr x = .error { code := 0x16, faddr := x &&& ~~~31#64, extra := word wr 32 1 }) ∧
          (¬ (wr = true ∧ tr.ro = true) → tagLine s e wr x = .ok (some (hbmKey (tr.phys va) / 32 * 32))))) ∧
      (∀ wr v, resolve s e (apsLoad e) x = .ok (.host v) → tagLine s e wr x = .ok none) ∧
      (apOf x ≠ 8 → n = s) ∧ n.mem = s.mem ∧ n.tags = s.tags ∧
      (∀ e', { n.elem e' with tlb := (s.elem e').tlb, evc := (s.elem e').evc } = s.elem e') ∧
      (∀ o, tagLine s e false x = .ok o → exec (.ltag d a) s =
        .next (n.setAct ((A.setReg d (match o with | some k => (tagAt s k).setWidth 64 | none => 0)).adv 4))) ∧
      (∀ f, tagLine s e false x = .error f → exec (.ltag d a) s = .next (n.takeFault e f)) ∧
      (fld y 63 4 ≠ 0 → Traps s (.stag a b) 0x19 0 y) ∧
      (fld y 63 4 = 0 →
        (∀ f, tagLine s e true x = .error f → exec (.stag a b) s = .next (n.takeFault e f)) ∧
        (∀ k, tagLine s e true x = .ok (some k) →
          (s.barred (s.keyOf e) k 1 = true → exec (.stag a b) s = .next (n.setAct (A.adv 4))) ∧
          (s.barred (s.keyOf e) k 1 = false → ∃ t : State, exec (.stag a b) s = .next (t.setAct (A.adv 4)) ∧
            { t with tags := s.tags } = n ∧ tagAt t k = y.setWidth 4 ∧ ∀ k', k' ≠ k → tagAt t k' = tagAt s k')) ∧
        (tagLine s e true x = .ok none →
          (y = 0 → Goes s (.stag a b) (A.adv 4)) ∧ (y ≠ 0 → Traps s (.stag a b) 0x19 0 y)))) ∧
  (∀ (s : State) (A : Act) (d a b : Reg), s.Runs A → b.toNat < 8 →
      let x := A.reg a
      let E := s.elem s.cur
      let ok := fun size : Nat => fld x 3 0 = 0 ∧ fld x 15 8 = 0 ∧ fld x 39 16 + fld x 63 40 ≤ size
      let sup := ∃ C, s.ctxAt s.cur = some C ∧ C.sup = some s.cur
      (¬ sup → Traps s (.regionWr a b) 0x03 0 (insnExtra (.regionWr a b) 0)) ∧
      (s.frondOf s.cur = none →
        Writes s A (.regionRd d b) d (vget 0 E.regions b.toNat) 4 ∧
        (sup → ¬ ok 0x10000 → Traps s (.regionWr a b) 0x19 0 x) ∧
        (sup → ok 0x10000 → exec (.regionWr a b) s =
          .next ((s.setElem s.cur { E with regions := vset E.regions b.toNat x }).setAct (A.adv 4)))) ∧
      (s.frondOf s.cur ≠ none →
        Writes s A (.regionRd d b) d (vget 0 E.pregions b.toNat) 4 ∧
        (sup → ¬ ok 0x100000 → Traps s (.regionWr a b) 0x19 0 x) ∧
        (sup → ok 0x100000 → exec (.regionWr a b) s =
          .next ((s.setElem s.cur { E with pregions := vset E.pregions b.toNat x }).setAct (A.adv 4)))))

/-- THE FRAME of loads: ld, ldSigned, ldDC, ldx, ldAcq, ldm, ltag, rld, vld. Whatever they answer, every byte of memory and
every tag stands; and where the element is left in its mode, every register slot stands but the destination d (for ldm the
registers from d on, for vld none). -/
def Obligations.LoadFrame : Prop :=
  ∀ (s t : State) (A : Act) (i : Instr), s.Runs A → loads i = true → exec i s = .next t →
    t.mem = s.mem ∧ t.tags = s.tags ∧
    ∃ B, t.act = some B ∧ (∀ r, r ∉ loadDests i → B.reg r = A.reg r) ∧ B.wp = A.wp ∧ B.digest = A.digest ∧ B.chan = A.chan

/-- THE FRAME of stores: st, stDC, stx, stm, stRel, vst. Every byte of memory outside the pieces of the access, which the
statement computes as the meaning does, reads as before, also where a piece stops the store; every register, vector and mask
register stands, and so does every tag. -/
def Obligations.StoreFrame : Prop :=
  ∀ (s t : State) (A : Act) (i : Instr), s.Runs A → s.MemOk → stores i = true → exec i s = .next t →
    (∀ k, (∀ p, p ∈ storePieces s A i → ∀ key, p.key = .ok key → k < key ∨ key + p.size ≤ k) → memGet t.mem k = memGet s.mem k) ∧
    t.tags = s.tags ∧ (t.elem s.cur).v = (s.elem s.cur).v ∧ (t.elem s.cur).k = (s.elem s.cur).k ∧
    ∃ B, t.act = some B ∧ (∀ r, B.reg r = A.reg r) ∧ B.wp = A.wp ∧ B.chan = A.chan

/-! ### Remote access and atomics (R169–R172, R188–R196) -/

/-- RLD (R92, R153, R154, R158, R169, R170). A misaligned address, or one that the remote forms do not admit, takes the fault
of that check. Of an aligned one: own bytes through aperture 0 without RD take code 0x14 at the first such byte, bytes of the own
register area, through whatever aperture, code 0x08, and an own line that is tag-checked and has another tag code 0x12; that RLD makes
these checks of a load is the model's reading (log 67). Past them, once every posted write of the element to the target has been
applied, the value at the target replaces the register; while one is in flight, it waits with nothing done, also for one to other bytes or
of an earlier activation, which is the model's choice: R170 and R176 name the RSTs of its activation to the same bytes (log 67); a fenced target
takes code 0x17, and a doubleword there that holds an uncorrectable error code 0x18. REMOTE_READ is that answer for an element that
waits. -/
def Obligations.RemoteLoads : Prop :=
  ∀ (s : State) (A : Act) (d a : Reg) (z : BitVec 2), s.Runs A →
    let n : Nat := 2 ^ z.toNat
    let x := A.reg a
    (∀ f, remoteAt s s.cur x n false true = .error f → exec (.rld d a z) s = .next (s.takeFault s.cur f)) ∧
    (∀ pl, remoteAt s s.cur x n false true = .ok pl →
      let t := (rawOf s s.cur pl).1
      let o := (rawOf s s.cur pl).2
      let word := fun cause tag : Nat => MemX.word { size := n, remote := true, ptag := ptagOf x, mtag := tag, cause := cause }
      let lacks := match pl with
        | .own p => lacking (s.regionsOf s.cur) attrRD (s.ownSize s.cur) p n
        | _ => none
      let otherTag := fun p : Nat => (∃ j, j < n ∧ hasAttr (s.regionsOf s.cur) ((p + j) % s.ownSize s.cur) attrTC = true) ∧
        (tagAt s (s.ownKey s.cur p / 64 * 64)).toNat ≠ ptagOf x
      let checked := lacks = none ∧ touchesArea s s.cur pl n = false ∧ ∀ p, pl = .own p → ¬ otherTag p
      (∀ j c, lacks = some (j, c) → Traps s (.rld d a z) 0x14 (x + BitVec.ofNat 64 j) (word c 0)) ∧
      (lacks = none → touchesArea s s.cur pl n = true → Traps s (.rld d a z) 0x08 x 0) ∧
      (lacks = none → touchesArea s s.cur pl n = false → ∀ p, pl = .own p → otherTag p →
        Traps s (.rld d a z) 0x12 x (word 0 (tagAt s (s.ownKey s.cur p / 64 * 64)).toNat)) ∧
      (checked → s.postedTo s.cur t ≠ [] →
        exec (.rld d a z) s = .next (s.updElem s.cur (fun E => { E with stalled := true }))) ∧
      (checked → s.postedTo s.cur t = [] → s.isFenced t = true → Traps s (.rld d a z) 0x17 x (word 0 0)) ∧
      (checked → s.postedTo s.cur t = [] → s.isFenced t = false → poisonIn s (scratchKey t o) n ≠ none →
        Traps s (.rld d a z) 0x18 (x - BitVec.ofNat 64 (o % 8)) (word 0 0)) ∧
      (checked → s.postedTo s.cur t = [] → s.isFenced t = false → poisonIn s (scratchKey t o) n = none →
        Writes s A (.rld d a z) d (leWord (memRead s.mem (scratchKey t o) n)) 4 ∧
        ∀ e : EId, ∀ s0 : State, s0.updElem e (fun E => { E with stalled := false }) = s → s.cur = e → s0.cur = e →
          (s0.elem e).stalled = true → s0.mayIssue e = true → (s0.elem e).insn = some (.rld d a z) →
          exec (.remoteRead e) s0 = .next ((s.setAct ((A.setReg d (leWord (memRead s.mem (scratchKey t o) n))).adv 4)).afterInstr e)))

/-- RST and RCOPY (R123, R171, R172): without allowance the status is 1 and nothing is sent; with it, one unit is taken, the
request is on its way to the target, and the status is 0, also for an RCOPY from the own scratchpad, whose offset counts the window (R145).
An RCOPY whose descriptor is malformed, or reaches beyond a scratchpad, takes code 0x19, with a LEN of 0 or above 4,096 by the model's
choice (log 23), and one whose destination fails its checks their
fault. RAMO and RCAS (R123, R190, R196): a malformed
descriptor takes code 0x19; without allowance the status is 1; with it, a unit is taken, the request is on its way, and the
status is 0. Without an acquire the activation goes on at once; with one, it waits at the instruction while that very request is in
flight, and goes on when it has been applied; with a release the request follows the element's posted writes in flight, as R173 asks for those of the
issuing activation, and by the model's choice those of earlier ones (log 20). RST,
RAMO and RCAS fold their record when they issue (R380). -/
def Obligations.PostedRequests : Prop :=
  (∀ (s : State) (A : Act) (d a b : Reg) (z : BitVec 2), s.Runs A →
      (∀ pl, remoteAt s s.cur (A.reg a) (2 ^ z.toNat) true true = .ok pl →
        ((s.elem s.cur).avail = 0 → Writes s A (.rst d a b z) d 1 4) ∧
        (1 ≤ (s.elem s.cur).avail → ∃ (u : State) (B : Act), exec (.rst d a b z) s = .next (u.setAct B) ∧ B.pc = A.pc + 4 ∧
          (d.toNat < 40 → B.reg d = 0) ∧ (∀ r, r ≠ d → B.reg r = A.reg r) ∧ u.mem = s.mem ∧
          B.digest = foldPlace s s.cur A.digest pl (leBytes (2 ^ z.toNat) (A.reg b).toNat) ∧
          (u.elem s.cur).avail = (s.elem s.cur).avail - 1 ∧
          u.Sent s.cur (some (rawOf s s.cur pl).1)
            (.rst (A.reg a) (rawOf s s.cur pl).2 (2 ^ z.toNat) (leWord (leBytes (2 ^ z.toNat) (A.reg b).toNat))))) ∧
      (∀ pl, remoteAt s s.cur (A.reg a) 1 false true = .ok pl →
        let src : EId × Nat := match pl with
          | .raw t o => (t, o)
          | .own p => (s.cur, p)
          | _ => (s.cur, 0)
        let off := match pl with
          | .own _ => localOffset s s.cur (A.reg a)
          | _ => src.2
        (rcopyOk (A.reg b) off = false → Traps s (.rcopy d a b) 0x19 0 (A.reg b)) ∧
        (∀ f, rcopyOk (A.reg b) off = true → ownDest s (rcopyDst (A.reg b)) (rcopyLen (A.reg b)) = some f →
          exec (.rcopy d a b) s = .next (s.takeFault s.cur f.asRemote)) ∧
        (rcopyOk (A.reg b) off = true → ownDest s (rcopyDst (A.reg b)) (rcopyLen (A.reg b)) = none →
          ((s.elem s.cur).avail = 0 → Writes s A (.rcopy d a b) d 1 4) ∧
          (1 ≤ (s.elem s.cur).avail → ∃ (u : State) (B : Act), exec (.rcopy d a b) s = .next (u.setAct B) ∧ B.pc = A.pc + 4 ∧
            (d.toNat < 40 → B.reg d = 0) ∧ (∀ r, r ≠ d → B.reg r = A.reg r) ∧ B.digest = A.digest ∧ u.mem = s.mem ∧
            (u.elem s.cur).avail = (s.elem s.cur).avail - 1 ∧
            u.Sent s.cur (some src.1) (.rcopy (A.reg a) src.2 (A.reg b) (s.leads s.cur)))))) ∧
  (∀ (s : State) (A : Act) (d a b : Reg) (o : BitVec 3) (z : BitVec 2), s.Runs A →
      let E := s.elem s.cur
      let waits := fun j => exec j s = .next (s.updElem s.cur (fun E => { E with stalled := true }))
      let goesOn := fun j => exec j s = .next ((s.updElem s.cur (fun E => { E with issued := none })).setAct (A.adv 4))
      let posts := fun (j : Instr) (pl : Place) (folded : Word) (body : Word → Body) =>
        ∃ (u : State) (B : Act) (x : Word), exec j s = .next u ∧ u.act = some B ∧ (d.toNat < 40 → B.reg d = 0) ∧
          (∀ r, r ≠ d → B.reg r = A.reg r) ∧ B.digest = foldPlace s s.cur A.digest pl (wordBytes folded) ∧
          (u.elem s.cur).avail = E.avail - 1 ∧ u.mem = s.mem ∧
          (∃ f, f ∈ u.fabric ∧ f.id = s.nextId ∧ f.src = s.cur ∧ f.dst = some (rawOf s s.cur pl).1 ∧ f.body = body x ∧
            (z.getLsbD 1 = true → ∀ g ∈ s.postedOf s.cur, g.id ∈ f.after)) ∧
          fld x 6 0 = fld (A.reg d) 6 0 ∧
          (z.getLsbD 0 = false → B.pc = A.pc + 4 ∧ (u.elem s.cur).stalled = E.stalled ∧ (u.elem s.cur).issued = none) ∧
          (z.getLsbD 0 = true → B.pc = A.pc ∧ (u.elem s.cur).stalled = true ∧ (u.elem s.cur).issued = some s.nextId)
      (∀ k, E.issued = some k →
        ((s.flight k).isSome = true → waits (.ramo d o a b z) ∧ waits (.rcas d a b z)) ∧
        (s.flight k = none → goesOn (.ramo d o a b z) ∧ goesOn (.rcas d a b z))) ∧
      (E.issued = none →
        (ramoDescOk (A.reg d) = false → Traps s (.ramo d o a b z) 0x19 0 (A.reg d) ∧ Traps s (.rcas d a b z) 0x19 0 (A.reg d)) ∧
        (∀ pl, ramoDescOk (A.reg d) = true → remoteAt s s.cur (A.reg a) 8 true false = .ok pl →
          (E.avail = 0 → Writes s A (.ramo d o a b z) d 1 4 ∧ Writes s A (.rcas d a b z) d 1 4) ∧
          (1 ≤ E.avail →
            posts (.ramo d o a b z) pl (A.reg b) (fun x => .ramo (A.reg a) (rawOf s s.cur pl).2 o (A.reg b) x) ∧
            posts (.rcas d a b z) pl (A.reg (b + 1))
              (fun x => .rcas (A.reg a) (rawOf s s.cur pl).2 (A.reg b) (A.reg (b + 1)) x)))))

/-- A posted write is applied at its target (R171, R190, R196): the bytes of RST, or the new doubleword of RAMO, or the new
one of RCAS where the old is the wanted one, stand in the target's scratchpad, and every other byte of memory stands. With MODE 2,
and with MODE 1 where a RAMO brings its doubleword to zero or an RCAS writes, the notification goes to the channel of the
descriptor, at the target where its bit 6 is set and at the issuer where it is not (an address of aperture 0 targets the issuer itself,
R352); otherwise the unit of allowance starts back. A fenced target refuses the write, and so does a doubleword with an uncorrectable
error that it does not wholly overwrite, or must read: memory and the error stand, and a notice with the reason, 4 or 9, starts back
in place of the unit (R121, R157); 4 where both apply is the model's choice (log 19).
A copy completes (R172): the bytes of the source stand at the destination in the issuer's scratchpad, and the completion message
with the address, the descriptor and the byte count is sent to the channel it names; that the source is read at this moment is
the model's choice (log 26), and bytes of the source in a unit with an uncorrectable error are free values (log 4). From a fenced source
nothing is copied, and the completion has status 4. For the leader of a frond the offsets are those of its pooled scratchpad. -/
def Obligations.PostedWritesApply : Prop :=
  (∀ (s : State) (k : Nat) (f : Flight) (t : EId), s.Arrives k f → s.MemOk → f.dst = some t →
      (∀ addr o n data, f.body = .rst addr o n data → postedRefusal s t o n = none →
        ∃ u : State, exec (.remoteStore k) s = .next u ∧ u.mem = memWrite s.mem (scratchKey t o) (leBytes n data.toNat) ∧
          u.Sent t (some f.src) .credit) ∧
      (let hurt := fun o : Nat => poisonIn s (scratchKey t (o / 8 * 8)) 8 ≠ none
       let why := if s.isFenced t then 4 else 9
       let refused := fun (i : Instr) (ws : List Word) => ∃ u : State, exec i s = .next u ∧ u.mem = s.mem ∧ u.poison = s.poison ∧
         u.Sent t (some f.src) (.notice (words8 (1 :: ws)))
       (∀ addr o n data, f.body = .rst addr o n data → (s.isFenced t = true ∨ hurt o ∧ n ≠ 8) →
         refused (.remoteStore k) [addr, BitVec.ofNat 64 (why + 2 ^ 8 + 2 ^ 12), data]) ∧
       (∀ addr o op b x, f.body = .ramo addr o op b x → (s.isFenced t = true ∨ hurt o) →
         refused (.remoteAtomic k) [addr, BitVec.ofNat 64 (why + (8 + op.toNat) * 2 ^ 8 + 2 ^ 13), b]) ∧
       (∀ addr o want new x, f.body = .rcas addr o want new x → (s.isFenced t = true ∨ hurt o) →
         refused (.remoteCas k) [addr, BitVec.ofNat 64 (why + 7 * 2 ^ 8 + 2 ^ 14), want, new])) ∧
      (let tells := fun (u : State) (addr x : Word) (ws : List Word) => ∃ m : Msg, m.words = words8 ws ∧
         u.Sent (unitOf t) (some (if x.getLsbD 6 = true ∧ fld addr 63 60 ≠ 0 then t else f.src))
           (.msg (BitVec.ofNat 4 (fld x 3 0)) m { credit := some f.src, notice := none, cmd := none })
       let place := fun o : Nat => bitsAt 2 60 ||| bitsAt t 32 ||| bitsAt o 0
       (∀ addr o op b x, f.body = .ramo addr o op b x → postedRefusal s t o 0 = none →
         let old := leWord (memRead s.mem (scratchKey t o) 8)
         let new := amoNew op old b
         let due := fld x 5 4 = 2 ∨ fld x 5 4 = 1 ∧ new = 0 ∧ old ≠ 0
         ∃ u : State, exec (.remoteAtomic k) s = .next u ∧ u.mem = memWrite s.mem (scratchKey t o) (wordBytes new) ∧
           (due → tells u addr x [4, place o, old, new, BitVec.ofNat 64 (f.src % 65536), b]) ∧
           (¬ due → u.Sent t (some f.src) .credit)) ∧
       (∀ addr o want new x, f.body = .rcas addr o want new x → postedRefusal s t o 0 = none →
         let old := leWord (memRead s.mem (scratchKey t o) 8)
         let due := fld x 5 4 = 2 ∨ fld x 5 4 = 1 ∧ old = want
         ∃ u : State, exec (.remoteCas k) s = .next u ∧
           (old = want → u.mem = memWrite s.mem (scratchKey t o) (wordBytes new)) ∧ (old ≠ want → u.mem = s.mem) ∧
           (due → tells u addr x [5, place o, old, if old = want then new else old,
             BitVec.ofNat 64 (f.src % 65536 + (if old = want then 65536 else 0)), want]) ∧
           (¬ due → u.Sent t (some f.src) .credit)))) ∧
  (∀ (s : State) (k : Nat) (f : Flight) (addr x : Word) (off : Nat) (pooled : Bool) (t : EId), s.Arrives k f → s.MemOk →
      f.body = .rcopy addr off x pooled → f.dst = some t →
      let from' := fun j : Nat => if pooled = true ∧ fld addr 63 60 = 0 then s.ownKey f.src (off + j) else scratchKey t off + j
      let completes := fun (u : State) (w : Nat) => ∃ m : Msg, m.words = words8 [3, addr, BitVec.ofNat 64 w, x] ∧
        u.Sent (unitOf f.src) (some f.src) (.msg (BitVec.ofNat 4 (rcopyQ x)) m { credit := some f.src, notice := none, cmd := none })
      (s.isFenced t = true → ∃ u : State, exec (.rcopyComplete k) s = .next u ∧ u.mem = s.mem ∧ completes u 4) ∧
      (s.isFenced t = false → ∃ (u : State) (bs : List Byte), exec (.rcopyComplete k) s = .next u ∧ bs.length = rcopyLen x ∧
        (∀ j, j < rcopyLen x → poisonIn s (from' j) 1 = none → bs[j]? = some (memGet s.mem (from' j))) ∧
        u.mem = (if pooled then (s.writeOwn f.src (rcopyDst x) bs).mem else memWrite s.mem (scratchKey f.src (rcopyDst x)) bs) ∧
        completes u (rcopyLen x * 2 ^ 16)))

/-- AMO and CAS (R188, R189, R196, R380). On an own doubleword and, from a core, on one of a member of its sorus (aperture 1): where
the access passes the checks and no release waits, the old doubleword replaces the register, the new one of the operation stands
at the address and is folded into the digest; CAS writes, and folds, only where the old is the register's value. A misaligned own
address takes code 0x11, a fenced member code 0x17, an uncorrectable error there code 0x18, and nothing is written. In every aperture that
the form admits (on a memory core, 8, and 9 for CAS, .swap and .add alone), and within a frond: a check that fails takes its fault
(0x10, 0x11, 0x12, 0x14, 0x08 or 0x16) with nothing done; a releasing form whose checks pass waits while the element has posted writes in
flight, those of earlier activations too, where R173 names the issuing one's: the model's choice (log 20); a doubleword that cannot be read takes that fault, marked as a write, with nothing written, and one that cannot be written
takes that fault; otherwise the old value is in the register, and the new one, if any, is written and folded. -/
def Obligations.OwnAtomics : Prop :=
  ∀ (s : State) (A : Act) (d a b : Reg) (o : BitVec 3) (z : BitVec 2), s.Runs A →
    let x := A.reg a
    let y := A.reg b
    let op := fun old : Word => if o = 0 then y else if o = 1 then old + y else if o = 2 then old &&& y else if o = 3 then old ||| y
      else if o = 4 then old ^^^ y else if o = 5 then (if y.toInt < old.toInt then y else old)
      else if o = 6 then (if old.toInt < y.toInt then y else old)
      else if y.toNat ≤ old.toNat then old - y else 0
    let free := z.getLsbD 1 = false ∨ s.postedOf s.cur = []
    (∀ p, s.OwnAccess A x p 8 [attrRD, attrWR] → free →
      let old := leWord (memRead s.mem (scratchKey s.cur p) 8)
      let leaves := fun v : Word => State.setAct { s.dropOlds s.cur p 8 with mem := memWrite s.mem (scratchKey s.cur p) (wordBytes v) }
        ({ A.setReg d old with digest := foldStore A.digest (locOwn 65536) p (wordBytes v) }.adv 4)
      exec (.amo d o a b z) s = .next (leaves (op old)) ∧
      (old = A.reg d → exec (.cas d a b z) s = .next (leaves y)) ∧
      (old ≠ A.reg d → Writes s A (.cas d a b z) d old 4)) ∧
    (∀ p, x = BitVec.ofNat 64 p → p + 8 ≤ 65536 → p % 8 ≠ 0 → s.frondOf s.cur = none →
      Traps s (.amo d o a b z) 0x11 x (MemX.word { size := 8, write := true }) ∧
      Traps s (.cas d a b z) 0x11 x (MemX.word { size := 8, write := true })) ∧
    (∀ t q, isCore s.cur = true → resolve s s.cur [0, 1] x = .ok (.raw t q) → x.toNat % 8 = 0 →
      touchesArea s s.cur (.raw t q) 8 = false → free →
      let old := leWord (memRead s.mem (scratchKey t q) 8)
      let leaves := fun v : Word => State.setAct
        { s.noteStore s.cur t q 8 with mem := memWrite s.mem (scratchKey t q) (wordBytes v) }
        ({ A.setReg d old with digest := foldPlace s s.cur A.digest (.raw t q) (wordBytes v) }.adv 4)
      (s.isFenced t = true → Traps s (.amo d o a b z) 0x17 x (MemX.word { size := 8, write := true }) ∧
        Traps s (.cas d a b z) 0x17 x (MemX.word { size := 8, write := true })) ∧
      (s.isFenced t = false → poisonIn s (scratchKey t q) 8 = some (scratchKey t q) →
        Traps s (.amo d o a b z) 0x18 x (MemX.word { size := 8, write := true }) ∧
        Traps s (.cas d a b z) 0x18 x (MemX.word { size := 8, write := true })) ∧
      (s.isFenced t = false → poisonIn s (scratchKey t q) 8 = none →
        exec (.amo d o a b z) s = .next (leaves (op old)) ∧
        (old = A.reg d → exec (.cas d a b z) s = .next (leaves y)) ∧
        (old ≠ A.reg d → Writes s A (.cas d a b z) d old 4))) ∧
    (let goes := fun (i : Instr) (aps : List Nat) (new : Word → Option Word) =>
       let need : Need := { aps := aps, rd := true, wr := true, natural := true }
       (∀ f, plan s s.cur need x 8 = .error f → exec i s = .next ((noteStopped s s.cur need x 8 f).takeFault s.cur f)) ∧
       (∀ ps, plan s s.cur need x 8 = .ok ps →
         (¬ free → exec i s = .next (s.updElem s.cur (fun E => { E with stalled := true }))) ∧
         (free →
           (∀ f, readPieces s ps 0 = .error f →
             exec i s = .next ((notePieces s s.cur ps).takeFault s.cur { f with extra := f.extra ||| 8 })) ∧
           (∀ bs, readPieces s ps 0 = .ok bs →
             (new (leWord bs) = none → exec i s = .next ((notePieces s s.cur ps).setAct ((A.setReg d (leWord bs)).adv 4))) ∧
             (∀ v t r, new (leWord bs) = some v → writePieces s ps (wordBytes v) 0 = (t, r) →
               (∀ f, r = some f → exec i s = .next ((notePieces t s.cur ps).takeFault s.cur f)) ∧
               (r = none → exec i s = .next ((notePieces t s.cur ps).setAct
                 ({ A.setReg d (leWord bs) with digest := foldPieces s s.cur A.digest ps (wordBytes v) }.adv 4)))))))
     let far := if isMemCore s.cur then [8] else [1]
     goes (.amo d o a b z) (0 :: far ++ if isMemCore s.cur = true ∧ o.toNat ≤ 1 then [9] else []) (fun old => some (op old)) ∧
     goes (.cas d a b z) (0 :: far ++ if isMemCore s.cur = true then [9] else []) (fun old => if old = A.reg d then some y else none))

/-- FENCE (R192) waits while the element has a posted write to a member of the scope in flight, one through aperture 0 being a write
to the issuer itself, whichever member of its frond holds the byte (R352); otherwise it goes on, and
changes nothing but the mark that makes every later message of the element to the scope follow its messages to the scope that are
in flight; the members are those that the scope has now, whatever SCW makes of it later (R194). Barriers (R193): BAR with a valid descriptor of kind NOW arms the slot with its entry as a barrier continuation, sends
its arrival and ends the activation; a malformed descriptor or an unbound channel takes code 0x07 with the scope and the
descriptor, an armed slot 0x06, an empty scope 0x19. An arrival is counted; it completes the episode when every member's count
has passed it, and then each continuation that arrived for the episode is fired with the episode's number, the scope index and the
number of members, that of a held member of a frond by a message to its holding queue (R356); every other slot stands. Scope entries (R69, R187, R194): SCW is
the supervisor's alone (code 0x03 elsewhere); a valid entry whose rectangles lie in the partition and whose episode is not
open is written, any other takes code 0x19 with its word 0; SCR reads a doubleword of an entry. The model's readings and choices:
that BAR's code 0x07 has the scope as its fault address (log 17), and that the members of a scope are read when an arrival is counted
(log 18). -/
def Obligations.FencesBarriersScopes : Prop :=
  ((∀ (s : State) (A : Act) (b : Reg), s.Runs A →
        ((∃ f, f ∈ s.postedOf s.cur ∧ ((∃ t, f.dst = some t ∧ t ∈ s.members s.cur b.toNat) ∨
            f.body.toItself = true ∧ s.cur ∈ s.members s.cur b.toNat)) →
          exec (.fence b) s = .next (s.updElem s.cur (fun E => { E with stalled := true }))) ∧
        ((∀ f, f ∈ s.postedOf s.cur → (∀ t, f.dst = some t → t ∉ s.members s.cur b.toNat) ∧
            (f.body.toItself = true → s.cur ∉ s.members s.cur b.toNat)) →
          ∃ m, exec (.fence b) s = .next ((s.updElem s.cur (fun E => { E with fences := m })).setAct (A.adv 4)) ∧
            ((s.fabric.filter (fun f => f.src == s.cur && f.toMember (s.members s.cur b.toNat) (b.toNat == 3))) = [] →
              m = (s.elem s.cur).fences) ∧
            ∀ f ∈ s.fabric, ∀ dst body, f.src = s.cur → f.toMember (s.members s.cur b.toNat) (b.toNat == 3) = true →
              ({ f with dst := dst, body := body } : Flight).toMember (s.members s.cur b.toNat) (b.toNat == 3) = true →
              ∀ u : State, (u.elem s.cur).fences = m → f.id ∈ u.afterOf s.cur dst body)) ∧
    (∀ (s : State) (A : Act) (a b : Reg), s.Runs A →
        let x := A.reg a
        let q := fld x 19 16
        let c := s.chan s.cur A.frond q
        let bad := fld x 63 24 ≠ 0 ∨ x.getLsbD 0 = true ∨ fld x 23 20 ≠ 0 ∨ c.bind = none
        (bad → Traps s (.bar a b) 0x07 (BitVec.ofNat 64 b.toNat) x) ∧
        (¬ bad → c.cont ≠ none → Traps s (.bar a b) 0x06 0 x) ∧
        (¬ bad → c.cont = none → s.members s.cur b.toNat = [] → Traps s (.bar a b) 0x19 0 (BitVec.ofNat 64 b.toNat)) ∧
        (¬ bad → c.cont = none → s.members s.cur b.toNat ≠ [] → ∃ t : State, exec (.bar a b) s = .next t ∧
          (t.elem s.cur).act = none ∧
          (t.chan s.cur A.frond q).cont = some { entry := x.setWidth 16, kind := .barrier, fired := none } ∧
          t.Sent s.cur (some (barrierDst s.cur b.toNat)) (.barrier b.toNat A.frond (BitVec.ofNat 4 q)))) ∧
    (∀ (s : State) (k : Nat) (f : Flight) (C : Ctx) (sc : Nat) (fr : Bool) (q : BitVec 4), s.Arrives k f →
        f.body = .barrier sc fr q → tget s.ctxs f.ctx = some C →
        let B := C.barrier sc (barrierPlace f.src sc)
        let ms := C.scopeMembers f.src sc
        let count := fun e => (tget B.counts e).getD 0 + (if e = f.src then 1 else 0)
        let ep := if ∀ m ∈ ms, B.episode < count m then B.episode + 1 else B.episode
        let due := (B.waiting ++ [(f.src, fr, q, count f.src)]).filter (fun w => decide (w.2.2.2 ≤ ep))
        ∃ (t : State) (D : Ctx), exec (.barrierArrival k) s = .next t ∧ t.mem = s.mem ∧ tget t.ctxs f.ctx = some D ∧
          (D.barrier sc (barrierPlace f.src sc)).episode = ep ∧
          (∀ e, (tget (D.barrier sc (barrierPlace f.src sc)).counts e).getD 0 = count e) ∧
          (∀ e fr' q', (∀ w ∈ due, ¬ (w.1 = e ∧ w.2.1 = fr' ∧ w.2.2.1.toNat = q')) → t.chan e fr' q' = s.chan e fr' q') ∧
          (∀ w ct, due.filter (fun v => v.1 == w.1 && v.2.1 == w.2.1 && v.2.2.1 == w.2.2.1) = [w] →
            (s.chan w.1 w.2.1 w.2.2.1.toNat).cont = some ct → ct.kind.awaitsFiring = true → ct.fired = none →
            let ws := words8 [BitVec.ofNat 64 w.2.2.2, BitVec.ofNat 64 sc, BitVec.ofNat 64 ms.length]
            let held := w.2.1 = false ∧ s.holdsFirings w.1 = true
            (¬ held → (t.chan w.1 w.2.1 w.2.2.1.toNat).cont = some { ct with fired := some ws }) ∧
            (held → ∃ (m : Msg) (r : Ret), t.Sent (barrierDst f.src sc) (some w.1) (.msg w.2.2.1 m r) ∧ m.kind = .firing ∧ m.words = ws)))) ∧
  (∀ (s t : State) (A : Act) (d a b : Reg) (C : Ctx) (bs : List Byte), s.Runs A →
      (s.isSup = false → Traps s (.scw a) 0x03 0 (insnExtra (.scw a) 0)) ∧
      (s.isSup = true → loadBytes s { aps := [0], rd := true, align := 8 } (A.reg a) 24 = (t, .ok bs) →
        t.ctxAt s.cur = some C →
        ((scopeOk bs && C.coversOwn (scopeOf bs) && !C.episodeOpen (scopeIndex bs)) = true →
          exec (.scw a) s = .next ((t.updCtx s.ctxNo (fun C => C.setScope (scopeIndex bs) (scopeOf bs))).setAct (A.adv 4))) ∧
        ((scopeOk bs && C.coversOwn (scopeOf bs) && !C.episodeOpen (scopeIndex bs)) = false →
          exec (.scw a) s = .next (t.takeFault t.cur { code := 0x19, faddr := 0, extra := leWord (bs.take 4) }))) ∧
      (fld (A.reg a) 63 5 = 0 → (A.reg b).toNat ≤ 2 → s.ctxAt s.cur = some C →
        Writes s A (.scr d a b) d (C.scopeWord (A.reg a).toNat (A.reg b).toNat) 4))

/-! ### Messages, channels, bins and events (R116–R144) -/

/-- SEND, SENDB and SENDH (R118, R123, R128, R129, R131). A message address that R118 refuses takes code 0x20, a malformed
source descriptor code 0x21, a source that fails its checks their fault. Without allowance the status is 1 and nothing is sent;
with it, a unit is taken, one message with mb0–mb7 (SENDB: mb0–mb5, the length, and the bytes of the source) is on its way to the
channel that the address names, with the words of its notice, and the status is 0. That SENDB judges the address before its source
descriptor is the model's reading (log 23). -/
def Obligations.Sends : Prop :=
  ∀ (s : State) (A : Act) (d a b : Reg), s.Runs A →
    let x := A.reg a
    let y := A.reg b
    let ok := fld y 63 29 = 0 ∧ 1 ≤ fld y 28 16 ∧ fld y 28 16 ≤ 4096 ∧ fld y 15 0 + fld y 28 16 ≤ 0x10000
    (fld x 63 4 = 0 → msgTarget s.cur x = .ok (some s.cur, x.setWidth 4)) ∧
    (fld x 63 60 = 2 → fld x 59 48 = 0 → fld x 31 4 = 0 → msgTarget s.cur x =
      .ok (if fld x 47 45 < 2 ∧ fld x 44 38 ≤ 67 ∧ fld x 37 32 ≤ 33 then some (fld x 47 32) else none, x.setWidth 4)) ∧
    (∀ f, msgTarget s.cur x = .error f → Traps s (.send d a) 0x20 x 0 ∧ Traps s (.sendb d a b) 0x20 x 0) ∧
    (∀ dst q, msgTarget s.cur x = .ok (dst, q) →
      ((s.elem s.cur).avail = 0 → Writes s A (.send d a) d 1 4) ∧
      (1 ≤ (s.elem s.cur).avail → ∃ (u : State) (B : Act) (m : Msg) (r : Ret), exec (.send d a) s = .next (u.setAct B) ∧
        s.Posted u A B d 1 ∧ u.Sent s.cur dst (.msg q m r) ∧ m.kind = .plain ∧ m.words = A.mb ∧ r.credit = some s.cur ∧
        r.notice = some { in1 := x, in2 := 0, rest := A.mb.toList.take 5 }) ∧
      (¬ ok → Traps s (.sendb d a b) 0x21 (BitVec.ofNat 64 (fld y 15 0)) y) ∧
      (ok → ∀ f, ownCheck s (fld y 15 0) (fld y 28 16) = some f → exec (.sendb d a b) s = .next (s.takeFault s.cur f)) ∧
      (ok → ownCheck s (fld y 15 0) (fld y 28 16) = none → (s.elem s.cur).avail = 0 → Writes s A (.sendb d a b) d 1 4) ∧
      (ok → ownCheck s (fld y 15 0) (fld y 28 16) = none → 1 ≤ (s.elem s.cur).avail →
        ∀ bs, ownSource s (fld y 15 0) (fld y 28 16) = .ok bs →
        ∃ (u : State) (B : Act) (m : Msg) (r : Ret), exec (.sendb d a b) s = .next (u.setAct B) ∧ s.Posted u A B d 1 ∧
          u.Sent s.cur dst (.bulk q m bs r) ∧ m.region = true ∧ r.credit = some s.cur ∧
          (∀ j, j < 6 → vget 0 m.words j = vget 0 A.mb j) ∧ vget 0 m.words 6 = BitVec.ofNat 64 bs.length)) ∧
    ((s.elem s.cur).avail = 0 → Writes s A (.sendh d) d 1 4) ∧
    (1 ≤ (s.elem s.cur).avail → ∃ (u : State) (B : Act) (r : Ret), exec (.sendh d) s = .next (u.setAct B) ∧
      s.Posted u A B d 1 ∧ u.Sent s.cur (some hostLink) (.hostRec A.mb.toList r) ∧ r.credit = some s.cur)

/-- Work queues (R123, R130): SENDW of a malformed descriptor or an empty scope takes code 0x23; otherwise the item is on its way
to the work-queue unit of the scope. The unit accepts an item while it holds fewer than 256 of the context, and then returns the
unit of allowance. It delivers the oldest item of a queue to the first member, in enumeration order, that is idle on the item's
channel, and drops it from the queue. That an item keeps the members of its sending where the scope has none left, and that of
several queues the one whose oldest item was accepted first is served, are readings of the model (log 24). -/
def Obligations.WorkQueues : Prop :=
  ∀ (s : State),
    (∀ (A : Act) (d a : Reg) (C : Ctx), s.Runs A → s.ctxAt s.cur = some C →
      let x := A.reg a
      let bad := fld x 7 5 ≠ 0 ∨ fld x 63 12 ≠ 0 ∨ C.scopeMembers s.cur (fld x 4 0) = []
      (bad → Traps s (.sendw d a) 0x23 0 x) ∧
      (¬ bad → (s.elem s.cur).avail = 0 → Writes s A (.sendw d a) d 1 4) ∧
      (¬ bad → 1 ≤ (s.elem s.cur).avail → ∃ (u : State) (B : Act) (m : Msg) (r : Ret), exec (.sendw d a) s = .next (u.setAct B) ∧
        s.Posted u A B d 1 ∧ m.words = A.mb ∧ r.credit = some s.cur ∧
        u.Sent s.cur (some (enginePort (workDie C s.cur (fld x 4 0))))
          (.work (fld x 4 0) (C.scopeMembers s.cur (fld x 4 0)) (BitVec.ofNat 4 (fld x 11 8)) m r))) ∧
    (∀ k f C sc ms q m r, s.Arrives k f → f.body = .work sc ms q m r → tget s.ctxs f.ctx = some C →
      let die := eDie (f.dst.getD f.src)
      ((C.work.filter (fun i => i.die == die)).length < 256 → ∃ (t : State) (D : Ctx) (i : WorkItem),
        exec (.workItemAccept k) s = .next t ∧ tget t.ctxs f.ctx = some D ∧ D.work = C.work ++ [i] ∧
        i.die = die ∧ i.scope = sc ∧ i.q = q ∧ i.msg = m ∧ t.mem = s.mem ∧
        i.members = (if C.scopeMembers f.src sc = [] then ms else C.scopeMembers f.src sc) ∧
        (∀ e, r.credit = some e → t.Sent (f.dst.getD f.src) (some e) .credit)) ∧
      (256 ≤ (C.work.filter (fun i => i.die == die)).length → exec (.workItemAccept k) s = .next s)) ∧
    (∀ ctx die C, tget s.ctxs ctx = some C → s.moving ctx = true → deliverable s die C.work [] ≠ [] →
      (∀ p ∈ deliverable s die C.work [], (s.chan p.2 (s.leads p.2) p.1.q.toNat).queue.length < 4 ∧ s.releases p.2 = false) →
      ∃ (t : State) (D : Ctx) (before after : List WorkItem) (i : WorkItem) (e : EId),
        exec (.workItemDeliver ctx die) s = .next t ∧ tget t.ctxs ctx = some D ∧
        C.work = before ++ i :: after ∧ D.work = before ++ after ∧ i.die = die ∧
        (∀ j ∈ before, j.die = die → (∃ j' ∈ before, j'.die = die ∧ j'.scope = j.scope ∧
          j'.members.find? (fun e => s.idleOn e j'.q.toNat) = none)) ∧
        (∀ j ∈ before, j.die = die → j.scope ≠ i.scope) ∧ i.members.find? (fun e => s.idleOn e i.q.toNat) = some e ∧
        (t.chan e (s.leads e) i.q.toNat).queue = (s.chan e (s.leads e) i.q.toNat).queue ++ [i.msg])

/-- Acceptance of messages and host records (R119, R120, R122, R123, R131). A message to a place that can take it joins the
holding queue while that has fewer than four, its unit starts back, and a bulk message's bytes first stand in the receive region,
whose offset its eighth word names; with four it waits. A message that the destination refuses is dropped, and its notice with the
reason starts back; a bulk message too long for its region is refused before room is looked at (log 19). A fault packet, the completion
of a matrix command and a firing wait for a fenced element instead (R278, R366; the packet in flight is the model's reading, log 39), and
a firing whose frond has been released reaches its slot (R356). A host record is written
at the ring's next entry and W rises; it waits while the ring is full, and a failing host write does not stop it (log 52). -/
def Obligations.MessageAcceptance : Prop :=
  ∀ (s : State) (k : Nat) (f : Flight), s.Arrives k f → s.MemOk →
    (∀ q m r e, f.body = .msg q m r → f.dst = some e → s.refusal f = none → waitsForRelease s e m = false → s.releases e = false →
      (m.kind = .firing → s.holdsFirings e = true) →
      let c := s.chan e (s.leads e) q.toNat
      (c.queue.length < 4 → ∃ t : State, exec (.messageAccept k) s = .next t ∧ t.mem = s.mem ∧
        (t.chan e (s.leads e) q.toNat).queue = c.queue ++ [m] ∧
        (∀ e', r.credit = some e' → t.Sent e (some e') .credit)) ∧
      (4 ≤ c.queue.length → exec (.messageAccept k) s = .next s)) ∧
    (∀ q m r e b pay, f.body = .bulk q m pay r → f.dst = some e → s.refusal f = none → s.isHeldMember e = false →
      let c := s.chan e (s.leads e) q.toNat
      c.bind = some b →
      (pay.length ≤ 256 * b.rsize.toNat → c.queue.length < 4 → c.regionBusy = false → s.frondOf e = none →
        b.wp.toNat + 256 * (1 + b.rsize.toNat) ≤ 65536 →
        ∃ t : State, exec (.bulkMessageAccept k) s = .next t ∧
          t.mem = memWrite s.mem (scratchKey e (b.wp.toNat + 256)) pay ∧
          (t.chan e false q.toNat).queue =
            c.queue ++ [{ m with words := vset m.words 7 (BitVec.ofNat 64 (b.wp.toNat + 256)) }] ∧
          (t.chan e false q.toNat).regionBusy = m.region) ∧
      (pay.length ≤ 256 * b.rsize.toNat → (4 ≤ c.queue.length ∨ c.regionBusy = true) → exec (.bulkMessageAccept k) s = .next s) ∧
      (256 * b.rsize.toNat < pay.length → ∀ n, r.notice = some n → ∃ t : State, exec (.bulkMessageAccept k) s = .next t ∧
        t.mem = s.mem ∧ t.Sent e (some f.src) (.notice (words8 ([1, n.in1, n.in2 ||| 5] ++ n.rest))))) ∧
    (∀ q m r e c, f.body = .msg q m r → f.dst = some e → s.refusal f = none → m.kind = .firing → s.holdsFirings e = false →
      (s.chan e false q.toNat).cont = some c → c.kind.awaitsFiring = true → c.fired = none →
      ∃ t : State, exec (.messageAccept k) s = .next t ∧ t.mem = s.mem ∧
        (t.chan e false q.toNat).cont = some { c with fired := some m.words }) ∧
    (∀ q m r, f.body = .msg q m r → s.refusal f = some 4 → (r.cmd ≠ none ∨ m.kind = .packet ∨ m.kind = .firing) →
      exec (.messageAccept k) s = .next s) ∧
    (∀ q m r n why, f.body = .msg q m r → s.refusal f = some why →
      (why = 4 → r.cmd = none ∧ m.kind ≠ .packet ∧ m.kind ≠ .firing) → r.notice = some n →
      ∃ t : State, exec (.messageAccept k) s = .next t ∧ t.mem = s.mem ∧
        (∀ e fr q, t.chan e fr q = s.chan e fr q) ∧
        t.Sent (f.dst.getD f.src) (some f.src) (.notice (words8 ([1, n.in1, n.in2 ||| BitVec.ofNat 64 why] ++ n.rest)))) ∧
    (∀ ws r C, f.body = .hostRec ws r → tget s.ctxs f.ctx = some C →
      (C.hq.en = true → C.hq.full s f.ctx = true → exec (.hostRecordWrite k) s = .next s) ∧
      (C.hq.en = true → C.hq.full s f.ctx = false → ∃ (t : State) (D : Ctx), exec (.hostRecordWrite k) s = .next t ∧
        tget t.ctxs f.ctx = some D ∧ D.hq = { C.hq with w := C.hq.w + 1 } ∧
        memRead t.mem (hostKey (C.hq.at f.ctx (64 + 64 * (C.hq.w % 2 ^ C.hq.log2n)))) 64 =
          (List.range 8).flatMap (fun j => wordBytes (ws.getD j 0)) ∧
        memRead t.mem (hostKey (C.hq.at f.ctx 0)) 8 = wordBytes (BitVec.ofNat 64 (C.hq.w + 1))) ∧
      (C.hq.en = false → ∀ n, r.notice = some n → ∃ t : State, exec (.hostRecordWrite k) s = .next t ∧ t.mem = s.mem ∧
        t.Sent (f.dst.getD f.src) (some f.src) (.notice (words8 ([1, n.in1, n.in2 ||| 6] ++ n.rest)))))

/-- Allowance and notices (R123–R125, R132): ALLOW reads AVAIL, and replaces the armed allowance notice, which is due at once
when AVAIL has reached it, and enters the buffer as soon as that has room; a malformed descriptor takes code 0x2C. A returned unit
raises AVAIL, to 16 at most (log 46). An undeliverable notice raises UNDEL and AVAIL; with NEN it enters the buffer, under the
channel that NQ then names (log 18), while that holds fewer than four, and otherwise sets OVF. The oldest notice enters its
channel's holding queue as soon as there is room. That it holds back the others while there is none, and that an undeliverable notice takes
the free entry before an allowance notice that its unit makes due, are the model's choices (log 18). -/
def Obligations.AllowanceAndNotices : Prop :=
  ∀ (s : State),
    (∀ (A : Act) (d a : Reg), s.Runs A →
      let x := A.reg a
      let E := s.elem s.cur
      let n := fld x 4 0
      let bad := fld x 7 5 ≠ 0 ∨ fld x 63 12 ≠ 0 ∨ 16 < n
      (bad → Traps s (.allow d a) 0x2C 0 x) ∧
      (¬ bad → ∃ m l, exec (.allow d a) s = .next ((s.setElem s.cur { E with allowArm := m, notices := l }).setAct
          ((A.setReg d (BitVec.ofNat 64 E.avail)).adv 4)) ∧
        (n = 0 → m = none ∧ l = E.notices) ∧
        (n ≠ 0 → E.avail < n → m = some (n, BitVec.ofNat 4 (fld x 11 8), false) ∧ l = E.notices) ∧
        (n ≠ 0 → n ≤ E.avail → 4 ≤ E.notices.length → m = some (n, BitVec.ofNat 4 (fld x 11 8), true) ∧ l = E.notices) ∧
        (n ≠ 0 → n ≤ E.avail → E.notices.length < 4 → m = none ∧
          l = E.notices ++ [{ q := BitVec.ofNat 4 (fld x 11 8), words := words8 [2, BitVec.ofNat 64 E.avail] }]))) ∧
    (∀ k f e, s.Arrives k f → f.dst = some e → f.body = .credit → ∃ t : State, exec (.allowanceReturn k) s = .next t ∧
      t.mem = s.mem ∧ (t.elem e).avail = min 16 ((s.elem e).avail + 1) ∧ ∀ e', e' ≠ e → t.elem e' = s.elem e') ∧
    (∀ k f e ws, s.Arrives k f → f.dst = some e → f.body = .notice ws → ∃ t : State,
      exec (.undeliverableNotice k) s = .next t ∧ t.mem = s.mem ∧ (t.elem e).avail = min 16 ((s.elem e).avail + 1) ∧
      (t.elem e).undel = (s.elem e).undel + 1 ∧ (∀ e', e' ≠ e → t.elem e' = s.elem e') ∧
      ((s.elem e).nen = true → (s.elem e).notices.length < 4 → (t.elem e).ovf = (s.elem e).ovf ∧
        ∃ l, (t.elem e).notices = (s.elem e).notices ++ { q := (s.elem e).nq, words := ws } :: l) ∧
      ((s.elem e).nen = true → 4 ≤ (s.elem e).notices.length → (t.elem e).ovf = true ∧
        (t.elem e).notices = (s.elem e).notices)) ∧
    (∀ e n l, (s.elem e).notices = n :: l → s.isFenced e = false → s.moving ((s.ctxOf e).getD 0) = true → s.releases e = false →
      let c := s.chan e (s.leads e) n.q.toNat
      (c.queue.length < 4 → ∃ (t : State) (m : Msg) (rest : List Notice), exec (.noticeDeliver e) s = .next t ∧
        (t.chan e (s.leads e) n.q.toNat).queue = c.queue ++ [m] ∧ m.words = n.words ∧ (t.elem e).notices = l ++ rest) ∧
      (4 ≤ c.queue.length → exec (.noticeDeliver e) s = .next s))

/-- BIND, UNBIND and PRIO (R133, R134), on the channels of the activation's own set: a malformed word takes code 0x22; BIND
replaces the binding and clears the wait count; UNBIND of a channel that awaits no firing clears binding and continuation, and
otherwise takes code 0x25; PRIO replaces priority and floor of a bound channel, and otherwise takes code 0x24. Messages held and
every other channel stand. That PRIO and UNBIND judge the reserved bits first
is the model's reading (log 23). -/
def Obligations.Bindings : Prop :=
  ∀ (s : State) (A : Act) (a : Reg), s.Runs A → (A.frond = true → s.frondOf s.cur ≠ none) →
    let x := A.reg a
    let q := fld x 3 0
    let c := s.chan s.cur A.frond q
    let ok := fld x 7 4 = 0 ∧ fld x 63 56 = 0 ∧ x.getLsbD 16 = false ∧ fld x 39 32 = 0 ∧
      fld x 47 32 + 256 * (1 + fld x 55 48) ≤ 0x10000 ∧ regionOverlap (s.chansOf A) q (bindingOf x) = false
    let others := fun t : State => ∀ q', q' ≠ q → t.chan s.cur A.frond q' = s.chan s.cur A.frond q'
    (¬ ok → Traps s (.bind a) 0x22 0 x) ∧
    (ok → ∃ t : State, exec (.bind a) s = .next (t.setAct (A.adv 4)) ∧ others t ∧
      ∃ p : Binding, t.chan s.cur A.frond q = { c with bind := some p, wait := 0 } ∧ p.prio.toNat = fld x 14 8 ∧
        p.floor = x.getLsbD 15 ∧ p.entry.toNat = fld x 31 16 ∧ p.wp.toNat = fld x 47 32 ∧ p.rsize.toNat = fld x 55 48) ∧
    (fld x 63 4 ≠ 0 → Traps s (.unbind a) 0x22 0 x) ∧
    (fld x 63 4 = 0 → c.bind = none → Goes s (.unbind a) (A.adv 4)) ∧
    (fld x 63 4 = 0 → c.bind ≠ none → (∃ k, c.cont = some k ∧ k.kind.awaitsFiring = true) → Traps s (.unbind a) 0x25 0 x) ∧
    (fld x 63 4 = 0 → c.bind ≠ none → (∀ k, c.cont = some k → k.kind.awaitsFiring = false) →
      ∃ t : State, exec (.unbind a) s = .next (t.setAct (A.adv 4)) ∧ others t ∧
        t.chan s.cur A.frond q = { c with bind := none, cont := none }) ∧
    (¬ (fld x 7 4 = 0 ∧ fld x 63 16 = 0) → Traps s (.prio a) 0x22 0 x) ∧
    (fld x 7 4 = 0 → fld x 63 16 = 0 → c.bind = none → Traps s (.prio a) 0x24 0 x) ∧
    (∀ b, fld x 7 4 = 0 → fld x 63 16 = 0 → c.bind = some b → ∃ t : State, exec (.prio a) s = .next (t.setAct (A.adv 4)) ∧
      others t ∧ t.chan s.cur A.frond q =
        { c with bind := some { b with prio := BitVec.ofNat 7 (fld x 14 8), floor := x.getLsbD 15 } })

/-- Bins (R141–R143): BINCFG with a count of zero removes a set, and a valid one on a set that is absent or sealed makes it
and writes the initial words of every bin; BINSEAL seals and reads the number of items applied; BINRD reads the first
doubleword of a bin. BINCFG and BINSEAL are releases: they wait for the core's posted writes in flight (R178). Within a frond each
takes code 0x63. BINCFG takes code 0x26 for a reserved bit, a field out of range, or an extent beyond the scratchpad or over another
set's, and code 0x27 for a set that is open; BINSEAL and BINRD take 0x26 for a reserved bit and 0x28 for a set that is absent; that a frond's 0x63 comes first and 0x26 before 0x27, and what the fault address of 0x26 holds, are the model's choices
(log 23). An item message for an open set applies its items in order and
returns its unit; a sealed set refuses it whole with reason 7, an absent one with reason 8. What an item does (R141): it goes to the bin
of key mod COUNT, and every other byte stands; the bin's count rises modulo 2^32, and the value
of the bin's kind takes the item's value: kind 1 their sum modulo 2^32, kind 2 the larger, kind 3 the smaller; a kind 4 bin
keeps its smallest values, rising. -/
def Obligations.Bins : Prop :=
  (∀ (s : State),
      (∀ (A : Act) (d a b : Reg), s.Runs A → A.frond = true →
        Traps s (.bincfg a b) 0x63 0 0 ∧ Traps s (.binseal d a) 0x63 0 0 ∧ Traps s (.binrd d a b) 0x63 0 0) ∧
      (∀ (A : Act) (d a b : Reg), s.Runs A → s.frondOf s.cur = none → s.MemOk →
        let x := A.reg a
        let i := fld x 2 0
        let E := s.elem s.cur
        let waits := fun j => exec j s = .next (s.updElem s.cur (fun E => { E with stalled := true }))
        (A.frond = false → (x.getLsbD 3 = true ∨ x.getLsbD 7 = true ∨ fld x 15 11 ≠ 0 ∨ fld x 63 29 ≠ 0) →
          Traps s (.bincfg a b) 0x26 (if fld x 28 16 = 0 then 0 else A.reg b) x) ∧
        (A.frond = false → x.getLsbD 3 = false → x.getLsbD 7 = false → fld x 15 11 = 0 → fld x 63 29 = 0 →
          (∀ B : BinSet, B.kind = BitVec.ofNat 3 (fld x 6 4) → B.capl = BitVec.ofNat 3 (fld x 10 8) → B.count = fld x 28 16 →
            B.base = fld (A.reg b) 15 0 → 1 ≤ B.count →
            let ok := fld x 6 4 ≤ 4 ∧ B.count ≤ 4096 ∧ (if fld x 6 4 = 4 then 2 ≤ fld x 10 8 ∧ fld x 10 8 ≤ 6 else fld x 10 8 = 0) ∧
              fld (A.reg b) 63 16 = 0 ∧ B.base % 64 = 0 ∧ B.base + B.extent ≤ 0x10000 ∧ binOverlap E i B = false
            (¬ ok → Traps s (.bincfg a b) 0x26 (A.reg b) x) ∧
            (∀ O, ok → vget none E.bins i = some O → O.isSealed = false → Traps s (.bincfg a b) 0x27 0 x)) ∧
          (fld x 28 16 = 0 → s.postedOf s.cur ≠ [] → waits (.bincfg a b)) ∧
          (fld x 28 16 = 0 → s.postedOf s.cur = [] → exec (.bincfg a b) s =
            .next ((s.setElem s.cur { E with bins := vset E.bins i none }).setAct (A.adv 4))) ∧
          (∀ B : BinSet, B.kind = BitVec.ofNat 3 (fld x 6 4) → B.capl = BitVec.ofNat 3 (fld x 10 8) → B.count = fld x 28 16 →
            B.base = (A.reg b).toNat → B.applied = 0 → B.isSealed = false → 1 ≤ B.count → B.count ≤ 4096 → fld x 6 4 ≤ 4 →
            (if fld x 6 4 = 4 then 2 ≤ fld x 10 8 ∧ fld x 10 8 ≤ 6 else fld x 10 8 = 0) → B.base % 64 = 0 →
            B.base + B.extent ≤ 0x10000 → binOverlap E i B = false → (∀ O, vget none E.bins i = some O → O.isSealed = true) →
            (s.postedOf s.cur ≠ [] → waits (.bincfg a b)) ∧
            (s.postedOf s.cur = [] → ∃ t : State, exec (.bincfg a b) s = .next (t.setAct (A.adv 4)) ∧
              vget none (t.elem s.cur).bins i = some B ∧
              (∀ n, n < B.count → memRead t.mem (scratchKey s.cur (B.base + B.stride * n)) B.stride =
                wordsBytes (binInit B.kind B.capl)) ∧
              (∀ key, key < scratchKey s.cur B.base ∨ scratchKey s.cur (B.base + B.extent) ≤ key →
                memGet t.mem key = memGet s.mem key)))) ∧
        (A.frond = false → fld x 63 3 ≠ 0 → Traps s (.binseal d a) 0x26 0 x ∧ Traps s (.binrd d a b) 0x26 0 x) ∧
        (A.frond = false → fld x 63 3 = 0 → vget none E.bins i = none →
          Traps s (.binseal d a) 0x28 0 x ∧ Traps s (.binrd d a b) 0x28 0 x) ∧
        (∀ B, A.frond = false → fld x 63 3 = 0 → vget none E.bins i = some B →
          (s.postedOf s.cur ≠ [] → waits (.binseal d a)) ∧
          (s.postedOf s.cur = [] → exec (.binseal d a) s = .next ((s.setElem s.cur { E with bins := vset E.bins i (some { B with isSealed := true }) }).setAct
            ((A.setReg d (BitVec.ofNat 64 B.applied)).adv 4))) ∧
          (B.count ≤ (A.reg b).toNat → Traps s (.binrd d a b) 0x26 0 x) ∧
          ((A.reg b).toNat < B.count → 8 ≤ B.stride → B.base + B.extent ≤ 65536 → s.poison = [] →
            Writes s A (.binrd d a b) d (leWord (memRead s.mem (scratchKey s.cur (B.base + B.stride * (A.reg b).toNat)) 8)) 4))) ∧
      (∀ k f set items r e, s.Arrives k f → f.body = .items set items r → f.dst = some e → s.refusal f = none →
        s.isComposed e = false →
        (∀ B, vget none (s.elem e).bins set.toNat = some B → B.isSealed = false → ∃ t : State,
          exec (.binItems k) s = .next t ∧
          vget none (t.elem e).bins set.toNat = some { B with applied := B.applied + items.length } ∧
          t.mem = (items.foldl (fun s it => s.applyItem e B it) s).mem ∧
          (∀ e', r.credit = some e' → t.Sent e (some e') .credit)) ∧
        (∀ B n, vget none (s.elem e).bins set.toNat = some B → B.isSealed = true → r.notice = some n → ∃ t : State,
          exec (.binItems k) s = .next t ∧ t.mem = s.mem ∧
          t.Sent e (some f.src) (.notice (words8 ([1, n.in1, n.in2 ||| 7] ++ n.rest)))) ∧
        (∀ n, vget none (s.elem e).bins set.toNat = none → r.notice = some n → ∃ t : State,
          exec (.binItems k) s = .next t ∧ t.mem = s.mem ∧
          t.Sent e (some f.src) (.notice (words8 ([1, n.in1, n.in2 ||| 8] ++ n.rest)))))) ∧
  (∀ (s : State) (e : EId) (B : BinSet) (key v : BitVec 32), s.frondOf e = none → s.MemOk → s.poison = [] → B.kind.toNat ≤ 4 →
      1 ≤ B.count → B.base + B.extent ≤ 65536 →
      let o := scratchKey e (B.base + B.stride * (key.toNat % B.count))
      let bin := fun m : Memory => (List.range (B.stride / 4)).map (fun j => leNat (memRead m (o + 4 * j) 4))
      let t := s.applyItem e B (key, v)
      bin t.mem = binApply B.kind B.capl (bin s.mem) v ∧
      ∀ k, k < o ∨ o + B.stride ≤ k → memGet t.mem k = memGet s.mem k) ∧
  (∀ capl : BitVec 3, binInit 0 capl = [0, 0] ∧ binInit 1 capl = [0, 0] ∧ binInit 2 capl = [0, 0] ∧ binInit 3 capl = [0, 0xFFFFFFFF] ∧
      binInit 4 capl = 0 :: List.replicate (2 ^ capl.toNat - 1) 0xFFFFFFFF) ∧
  (∀ (kind capl : BitVec 3) (c old : Nat) (v : BitVec 32) (l : List Nat),
      let c1 := (c + 1) % 2 ^ 32
      binApply 0 capl [c, old] v = [c1, old] ∧
      binApply 1 capl [c, old] v = [c1, (old + v.toNat) % 2 ^ 32] ∧
      binApply 2 capl [c, old] v = [c1, max old v.toNat] ∧
      binApply 3 capl [c, old] v = [c1, min old v.toNat] ∧
      (4 ≤ kind.toNat → ∃ m, binApply kind capl (c :: l) v = c1 :: m ∧ m.Pairwise (· ≤ ·) ∧
        m.length = min (2 ^ capl.toNat - 1) (l.length + 1) ∧
        ∃ rest, (m ++ rest).Perm (v.toNat :: l) ∧ ∀ x ∈ m, ∀ y ∈ rest, x ≤ y))

/-- SENDK (R139, R140): a malformed descriptor takes code 0x2B, an empty scope 0x23; with less allowance than there are
destinations the status is 1 and nothing is sent. Otherwise one unit is taken for each, and the key and value of every lane that
the mask selects are on their way, in an item message for the set, to the candidate that the key selects. That 0x2B comes before 0x23 is the
model's choice (log 23). -/
def Obligations.KeyRoutedSends : Prop :=
  (∀ (s : State) (A : Act) (d a b : Reg) (ms : List EId), s.Runs A →
    let x := A.reg d
    let E := s.elem s.cur
    let bad := fld x 7 5 ≠ 0 ∨ fld x 15 11 ≠ 0 ∨ fld x 63 19 ≠ 0
    let mask := if fld x 18 16 = 0 then BitVec.allOnes 64 else vget 0 E.k (fld x 18 16)
    let key := fun i => lane32 (vget 0 E.v a.toNat) i
    let dest := fun i => ms.getD (keyIndex (key i) ms.length) 0
    let lanes := (List.range 16).filter (fun i => mask.getLsbD i)
    let n := ((lanes.map dest).foldl (fun acc t => if acc.contains t then acc else acc ++ [t]) []).length
    (bad → Traps s (.sendk d a b) 0x2B 0 x) ∧
    (¬ bad → s.members s.cur (fld x 4 0) = [] → Traps s (.sendk d a b) 0x23 0 x) ∧
    (¬ bad → s.members s.cur (fld x 4 0) = ms → ms ≠ [] →
      (E.avail < n → Writes s A (.sendk d a b) d 1 4) ∧
      (n ≤ E.avail → ∃ (u : State) (B : Act), exec (.sendk d a b) s = .next (u.setAct B) ∧ s.Posted u A B d n ∧
        ∀ i, i < 16 → mask.getLsbD i = true → ∃ items r, u.Sent s.cur (some (dest i)) (.items (BitVec.ofNat 3 (fld x 10 8)) items r) ∧
          (key i, lane32 (vget 0 E.v b.toNat) i) ∈ items ∧ r.credit = some s.cur))) ∧
  (∀ (key : BitVec 32) (n : Nat),
    let mix := fun x : BitVec 32 => (x ^^^ x >>> 16) * 0x045D9F3B#32
    let x := mix (mix key)
    keyIndex key n = (x ^^^ x >>> 16).toNat * n / 2 ^ 32 ∧ keyIndex 0 n = 0 ∧ (1 ≤ n → keyIndex key n < n))

/-- Event instructions (R135, R136, R138): EVSET, EVCLR and EVADD send the request for the name to its event table, a name
above 16 bits takes code 0x29; EVARM arms an empty slot of a bound channel for the condition, and sends the arm request. The
event table (R135–R138): a request sets, clears or adds to the value, an arm request adds its waiter, and then the waiters are
taken in the order added, each on the value that the one before left: one whose condition holds fires its slot with the value
and the name, and its action changes the value; the others stay. -/
def Obligations.Events : Prop :=
  (∀ (s : State) (A : Act) (a b : Reg), s.Runs A →
      let x := A.reg a
      let y := A.reg b
      let port := fun n => some (enginePort (if n < 0x8000 then 0 else 1))
      (fld x 63 16 ≠ 0 → Traps s (.evset a b) 0x29 0 x ∧ Traps s (.evclr a) 0x29 0 x ∧ Traps s (.evadd a b) 0x29 0 x) ∧
      (fld x 63 16 = 0 →
        (∃ u : State, exec (.evset a b) s = .next (u.setAct (A.adv 4)) ∧ u.Sent s.cur (port x.toNat) (.evReq 0 (x.setWidth 16) y) ∧
          u.mem = s.mem ∧ u.elems = s.elems) ∧
        (∃ u : State, exec (.evclr a) s = .next (u.setAct (A.adv 4)) ∧ u.Sent s.cur (port x.toNat) (.evReq 1 (x.setWidth 16) 0) ∧
          u.mem = s.mem ∧ u.elems = s.elems) ∧
        (∃ u : State, exec (.evadd a b) s = .next (u.setAct (A.adv 4)) ∧ u.Sent s.cur (port x.toNat) (.evReq 2 (x.setWidth 16) y) ∧
          u.mem = s.mem ∧ u.elems = s.elems)) ∧
      (let q := fld x 19 16
       let c := s.chan s.cur A.frond q
       let bad := fld x 63 24 ≠ 0 ∨ x.getLsbD 0 = true ∨ fld x 23 20 ≠ 2 ∨ c.bind = none ∨ c.cont ≠ none
       (bad → Traps s (.evarm a b) 0x2A 0 x) ∧
       (¬ bad → condOk y = false → Traps s (.evarm a b) 0x29 0 y) ∧
       (¬ bad → condOk y = true → ∃ u : State, exec (.evarm a b) s = .next (u.setAct (A.adv 4)) ∧ u.mem = s.mem ∧
         (u.chan s.cur A.frond q).cont = some { entry := x.setWidth 16, kind := .event y, fired := none } ∧
         u.Sent s.cur (port (fld y 15 0)) (.evArm y A.frond (BitVec.ofNat 4 q))))) ∧
  (∀ (s : State) (k : Nat) (f : Flight) (C : Ctx), s.Arrives k f → tget s.ctxs f.ctx = some C →
      let ev := fun n => (tget C.events n).getD { value := 0, waiters := [] }
      let after := fun (t : State) (n : Nat) (v : Word) (ws : List Waiter) => ∃ D, tget t.ctxs f.ctx = some D ∧
        ((tget D.events n).getD { value := 0, waiters := [] }) = { value := (settled v ws).1, waiters := (settled v ws).2 } ∧
        ∀ n', n' ≠ n → tget D.events n' = tget C.events n'
      (∀ op name v, f.body = .evReq op name v →
        let new := if op = 0 then v else if op = 1 then 0 else (ev name.toNat).value + v
        ∃ t : State, exec (.eventRequest k) s = .next t ∧ t.mem = s.mem ∧ after t name.toNat new (ev name.toNat).waiters ∧
          ∀ w c, (ev name.toNat).waiters = [w] → condHolds w.cond new = true →
            (s.chan w.elem w.frond w.q.toNat).cont = some c → c.kind.awaitsFiring = true → c.fired = none →
            let ws := words8 [new, BitVec.ofNat 64 name.toNat]
            let held := w.frond = false ∧ s.holdsFirings w.elem = true
            (¬ held → (t.chan w.elem w.frond w.q.toNat).cont = some { c with fired := some ws }) ∧
            (held → ∃ (m : Msg) (r : Ret), t.Sent (eventPort name.toNat) (some w.elem) (.msg w.q m r) ∧ m.kind = .firing ∧ m.words = ws)) ∧
      (∀ cond fr q, f.body = .evArm cond fr q →
        let n := fld cond 15 0
        ∃ t : State, exec (.eventArm k) s = .next t ∧ t.mem = s.mem ∧
          after t n (ev n).value ((ev n).waiters ++ [{ elem := f.src, frond := fr, q := q, cond := cond }]))) ∧
  (∀ cond v : Word,
    let t := fld cond 63 24
    let test := fld cond 17 16
    let act := fld cond 19 18
    (condOk cond = true ↔ fld cond 23 20 = 0 ∧ act ≠ 3 ∧ (act = 2 → test = 1) ∧ (test = 0 ∨ test = 2 → t = 0)) ∧
    (condHolds cond v = true ↔ (test = 0 ∧ v ≠ 0 ∨ test = 1 ∧ t ≤ v.toNat ∨ test = 2 ∧ v = 0 ∨ test = 3 ∧ v.toNat = t)) ∧
    condAct cond v = (if act = 1 then 0 else if act = 2 then v - BitVec.ofNat 64 t else v))

/-! ### The matrix unit (R266–R289) -/

/-- Tiles, slots, status and errors (R40, R268, R276, R280–R282, R285–R287). Every matrix instruction takes code 0x02 on a memory
core. MCFG and MZERO of a tile that is not busy zero its elements and KCNT, a busy one takes code 0x33; OCLAIM makes a run of
FREE slots EMPTY and its own, or answers 1; ORELEASE frees them, later where a started command still uses them; MRDR and MRDC read,
and MWRR and MWRC write, sixteen elements of a row or column: a reserved bit of the index word, and a slice that the tile does not
have, take code 0x34, an unconfigured tile 0x30, a write to a busy tile 0x33, and a read of one gives in each lane a value that the
element has, or had before or between the steps of the command. That a reserved bit comes before 0x30 is the model's choice (log 27).
MSTAT, MERR, MLEN.hold and MCFG.gang as their rules say. -/
def Obligations.MatrixRegisters : Prop :=
  ∀ (s : State) (A : Act), s.Runs A →
    (∀ i, isMatrix i = true → isCore s.cur = false → Traps s i 0x02 0 (insnExtra i 0)) ∧
    (isCore s.cur = true → ∀ (d : BitVec 5) (a : Reg) (t : BitVec 2),
      let e := s.cur
      let E := s.elem e
      let so := sorusOf e
      let x := A.reg a
      let T := s.tile e t.toNat
      let busy := s.tileBusy e t.toNat = true
      let zeroed := fun (u : State) (T' : Tile) => u.tile e t.toNat = T' ∧
        (∀ i, i < 4096 → memGet u.mem (tileKey e t.toNat i) = 0) ∧
        (∀ k, k < tileKey e t.toNat 0 ∨ tileKey e t.toNat 4096 ≤ k → memGet u.mem k = memGet s.mem k) ∧
        (∀ t', t' ≠ t.toNat → u.tile e t' = s.tile e t')
      (4 < x.toNat → Traps s (.mcfg a t) 0x34 0 x) ∧
      (x.toNat ≤ 4 → busy → Traps s (.mcfg a t) 0x33 0 (BitVec.ofNat 64 t.toNat)) ∧
      (x.toNat ≤ 4 → ¬ busy → ∃ u : State, exec (.mcfg a t) s = .next (u.setAct (A.adv 4)) ∧
        zeroed u { Tile.blank with shape := x.setWidth 3 }) ∧
      (T.shape = 0 → Traps s (.mzero t) 0x30 0 (BitVec.ofNat 64 t.toNat)) ∧
      (T.shape ≠ 0 → busy → Traps s (.mzero t) 0x33 0 (BitVec.ofNat 64 t.toNat)) ∧
      (T.shape ≠ 0 → ¬ busy → ∃ u : State, exec (.mzero t) s = .next (u.setAct (A.adv 4)) ∧
        zeroed u { T with kcnt := 0, hist := [] }) ∧
      (gangOk e x = true → exec (.mcfgGang a) s = .next ((s.setElem e { E with gang := x }).setAct (A.adv 4))) ∧
      (gangOk e x = false → Traps s (.mcfgGang a) 0x34 0 x) ∧
      (claimOk x = false → Traps s (.oclaim d a) 0x34 0 x ∧ Traps s (.orelease a) 0x34 0 x) ∧
      (claimOk x = true → (∃ n ∈ claimRun x, (s.slot so n).state ≠ .free) → Writes s A (.oclaim d a) (c5 d) 1 4) ∧
      (claimOk x = true → (∀ n ∈ claimRun x, (s.slot so n).state = .free) →
        ∃ u : State, exec (.oclaim d a) s = .next (u.setAct ((A.setReg (c5 d) 0).adv 4)) ∧ u.mem = s.mem ∧ u.elems = s.elems ∧
          (∀ n ∈ claimRun x, u.slot so n = { state := .empty, owner := some e, fmt := 0, releasing := false }) ∧
          (∀ so' n, n < 128 → (so' ≠ so ∨ n ∉ claimRun x) → u.slot so' n = s.slot so' n)) ∧
      (∀ n, claimOk x = true → (claimRun x).find? (fun n => !s.ownsSlot e n) = some n →
        Traps s (.orelease a) 0x32 0 (BitVec.ofNat 64 n)) ∧
      (claimOk x = true → (∀ n ∈ claimRun x, s.ownsSlot e n = true ∧ (s.slot so n).state ≠ .free) →
        ∃ u : State, exec (.orelease a) s = .next (u.setAct (A.adv 4)) ∧ u.mem = s.mem ∧ u.elems = s.elems ∧
          (∀ n ∈ claimRun x, u.slot so n =
            if s.slotUsed so n = true then { s.slot so n with releasing := true } else Slot.reset) ∧
          (∀ so' n, n < 128 → (so' ≠ so ∨ n ∉ claimRun x) → u.slot so' n = s.slot so' n)) ∧
      (∀ row : Bool,
        let both := fun (code : Nat) (w : Word) =>
          Traps s (if row then .mrdr d a t else .mrdc d a t) code 0 w ∧ Traps s (if row then .mwrr d a t else .mwrc d a t) code 0 w
        (fld x 7 6 ≠ 0 ∨ fld x 63 14 ≠ 0 → both 0x34 x) ∧
        (fld x 7 6 = 0 → fld x 63 14 = 0 → T.shape = 0 → both 0x30 (BitVec.ofNat 64 t.toNat)) ∧
        (fld x 7 6 = 0 → fld x 63 14 = 0 → T.shape ≠ 0 →
          (let lines := if row then shapeM T.shape else shapeN T.shape
           let length := if row then shapeN T.shape else shapeM T.shape
           lines ≤ fld x 5 0 ∨ fld x 13 8 % 16 ≠ 0 ∨ length < fld x 13 8 + 16) → both 0x34 x)) ∧
      (∀ row : Bool, sliceBitsOk x = true → T.shape ≠ 0 → sliceOk row T.shape x = true →
        let N := shapeN T.shape
        let el := fun k => if row = true then fld x 5 0 * N + (fld x 13 8 + k) else (fld x 13 8 + k) * N + fld x 5 0
        (¬ busy → s.poison = [] → ∃ V : Vec,
          exec (if row then .mrdr d a t else .mrdc d a t) s =
            .next ((s.setElem e { E with v := vset E.v d.toNat V }).setAct (A.adv 4)) ∧
          ∀ k, k < 16 → (lane32 V k).toNat = leNat (memRead s.mem (tileKey e t.toNat (4 * el k)) 4)) ∧
        (busy → s.poison = [] → (∀ h ∈ T.hist, h.2 = []) → ∃ V : Vec,
          exec (if row then .mrdr d a t else .mrdc d a t) s =
            .next ((s.setElem e { E with v := vset E.v d.toNat V }).setAct (A.adv 4)) ∧
          ∀ k, k < 16 → (lane32 V k).toNat = leNat (memRead s.mem (tileKey e t.toNat (4 * el k)) 4) ∨
            ∃ h ∈ T.hist, (lane32 V k).toNat = leNat ((h.1.drop (4 * el k)).take 4)) ∧
        (busy → Traps s (if row then .mwrr d a t else .mwrc d a t) 0x33 0 (BitVec.ofNat 64 t.toNat)) ∧
        (¬ busy → s.MemOk → ∃ u : State, exec (if row then .mwrr d a t else .mwrc d a t) s = .next (u.setAct (A.adv 4)) ∧
          u.elems = s.elems ∧
          (∀ k, k < 16 → leNat (memRead u.mem (tileKey e t.toNat (4 * el k)) 4) = (lane32 (vget 0 E.v d.toNat) k).toNat) ∧
          (∀ key, (∀ k, k < 16 → key < tileKey e t.toNat (4 * el k) ∨ tileKey e t.toNat (4 * el k) + 4 ≤ key) →
            memGet u.mem key = memGet s.mem key))) ∧
      (∃ v, Writes s A (.mstat d) (c5 d) v 4 ∧ (E.mq.length ≤ 16 → E.lost ≤ 255 →
        fld v 4 0 = 16 - E.mq.length ∧ v.getLsbD 5 = E.merr ∧ v.getLsbD 6 = E.holdArm ∧
        (v.getLsbD 7 = true ↔ ∃ c ∈ E.mq, c.held = true ∧ c.unstarted = true) ∧ fld v 63 48 = 0 ∧
        fld v 31 24 = E.lost ∧ fld v 47 32 = E.mseq.toNat % 65536 ∧
        (∀ t, t < 4 → fld v (10 + 4 * t) (8 + 4 * t) = (s.tile e t).shape.toNat ∧ v.getLsbD (11 + 4 * t) = s.tileBusy e t))) ∧
      (fld x 7 3 ≠ 0 ∨ fld x 63 9 ≠ 0 → Traps s (.merr d a) 0x34 0 x) ∧
      (fld x 7 3 = 0 → fld x 63 9 = 0 → x.getLsbD 8 = false → Writes s A (.merr d a) (c5 d) (E.merrLog.getD (fld x 2 0) 0) 4) ∧
      (fld x 7 3 = 0 → fld x 63 9 = 0 → x.getLsbD 8 = true → exec (.merr d a) s =
        .next ((s.setElem e { E with merrLog := [], merr := false, lost := 0 }).setAct
          ((A.setReg (c5 d) (E.merrLog.getD (fld x 2 0) 0)).adv 4))) ∧
      (E.holdArm = false → E.heldCmd = none →
        exec .mlenHold s = .next ((s.setElem e { E with holdArm := true }).setAct (A.adv 4))) ∧
      ((E.holdArm = true ∨ E.heldCmd ≠ none) → Traps s .mlenHold 0x35 0 (s.mstat e)))

/-- Pushing, patching and flushing matrix commands (R178, R269, R283, R284, R288, R289). OFILL, MMA and MMAG that pass their checks
put one command at the end of the queue with the next sequence number, which is to wait for the core's posted writes in flight, and
the core goes on; a full queue takes code 0x31. That OFILL checks descriptor, slots, source and queue in this order, and
MLEN.set within a frond 0x63 before the rest, are readings of the model (log 27). MLEN.set
patches the ROWS of the held command with the count of a sealed bin, at most M, and releases it; within a frond it takes code 0x63, with
a reserved bit 0x34, without a held command 0x35, for a set that is absent 0x28, not sealed 0x36, and for a bin at or above COUNT
0x26. MFLUSH ends every command that has
not started, with STATUS 6 to its issuer or to each member of its gang, whose shares all have reason 6; a started command of a gang loses
the shares that have not started, with reason 6 too, and those that run stand (R289). -/
def Obligations.MatrixPushes : Prop :=
  ∀ (s : State) (A : Act), s.Runs A → isCore s.cur = true →
    let e := s.cur
    let E := s.elem e
    let pushed := fun (u : State) (c : Cmd) => u.mem = s.mem ∧ u.slots = s.slots ∧ u.fabric = s.fabric ∧
      (∀ e', e' ≠ e → u.elem e' = s.elem e') ∧ (u.elem e).mq = E.mq ++ [c] ∧ (u.elem e).mseq = E.mseq + 1 ∧ c.seq = E.mseq ∧
      c.started = false ∧ c.ended = false ∧ c.filled = 0 ∧ c.after = (s.postedOf e).map (·.id)
    (∀ a b : Reg,
      let x := A.reg b
      (fillOk x = false → Traps s (.ofill a b) 0x34 0 x) ∧
      (∀ n, fillOk x = true → (fillRun x).find? (fun n => !s.ownsSlot e n) = some n →
        Traps s (.ofill a b) 0x32 0 (BitVec.ofNat 64 n)) ∧
      (fillOk x = true → (∀ n ∈ fillRun x, s.ownsSlot e n = true) →
        (∀ f, fillSource s (A.reg a) x = some f → exec (.ofill a b) s = .next (s.takeFault e f)) ∧
        (fillSource s (A.reg a) x = none → 16 ≤ E.mq.length → Traps s (.ofill a b) 0x31 0 (s.mstat e)) ∧
        (fillSource s (A.reg a) x = none → E.mq.length < 16 → ∃ (u : State) (c : Cmd),
          exec (.ofill a b) s = .next (u.setAct (A.adv 4)) ∧ pushed u c ∧ c.q.toNat = fld x 19 16 ∧
          c.kind = .fill (A.reg a) x (s.leads e)))) ∧
    (∀ (t k : BitVec 2) (q : BitVec 4) (o p : BitVec 7) (gang : Bool),
      let T := s.tile e t.toNat
      let i := if gang then Instr.mmag t k q o p else .mma t k q o p
      (T.shape = 0 → Traps s i 0x30 0 (BitVec.ofNat 64 t.toNat)) ∧
      (T.shape ≠ 0 → gang = true → gangMembers E.gang = [] → Traps s i 0x34 0 E.gang) ∧
      (T.shape ≠ 0 → (gang = true → gangMembers E.gang ≠ []) → 16 ≤ E.mq.length → Traps s i 0x31 0 (s.mstat e)) ∧
      (T.shape ≠ 0 → (gang = true → gangMembers E.gang ≠ []) → E.mq.length < 16 → ∃ (u : State) (c : Cmd),
        exec i s = .next (u.setAct (A.adv 4)) ∧ pushed u c ∧ c.q = q ∧ c.held = E.holdArm ∧ (u.elem e).holdArm = false ∧
        c.kind = .product t (k.toNat + 1) p.toNat T.shape (shapeM T.shape) gang none ∧
        (gang = false → c.shares.map (fun h => (h.elem, h.aslot)) = [(e, o.toNat)]) ∧
        (gang = true → c.shares.map (fun h => (memberOf h.elem, h.aslot)) =
          ((List.range 8).filter (fun m => E.gang.getLsbD m)).zipIdx.map (fun m => (m.1, gangSlot E.gang m.2 + o.toNat))))) ∧
    (∀ a : Reg, (A.frond = true → Traps s (.mlenSet a) 0x63 0 0) ∧
      (A.frond = false → (fld (A.reg a) 15 3 ≠ 0 ∨ fld (A.reg a) 63 28 ≠ 0) → Traps s (.mlenSet a) 0x34 0 (A.reg a))) ∧
    (∀ (a : Reg) (c : Cmd) (B : BinSet),
      let x := A.reg a
      A.frond = false → fld x 15 3 = 0 → fld x 63 28 = 0 →
      (E.heldCmd = none → Traps s (.mlenSet a) 0x35 0 (s.mstat e)) ∧
      (E.heldCmd = some c → vget none E.bins (fld x 2 0) = none → Traps s (.mlenSet a) 0x28 0 x) ∧
      (E.heldCmd = some c → vget none E.bins (fld x 2 0) = some B → B.count ≤ fld x 27 16 → Traps s (.mlenSet a) 0x26 0 x) ∧
      (E.heldCmd = some c → vget none E.bins (fld x 2 0) = some B → fld x 27 16 < B.count → B.isSealed = false →
        Traps s (.mlenSet a) 0x36 0 x) ∧
      (E.heldCmd = some c → vget none E.bins (fld x 2 0) = some B → fld x 27 16 < B.count → B.isSealed = true →
        s.frondOf e = none → s.poison = [] → B.base + B.extent ≤ 65536 →
        ∃ u : State, exec (.mlenSet a) s = .next (u.setAct (A.adv 4)) ∧ u.mem = s.mem ∧
          ∀ t b oB sh r g bB, c.kind = .product t b oB sh r g bB → ∃ c' ∈ (u.elem e).mq, c'.seq = c.seq ∧ c'.held = false ∧
            c'.kind = .product t b oB sh
              (min (leNat (memRead s.mem (scratchKey e (B.base + B.stride * fld x 27 16)) 4)) (shapeM sh)) g bB)) ∧
    (∃ u : State, exec .mflush s = .next (u.setAct (A.adv 4)) ∧ u.mem = s.mem ∧ (u.elem e).holdArm = false ∧
      (∀ c ∈ (u.elem e).mq, c.started = true ∨ c.ended = true) ∧
      (∀ c ∈ E.mq, c.unstarted = true → c.isGang = false → ∃ m r, u.Sent (unitOf e) (some e) (.msg c.q m r) ∧
        fld (vget 0 m.words 2) 7 0 = 6 ∧ vget 0 m.words 3 = c.seq.setWidth 64) ∧
      (∀ c ∈ E.mq, c.unstarted = true → c.isGang = true → ∀ h ∈ c.shares, ∃ m r, u.Sent (unitOf e) (some h.elem) (.msg c.q m r) ∧
        vget 0 m.words 0 = 0x20 ∧ fld (vget 0 m.words 2) 7 0 = 6 ∧ fld (vget 0 m.words 2) 15 8 = 0 ∧
        (∀ h' ∈ c.shares, isCore h'.elem = true → (vget 0 m.words 2).getLsbD (16 + memberOf h'.elem) = true) ∧
        vget 0 m.words 3 = c.seq.setWidth 64 ∧
        (c.shares.map (·.pos) = List.range c.shares.length → c.shares.length ≤ 4 → ∀ p, p < c.shares.length →
          fld (vget 0 m.words 4) (4 * p + 3) (4 * p) = 6)) ∧
      ((E.mq.map (·.seq)).Nodup → ∀ c ∈ E.mq, c.running = true →
        (c.isGang = false → c ∈ (u.elem e).mq) ∧
        (c.isGang = true → { c with shares := c.shares.map (fun h => if h.state = .waiting then { h with state := .failed 6 } else h) }
          ∈ (u.elem e).mq)))

/-- The unit at work (R178, R206, R207, R269–R275, R282, R283). A command waits for the posted writes that its push released. A fill
starts when every slot is owned, and they are FILLING; of the started fills of a sorus the one that started first copies slot after
slot: the source's bytes then stand in the slot, which is FULL, and when all are, a completion with STATUS 0 goes out; a source that
cannot be read ends it with its STATUS and its slots EMPTY, those already copied too (log 28). That a fill reads its source slot by slot is the model's choice
(log 26). A product starts when every slot of both operands is FULL and holds one format; it waits for one that is filled, and ends with
STATUS 2, 3 or 5, no tile written, by the tests of R272, a fill whose slot is not owned with 3. A ganged one starts once its B slots
pass; where they do not it ends so with reason 7 for every share. Its shares start in position order, past those that wait, or fail
with the reasons 1 to 5 (R274). Each step of a share adds one k-block of products to every element of the
first ROWS rows of the member's tile, rounded once, and raises KCNT, also with ROWS 0 (log 27); a sum that is NaN is written with
the smallest of its candidate payloads, which are the step's own, of the rank and the k-block, and the low bits of the element where it
was a NaN. A product whose shares are done or failed ends with STATUS 7 where one failed, 1 where elements were replaced, and else 0,
with KCNT and the masks of both. A released slot that no started command uses becomes FREE. -/
def Obligations.MatrixWork : Prop :=
  ∀ (s : State) (e : EId) (c : Cmd), s.MemOk →
    let E := s.elem e
    let so := sorusOf e
    (E.mq.find? Cmd.unstarted = some c → (∃ k ∈ c.after, s.flight k ≠ none) →
      exec (.matrixCommandStart e c.seq.toNat) s = .next s) ∧
    (E.mq.find? Cmd.unstarted = some c → s.ctxRuns e = true → (∀ k ∈ c.after, s.flight k = none) → ∀ a x pl, c.kind = .fill a x pl →
      (∀ n ∈ fillRun x, s.ownsSlot e n = true) →
      ∃ t : State, exec (.matrixCommandStart e c.seq.toNat) s = .next t ∧ t.mem = s.mem ∧
        (∀ n ∈ fillRun x, t.slot so n = { s.slot so n with state := .filling }) ∧
        (t.elem e).mq = E.mq.map (fun c' => if c'.seq = c.seq then { c' with started := true, startedAt := s.stepNo } else c')) ∧
    (E.mq.find? Cmd.unstarted = some c → s.ctxRuns e = true → (∀ k ∈ c.after, s.flight k = none) →
      let i := Instr.matrixCommandStart e c.seq.toNat
      let fails := fun (dsts : List EId) (head status reason : Nat) => ∃ u : State, exec i s = .next u ∧ u.mem = s.mem ∧
        u.slots = s.slots ∧ ∀ d ∈ dsts, ∃ m w, u.Sent (unitOf e) (some d) (.msg c.q m w) ∧ (vget 0 m.words 0).toNat = head ∧
          fld (vget 0 m.words 2) 7 0 = status ∧ fld (vget 0 m.words 2) 15 8 = 0 ∧
          (∀ h ∈ c.shares, isCore h.elem = true → (vget 0 m.words 2).getLsbD (16 + memberOf h.elem) = true) ∧
          (c.shares.map (·.pos) = List.range c.shares.length → c.shares.length ≤ 4 → ∀ p, p < c.shares.length →
            fld (vget 0 m.words 4) (4 * p + 3) (4 * p) = reason)
      (∀ a x pl, c.kind = .fill a x pl → (∃ n ∈ fillRun x, s.ownsSlot e n = false) → c.shares = [] → fails [e] 0x21 3 0) ∧
      (∀ t b oB sh r g bB0, c.kind = .product t b oB sh r g bB0 →
        let testB := operandTest s e none oB b (shapeN sh)
        ((c.held = true ∨ arithRunning E = true) → exec i s = .next s) ∧
        (c.held = false → arithRunning E = false →
          (g = true →
            (testB = .ok none → exec i s = .next s) ∧
            (∀ st, testB = .error st → fails (c.shares.map (·.elem)) 0x20 st 7) ∧
            (∀ bB, testB = .ok (some bB) → sameFmt s so oB (b * bB) = false → fails (c.shares.map (·.elem)) 0x20 5 7) ∧
            (∀ bB, testB = .ok (some bB) → sameFmt s so oB (b * bB) = true → ∃ u : State, exec i s = .next u ∧ u.mem = s.mem ∧
              u.slots = s.slots ∧ u.fabric = s.fabric ∧ (u.elem e).mq = E.mq.map (fun c' => if c'.seq = c.seq then { c' with
                started := true, startedAt := s.stepNo, kind := .product t b oB sh r true (some (bB, (s.slot so oB).fmt)) } else c'))) ∧
          (∀ h, g = false → c.shares = [h] →
            let testA := operandTest s e none h.aslot b (shapeM sh)
            (∀ st, testA = .error st → fails [e] 0x20 st 0) ∧ (testA = .ok none → exec i s = .next s) ∧
            (∀ bA, testA = .ok (some bA) → (∀ st, testB = .error st → fails [e] 0x20 st 0) ∧ (testB = .ok none → exec i s = .next s) ∧
              ∀ bB, testB = .ok (some bB) → (sameFmt s so h.aslot (b * bA) = false ∨ sameFmt s so oB (b * bB) = false) →
                fails [e] 0x20 5 0))))) ∧
    (∀ (h : Share) (t : BitVec 2) (b oB r : Nat) (sh : BitVec 3) (g : Bool) (bB : Option (Nat × BitVec 8)),
      E.mq.find? (fun c' => c'.running && c'.seq.toNat == c.seq.toNat) = some c → c.kind = .product t b oB sh r g bB →
      c.shares.find? (fun h' => h'.pos == h.pos) = some h → h.state = .waiting →
      let i := Instr.matrixStep e c.seq.toNat h.pos
      let turn := s.ctxRuns e = true ∧ ∀ h' ∈ c.shares, h'.pos < h.pos → h'.state = .waiting → shareTest s e c h' = .ok none
      let out := (s.elem h.elem).mode = .frozen ∨ (s.elem h.elem).mode = .fenced ∨ s.isComposed h.elem = true
      let test := operandTest s e (some h.elem) h.aslot b (shapeM sh)
      let becomes := fun st bA fA => ∃ u : State, exec i s = .next u ∧ u.mem = s.mem ∧ u.slots = s.slots ∧ u.fabric = s.fabric ∧
        (u.elem e).mq = E.mq.map (fun c' => if c'.seq = c.seq then { c' with shares := c'.shares.map (fun h' =>
          if h'.pos = h.pos then { h' with state := st, bA := bA.getD h'.bA, fA := fA.getD h'.fA } else h') } else c')
      (¬ turn → exec i s = .next s) ∧
      (turn → out → becomes (.failed 1) none none) ∧
      (turn → ¬ out → (s.tile h.elem t.toNat).shape ≠ sh → becomes (.failed 2) none none) ∧
      (turn → ¬ out → (s.tile h.elem t.toNat).shape = sh →
        (test = .error 3 → becomes (.failed 3) none none) ∧ (test = .error 2 → becomes (.failed 4) none none) ∧
        (test = .ok none → exec i s = .next s) ∧
        (∀ bA, test = .ok (some bA) →
          (sameFmt s so h.aslot (b * bA) = false → becomes (.failed 5) none none) ∧
          (sameFmt s so h.aslot (b * bA) = true → becomes (.running 0) (some bA) (some (s.slot so h.aslot).fmt))))) ∧
    (E.mq.find? Cmd.unstarted = some c → s.ctxRuns e = true → (∀ k ∈ c.after, s.flight k = none) → c.held = false →
      arithRunning E = false →
      ∀ t b oB sh r bB0 h bA bB, c.kind = .product t b oB sh r false bB0 → c.shares = [h] →
      operandTest s e none h.aslot b (shapeM sh) = .ok (some bA) → operandTest s e none oB b (shapeN sh) = .ok (some bB) →
      sameFmt s so h.aslot (b * bA) = true → sameFmt s so oB (b * bB) = true →
      ∃ u : State, exec (.matrixCommandStart e c.seq.toNat) s = .next u ∧ u.mem = s.mem ∧ u.slots = s.slots ∧
        ∃ c' ∈ (u.elem e).mq, c'.seq = c.seq ∧ c'.started = true ∧ c'.kind = .product t b oB sh r false (some (bB, (s.slot so oB).fmt)) ∧
          c'.shares = [{ h with state := .running 0, bA := bA, fA := (s.slot so h.aslot).fmt }]) ∧
    (∀ (h : Share) (j : Nat) (t : BitVec 2) (b oB r bB : Nat) (fB : BitVec 8) (sh : BitVec 3) (g : Bool),
      E.mq.find? (fun c' => c'.running && c'.seq.toNat == c.seq.toNat) = some c → c.kind = .product t b oB sh r g (some (bB, fB)) →
      c.shares.find? (fun h' => h'.pos == h.pos) = some h → h.state = .running j → s.poison = [] → r ≤ shapeM sh →
      (s.tile h.elem t.toNat).doomed = false →
      let fa := h.fA.toNat
      let fb := fB.toNat
      let N := shapeN sh
      let key := fun i => tileKey h.elem t.toNat (4 * i)
      let old := fun i => leNat (memRead s.mem (key i) 4)
      let av := fun i => (s.slotElem (slotKey so (h.aslot + j * h.bA) 0) fa i).1
      let bv := fun i => (s.slotElem (slotKey so (oB + j * bB) 0) fb i).1
      let sum := fun i n => (List.range 32).foldl (fun v k => v.add ((av (32 * i + k)).mul (bv (N * k + n)))) (Fmt.f32.decode (old (i * N + n)))
      ∃ u : State, exec (.matrixStep e c.seq.toNat h.pos) s = .next u ∧
        (u.tile h.elem t.toNat).kcnt = (s.tile h.elem t.toNat).kcnt + 1 ∧
        (∀ i n, i < r → n < N → sum i n ≠ .nan →
          leNat (memRead u.mem (key (i * N + n)) 4) = Fmt.f32.round (sum i n) % 2 ^ 32) ∧
        (let rank := match s.ctxAt h.elem with | some C => C.rankOf h.elem | none => 0
         let step := rank % 1024 * 2 ^ 12 + (s.tile h.elem t.toNat).kcnt.toNat % 4096
         ∀ i n, i < r → n < N → sum i n = .nan →
          (Fmt.f32.decode (old (i * N + n)) ≠ .nan → leNat (memRead u.mem (key (i * N + n)) 4) = 0x7FC00000 + step) ∧
          (Fmt.f32.decode (old (i * N + n)) = .nan →
            leNat (memRead u.mem (key (i * N + n)) 4) = 0x7FC00000 + min step (old (i * N + n) % 2 ^ 22))) ∧
        (∀ k, k < tileKey h.elem t.toNat 0 ∨ tileKey h.elem t.toNat (4 * r * N) ≤ k → memGet u.mem k = memGet s.mem k) ∧
        ∃ c' ∈ (u.elem e).mq, c'.seq = c.seq ∧
          ∃ h' ∈ c'.shares, h'.pos = h.pos ∧ h'.state = if j + 1 < b then .running (j + 1) else .done) ∧
    (E.mq.find? (fun c' => c'.running && c'.seq.toNat == c.seq.toNat) = some c →
      (∀ a x pl, c.kind = .fill a x pl →
        let first := ∀ i ∈ sorusCores so, ∀ d ∈ (s.elem i).mq, d.running = true → d.isFill = true → c.startedAt ≤ d.startedAt
        let ends := fun (u : State) (st : Nat) => ∃ m w, u.Sent (unitOf e) (some e) (.msg c.q m w) ∧ vget 0 m.words 0 = 0x21 ∧
          vget 0 m.words 2 = BitVec.ofNat 64 st
        (¬ first → ∀ p, exec (.matrixStep e c.seq.toNat p) s = .next s) ∧
        (∀ p keys, first → fillKeys s e a x pl = .ok keys → c.filled < fillCount x →
          let n := fillSlot x + c.filled
          ∃ u : State, exec (.matrixStep e c.seq.toNat p) s = .next u ∧
            memRead u.mem (slotKey so n 0) 2048 = ((keys.drop (2048 * c.filled)).take 2048).map (memGet s.mem) ∧
            (∀ k, k < slotKey so n 0 ∨ slotKey so n 0 + 2048 ≤ k → memGet u.mem k = memGet s.mem k) ∧
            (u.slot so n).state = .full ∧ (u.slot so n).fmt.toNat = fld x 31 24 ∧
            (∀ so' n', (so' ≠ so ∨ n' ≠ n) → n' < 128 → n < 128 → u.slot so' n' = s.slot so' n') ∧
            (u.elem e).mq = E.mq.map (fun c' => if c'.seq = c.seq then { c' with filled := c'.filled + 1 } else c')) ∧
        (∀ p st, first → fillKeys s e a x pl = .error st →
          ∃ u : State, exec (.matrixStep e c.seq.toNat p) s = .next u ∧ u.mem = s.mem ∧
            (∀ n ∈ fillRun x, (u.slot so n).state = .empty) ∧ ends u st) ∧
        (fillCount x ≤ c.filled → ∃ u : State, exec (.matrixCommandEnd e c.seq.toNat) s = .next u ∧ u.mem = s.mem ∧ ends u 0)) ∧
      (∀ t b oB sh r g bB, c.kind = .product t b oB sh r g bB → (∀ h ∈ c.shares, h.state = .done ∨ ∃ n, h.state = .failed n) →
        ∃ u : State, exec (.matrixCommandEnd e c.seq.toNat) s = .next u ∧ u.mem = s.mem ∧
          ∀ d ∈ (if g then c.shares.map (·.elem) else [e]), ∃ m w, u.Sent (unitOf e) (some d) (.msg c.q m w) ∧
            vget 0 m.words 0 = 0x20 ∧ vget 0 m.words 5 = (s.tile e t.toNat).kcnt.setWidth 64 ∧
            ((∃ h ∈ c.shares, h.state ≠ .done) → fld (vget 0 m.words 2) 7 0 = 7) ∧
            ((∀ h ∈ c.shares, h.state = .done) → fld (vget 0 m.words 2) 7 0 = if c.replaced = 0 then 0 else 1) ∧
            ∀ h ∈ c.shares, isCore h.elem = true →
              (vget 0 m.words 2).getLsbD ((if h.state = .done then 8 else 16) + memberOf h.elem) = true)) ∧
    (∀ n, n < 128 → (s.slot so n).releasing = true → s.slotUsed so n = false → ∃ t : State,
      exec (.slotReleaseEffect so n) s = .next t ∧ t.slot so n = Slot.reset ∧ t.mem = s.mem ∧ t.elems = s.elems)

/-! ### Sheets (R229–R263) -/

/-- The sheet instructions (R252, R254–R263). CDEF defines a fresh input cell; CBIND, CREBIND and CDROP apply at once when no wave
is in flight (status 0, the cell stale under its new binding, or gone), are queued during one (status 1), do nothing with status 2 where
the edit queue is full, and take code 0x43 where the cell does not allow the edit; a binding that would close a cycle leaves the old one,
writes its report and takes code 0x41. CRD and CWR post with one unit of allowance, or answer 1 without it; CDONE, CWAVE, CRUN and CWAIT
send their request; CSTAT reads a state word; the stalling forms wait for the posted writes of the element that are in flight. A
malformed operand of any of them takes code 0x40, and a destination or source that fails its checks their fault. Which field of a record CDEF names first, and
that CDROP makes no check of its report area, are readings of the model (log 31), and so is that CDEF waits for the element's earlier
posted writes and the messages that a FENCE orders before it (log 20). -/
def Obligations.SheetInstructions : Prop :=
  ∀ (s : State) (A : Act) (d a b : Reg), s.Runs A →
    let x := A.reg a
    let y := A.reg b
    let E := s.elem s.cur
    let port := fun n : Nat => some (enginePort (n / 32))
    let reads := fun (n : Nat) (bs : List Byte) => loadBytes s { aps := [0], rd := true, align := 8 } x n = (s, .ok bs)
    (∀ bs C, reads 64 bs → s.ctxAt s.cur = some C →
      let r := recWord bs
      let n := fld (r 0) 21 16
      let e := fld (r 0) 15 0
      (∀ i, defineFault C r = some i → Traps s (.cdef d a) 0x40 x (r i)) ∧
      (defineFault C r = none → s.engineBusy n = true →
        exec (.cdef d a) s = .next (s.updElem s.cur (fun E => { E with stalled := true }))) ∧
      (defineFault C r = none → s.engineBusy n = false → (s.sheet s.ctxNo n).bind (·.cell e) ≠ none → Traps s (.cdef d a) 0x43 0 1) ∧
      (defineFault C r = none → s.engineBusy n = false → (s.sheet s.ctxNo n).bind (·.cell e) = none → 65536 ≤ s.cellCount (n / 32) →
        Writes s A (.cdef d a) d 2 4) ∧
      (defineFault C r = none → s.engineBusy n = false → (s.sheet s.ctxNo n).bind (·.cell e) = none → s.cellCount (n / 32) < 65536 →
        ∃ (u : State) (c : CellEntry), exec (.cdef d a) s = .next (u.setAct ((A.setReg d 0).adv 4)) ∧ u.mem = s.mem ∧
          (u.sheet s.ctxNo n).bind (·.cell e) = some c ∧ c.rows = fld (r 0) 47 32 ∧ c.cols = fld (r 0) 63 48 ∧
          c.fmt.toNat = fld (r 1) 7 0 ∧ c.home = fld (r 2) 47 32 ∧ c.buf0 = r 3 ∧ c.buf1 = r 4 ∧ c.isInput = true ∧
          c.state = .fresh ∧ c.cur = false)) ∧
    (∀ bs (rebind : Bool), reads 64 bs →
      let r := recWord bs
      let i := if rebind then Instr.crebind d a b else .cbind d a b
      let n := fld (r 1) 15 12
      let entry := fld (r 1) 47 32
      let badField := (entry % 2 = 1 ∧ entry ≠ 0xFFFF) ∨ 8 < n ∨ fld (r 1) 23 16 / 2 ^ n ≠ 0 ∨
        (∃ j, n ≤ j ∧ j < 8 ∧ fld (r (5 + j / 4)) (16 * (j % 4) + 15) (16 * (j % 4)) ≠ 0) ∨ (entry = 0xFFFF ∧ n ≠ 0) ∨
        fld (r 0) 31 22 ≠ 0 ∨ fld (r 1) 31 24 ≠ 0 ∨ fld (r 1) 63 48 ≠ 0 ∨ r 7 ≠ 0
      (badField → ∃ j, j < 8 ∧ Traps s i 0x40 x (r j)) ∧
      (¬ badField → (fld y 5 0 ≠ 0 ∨ fld y 63 20 ≠ 0) → Traps s i 0x40 0 y) ∧
      (¬ badField → fld y 5 0 = 0 → fld y 63 20 = 0 →
        (touchesArea s s.cur (.own (fld y 15 0)) 64 = true → Traps s i 0x08 (BitVec.ofNat 64 (fld y 15 0)) 0) ∧
        (touchesArea s s.cur (.own (fld y 15 0)) 64 = false → s.engineBusy (fld (r 0) 21 16) = true →
          exec i s = .next (s.updElem s.cur (fun E => { E with stalled := true }))) ∧
        (touchesArea s s.cur (.own (fld y 15 0)) 64 = false → s.engineBusy (fld (r 0) 21 16) = false →
          s.sheet s.ctxNo (fld (r 0) 21 16) = none → Traps s i 0x43 0 2))) ∧
    (∀ bs (rebind : Bool), reads 64 bs → bindFault (recWord bs) = none → repOk y = true → s.frondOf s.cur = none → s.MemOk →
      touchesArea s s.cur (.own (fld y 15 0)) 64 = false →
      let r := recWord bs
      let n := fld (r 0) 21 16
      let e := fld (r 0) 15 0
      let i := if rebind then Instr.crebind d a b else .cbind d a b
      s.engineBusy n = false → ∀ S, s.sheet s.ctxNo n = some S →
      (S.cell e = none → Traps s i 0x43 0 2) ∧
      (∀ c, S.cell e = some c → rebind = false → c.isInput = false → Traps s i 0x43 0 3) ∧
      (∀ c, S.cell e = some c → (rebind = false → c.isInput = true) → 64 ≤ S.edits.length → Writes s A i d 2 4) ∧
      (∀ c, S.cell e = some c → (rebind = false → c.isInput = true) → S.edits.length < 64 →
        let ps := (List.range (fld (r 1) 15 12)).map (fun j => fld (r (5 + j / 4)) (16 * (j % 4) + 15) (16 * (j % 4)))
        (S.wave ≠ none → ∃ u : State, exec i s = .next (u.setAct ((A.setReg d 1).adv 4)) ∧ u.mem = s.mem ∧
          ∃ T w, u.sheet s.ctxNo n = some T ∧ T.edits = S.edits ++ [w] ∧ w.cell = e ∧ w.prec = ps) ∧
        (let cycle := S.cycle e (ps.zipIdx.map (fun p => (p.1, (r 1).getLsbD (16 + p.2))))
         S.wave = none → cycle ≠ [] → ∃ t : State,
          exec i s = .next (t.takeFault s.cur { code := 0x41, faddr := BitVec.ofNat 64 (fld y 15 0), extra := cellWordOf n e }) ∧
          t.sheet s.ctxNo n = some S ∧
          leNat (memRead t.mem (scratchKey s.cur (fld y 15 0)) 2) = 1 + 2 ^ 8 * min 16 cycle.length) ∧
        (S.wave = none → S.cycle e (ps.zipIdx.map (fun p => (p.1, (r 1).getLsbD (16 + p.2)))) = [] →
          ∃ u : State, exec i s = .next (u.setAct ((A.setReg d 0).adv 4)) ∧
            (∃ c', (u.sheet s.ctxNo n).bind (·.cell e) = some c' ∧ c'.entry.toNat = fld (r 1) 47 32 ∧ c'.q.toNat = fld (r 1) 11 8 ∧
              c'.prec = ps ∧ c'.state = .stale ∧ c'.buf0 = c.buf0 ∧ c'.cur = c.cur) ∧
            leNat (memRead u.mem (scratchKey s.cur (fld y 15 0)) 1) = 0))) ∧
    ((fld x 15 6 ≠ 0 ∨ fld x 63 32 ≠ 0) → Traps s (.cdrop d a b) 0x40 0 x ∧ Traps s (.cwr d a b) 0x40 0 x) ∧
    (cellWordOk x = true → (fld y 5 0 ≠ 0 ∨ fld y 63 20 ≠ 0) → Traps s (.cdrop d a b) 0x40 0 y) ∧
    (cellWordOk x = true → repOk y = true →
      (s.engineBusy (fld x 5 0) = true → exec (.cdrop d a b) s = .next (s.updElem s.cur (fun E => { E with stalled := true }))) ∧
      (s.engineBusy (fld x 5 0) = false → s.sheet s.ctxNo (fld x 5 0) = none → Traps s (.cdrop d a b) 0x43 0 2)) ∧
    (cellWordOk x = true → repOk y = true → s.engineBusy (fld x 5 0) = false → ∀ S, s.sheet s.ctxNo (fld x 5 0) = some S →
      (S.cell (fld x 31 16) = none → Traps s (.cdrop d a b) 0x43 0 2) ∧
      (S.cell (fld x 31 16) ≠ none → 64 ≤ S.edits.length → Writes s A (.cdrop d a b) d 2 4) ∧
      (S.cell (fld x 31 16) ≠ none → S.edits.length < 64 → S.wave = none →
        ∃ u : State, exec (.cdrop d a b) s = .next (u.setAct ((A.setReg d 0).adv 4)) ∧
          (u.sheet s.ctxNo (fld x 5 0)).bind (·.cell (fld x 31 16)) = none) ∧
      (S.cell (fld x 31 16) ≠ none → S.edits.length < 64 → S.wave ≠ none →
        ∃ u : State, exec (.cdrop d a b) s = .next (u.setAct ((A.setReg d 1).adv 4)) ∧ u.mem = s.mem ∧
          ∃ T w, u.sheet s.ctxNo (fld x 5 0) = some T ∧ T.edits = S.edits ++ [w] ∧ w.op = 3 ∧ w.cell = fld x 31 16 ∧ w.desc = y ∧
            T.cell (fld x 31 16) = S.cell (fld x 31 16))) ∧
    (∀ bs, reads 24 bs →
      let h := recWord bs 0
      let n := fld h 11 8
      let cell := fun i => fld (recWord bs (1 + i / 4)) (16 * (i % 4) + 15) (16 * (i % 4))
      let head := fld h 7 6 = 0 ∧ fld h 63 12 = 0 ∧ 1 ≤ n ∧ n ≤ 8
      let ok := fld h 7 6 = 0 ∧ fld h 63 12 = 0 ∧ 1 ≤ n ∧ n ≤ 8 ∧ ∀ i, n ≤ i → i < 8 → cell i = 0
      let dest := fld y 63 36 = 0 ∧ fld y 5 0 = 0 ∧ fld y 15 0 + fld y 31 16 ≤ 0x10000
      (¬ head → Traps s (.crd d a b) 0x40 x h) ∧
      (∀ i, head → n ≤ i → i < 8 → cell i ≠ 0 → (∀ j, n ≤ j → j < i → cell j = 0) →
        Traps s (.crd d a b) 0x40 x (recWord bs (1 + i / 4))) ∧
      (ok → ¬ dest → Traps s (.crd d a b) 0x40 0 y) ∧
      (ok → dest → ∀ f, ownDest s (fld y 15 0) (fld y 31 16) = some f → exec (.crd d a b) s = .next (s.takeFault s.cur f)) ∧
      (ok → fld y 63 36 = 0 → fld y 5 0 = 0 → fld y 15 0 + fld y 31 16 ≤ 0x10000 → ownDest s (fld y 15 0) (fld y 31 16) = none →
      (E.avail = 0 → Writes s A (.crd d a b) d 1 4) ∧
      (1 ≤ E.avail → ∃ (u : State) (B : Act), exec (.crd d a b) s = .next (u.setAct B) ∧ s.Posted u A B d 1 ∧
        u.Sent s.cur (port (fld h 5 0)) (.crd h ((List.range n).map cell) y)))) ∧
    (cellWordOk x = true →
      let ok := fld y 31 29 = 0 ∧ 1 ≤ fld y 28 16 ∧ fld y 28 16 ≤ 4096 ∧ fld y 15 0 + fld y 28 16 ≤ 0x10000
      (¬ ok → Traps s (.cwr d a b) 0x40 0 y) ∧
      (ok → ∀ f, ownCheck s (fld y 15 0) (fld y 28 16) = some f → exec (.cwr d a b) s = .next (s.takeFault s.cur f))) ∧
    (cellWordOk x = true → fld y 31 29 = 0 → 1 ≤ fld y 28 16 → fld y 28 16 ≤ 4096 → fld y 15 0 + fld y 28 16 ≤ 0x10000 →
      ownCheck s (fld y 15 0) (fld y 28 16) = none →
      (E.avail = 0 → Writes s A (.cwr d a b) d 1 4) ∧
      (1 ≤ E.avail → ∀ bs, ownSource s (fld y 15 0) (fld y 28 16) = .ok bs → ∃ (u : State) (B : Act) (o : Origin),
        exec (.cwr d a b) s = .next (u.setAct B) ∧ s.Posted u A B d 1 ∧ u.Sent s.cur (port (fld x 5 0)) (.cwr x (fld y 63 32) bs o))) ∧
    (let sends := fun (i : Instr) (body : Body) => ∃ u : State, exec i s = .next (u.setAct (A.adv 4)) ∧ u.elems = s.elems ∧
       u.mem = s.mem ∧ u.Sent s.cur (port (fld x 5 0)) body
     (fld x 15 6 ≠ 0 → Traps s (.cdone a b) 0x40 0 x) ∧
     (fld x 15 6 = 0 → sends (.cdone a b) (.cdone x y (s.origin A))) ∧
     (¬ (fld x 7 6 = 0 ∧ fld x 9 8 ≤ 1 ∧ fld x 15 10 = 0 ∧ fld x 63 20 = 0) → Traps s (.cwave a) 0x40 0 x) ∧
     (fld x 7 6 = 0 → fld x 9 8 ≤ 1 → fld x 15 10 = 0 → fld x 63 20 = 0 → sends (.cwave a) (.cwave x)) ∧
     (¬ (fld x 7 6 = 0 ∧ fld x 15 12 = 0 ∧ fld x 63 20 = 0) → Traps s (.crun a b) 0x40 0 x) ∧
     (fld x 7 6 = 0 → fld x 15 12 = 0 → fld x 63 20 = 0 → fld y 63 32 ≠ 0 → Traps s (.crun a b) 0x40 0 y) ∧
     (fld x 7 6 = 0 → fld x 15 12 = 0 → fld x 63 20 = 0 → fld y 63 32 = 0 → sends (.crun a b) (.crun x y))) ∧
    (let q := fld x 19 16
     let c := s.chan s.cur A.frond q
     let ok := fld x 63 24 = 0 ∧ x.getLsbD 0 = false ∧ fld x 23 20 = 0 ∧ c.bind ≠ none ∧ c.cont = none
     (¬ ok → Traps s (.cwait a b) 0x40 0 x) ∧
     (ok → fld y 15 6 ≠ 0 → Traps s (.cwait a b) 0x40 0 y) ∧
     (ok → fld y 15 6 = 0 → ∃ (u : State) (k : Cont), exec (.cwait a b) s = .next (u.setAct (A.adv 4)) ∧ u.mem = s.mem ∧
       (u.chan s.cur A.frond q).cont = some k ∧ k.entry = x.setWidth 16 ∧ k.fired = none ∧
       u.Sent s.cur (port (fld y 5 0)) (.cwait y A.frond (BitVec.ofNat 4 q)))) ∧
    ((if b = 1 then fld x 63 6 ≠ 0 else fld x 15 6 ≠ 0 ∨ fld x 63 32 ≠ 0) → Traps s (.cstat d a b) 0x40 0 x) ∧
    ((if b = 1 then fld x 63 6 = 0 else cellWordOk x = true) → s.engineBusy (fld x 5 0) = true →
      exec (.cstat d a b) s = .next (s.updElem s.cur (fun E => { E with stalled := true }))) ∧
    (b = 1 → fld x 63 6 = 0 → s.engineBusy (fld x 5 0) = false →
      ∃ v, Writes s A (.cstat d a b) d v 4 ∧ (s.sheet s.ctxNo (fld x 5 0) = none → v = 0) ∧
        ∀ S, s.sheet s.ctxNo (fld x 5 0) = some S → v = S.stat) ∧
    (b ≠ 1 → cellWordOk x = true → s.engineBusy (fld x 5 0) = false →
      ∃ v, Writes s A (.cstat d a b) d v 4 ∧ ∀ S, s.sheet s.ctxNo (fld x 5 0) = some S → v = S.cellStat (fld x 31 16))

/-- Waves (R236–R238, R240–R247, R253, R260). A wave starts with the head request when none is in flight: pending writes are taken, and
every stale or faulted formula cell belongs to its set. A stale cell is ready when each unlagged precedent, after range expansion, is
outside the set or fresh. The first ready cell by rank is dispatched with an evaluation message to its home; one that has no slots
fails with reason 4; the end of its evaluation makes it fresh, or faulted with an error. When every cell of the set is fresh the wave
commits: the generation rises, every cell of the set and every taken input flips its buffer, and the requester is told. A wave with a
failed cell is abandoned: the generation and the buffers stand, taken writes are pending again, failed cells stay faulted and the
others of the set become stale. Then, in either case: a held read is answered from the committed generation; a queued edit is applied,
or refused, with its report record, its message, the count of the refused, and report 0x42 for a cycle; a held write stands in the next
buffer, over a copy of the committed value where the cell had no write pending, and makes its dependants stale; a cell marked NEXT
becomes stale. The step that commits or abandons starts the next wave where a request waits. -/
def Obligations.Waves : Prop :=
  ∀ (s : State) (ctx n : Nat) (S : Sheet), s.sheet ctx n = some S → s.engineRuns ctx = true → S.halted = none →
    let port := enginePort (n / 32)
    let reported := fun (t : State) (code : Nat) (faddr extra : Word) => ∃ D x, tget t.ctxs ctx = some D ∧ x ∈ D.reports ∧
      x.engine = port ∧ fld (vget 0 x.words 0) 7 0 = code ∧ vget 0 x.words 3 = faddr ∧ vget 0 x.words 4 = extra
    let settles := fun (i : Instr) (src : EId) (q : BitVec 4) (gen : Nat) (cur : CellEntry → Word) =>
      (∀ h e c, S.reads = [h] → S.edits = [] → S.writes = [] → h.cells = [e] → fld h.head 5 0 = n → S.cell e = some c →
        c.isRange = false → isMemCore c.home = false → c.size ≤ fld h.desc 31 16 → s.frondOf h.src = none →
        fld h.desc 15 0 + c.size ≤ 65536 → s.MemOk → s.poison = [] → ∃ (t : State) (m : Msg) (r : Ret), exec i s = .next t ∧
        memRead t.mem (scratchKey h.src (fld h.desc 15 0)) c.size = s.bufRead c.home (cur c) 0 c.size ∧
        t.Sent port (some h.src) (.msg (BitVec.ofNat 4 (fld h.desc 35 32)) m r) ∧ r.credit = some h.src ∧
        m.words = words8 [0x10, BitVec.ofNat 64 gen, BitVec.ofNat 64 (c.size * 2 ^ 16), h.head]) ∧
      (∀ d st cyc, S.edits = [d] → S.reads = [] → S.writes = [] → s.frondOf d.src = none → fld d.desc 15 0 + 64 ≤ 65536 → s.MemOk →
        let rep := BitVec.ofNat 64 (fld d.desc 15 0)
        let allowed := ∃ c, S.cell d.cell = some c ∧ (d.op = 1 → c.isInput = true)
        let closes := S.cycle d.cell (d.prec.zipIdx.map (fun p => (p.1, d.lag.getLsbD p.2)))
        (¬ allowed ∧ st = 2 ∧ cyc = []) ∨ (allowed ∧ d.op ≠ 3 ∧ closes ≠ [] ∧ st = 1 ∧ cyc = closes) ∨
          (allowed ∧ (d.op = 3 ∨ closes = []) ∧ st = 0 ∧ cyc = []) →
        ∃ (t : State) (m m' : Msg) (r r' : Ret), exec i s = .next t ∧
          memRead t.mem (scratchKey d.src (fld d.desc 15 0)) 64 = reportBytes st n d.cell gen cyc ∧
          t.Sent port (some d.src) (.msg (BitVec.ofNat 4 (fld d.desc 19 16)) m r) ∧
          m.words = words8 [0x15, rep, BitVec.ofNat 64 st, cellWordOf n d.cell] ∧
          t.Sent port (some src) (.msg q m' r') ∧ vget 0 m'.words 0 = 0x12 ∧ vget 0 m'.words 4 = (if st = 0 then 0 else 1) ∧
          (st = 1 → s.supOk ctx ≠ none → reported t 0x42 rep (cellWordOf n d.cell)) ∧
          (let now := fun x => (t.sheet ctx n).bind (·.cell x)
           (st ≠ 0 → ∀ c, S.cell d.cell = some c → ∃ c', now d.cell = some c' ∧ c'.q = c.q ∧ c'.entry = c.entry ∧ c'.lag = c.lag ∧
             c'.prec = c.prec) ∧
           (st = 0 → d.op = 3 → now d.cell = none) ∧
           (st = 0 → d.op ≠ 3 → ∃ c', now d.cell = some c' ∧ c'.q = d.q ∧ c'.entry = d.entry ∧ c'.lag = d.lag ∧ c'.prec = d.prec ∧
             (S.reqs = [] → c'.state = .stale)) ∧
           (st = 0 → S.reqs = [] → ∀ x ∈ S.users d.cell, x ≠ d.cell → S.cell x ≠ none → ∃ c', now x = some c' ∧ c'.state = .stale))) ∧
      (∀ h c, S.writes = [h] → S.reads = [] → S.edits = [] → S.cell h.cell = some c → c.isInput = true → c.wtaken = true → c.wpend = false →
        isCore c.home = true → s.frondOf c.home = none → h.doff + h.bytes.length ≤ c.size → fld c.buf0 15 0 + c.size ≤ 65536 →
        fld c.buf1 15 0 + c.size ≤ 65536 → s.MemOk → s.poison = [] → S.reqs = [] →
        ∃ (t : State) (T : Sheet) (c' : CellEntry), exec i s = .next t ∧ t.sheet ctx n = some T ∧ T.writes = [] ∧
          T.cell h.cell = some c' ∧ c'.wpend = true ∧ c'.wtaken = false ∧
          memRead t.mem (scratchKey c.home (fld c'.nextBuf 15 0 + h.doff)) h.bytes.length = h.bytes ∧
          ((fld c.buf0 15 0 + c.size ≤ fld c.buf1 15 0 ∨ fld c.buf1 15 0 + c.size ≤ fld c.buf0 15 0) → ∀ j, j < c.size →
            (j < h.doff ∨ h.doff + h.bytes.length ≤ j) →
            memGet t.mem (scratchKey c.home (fld c'.nextBuf 15 0 + j)) = memGet s.mem (scratchKey c.home (fld c.nextBuf 15 0 + j))) ∧
          ∀ x ∈ S.users h.cell, S.cell x ≠ none → ∃ d, T.cell x = some d ∧ d.state = .stale)
    (∀ st e g cyc, st < 2 ^ 8 → n < 64 → e < 2 ^ 16 → g < 2 ^ 48 → (∀ x ∈ cyc, x < 2 ^ 16) →
      let R := leNat (reportBytes st n e g cyc)
      (reportBytes st n e g cyc).length = 64 ∧ R % 2 ^ 8 = st ∧ R / 2 ^ 8 % 2 ^ 8 = min 16 cyc.length ∧ R / 2 ^ 16 % 2 ^ 32 = n ∧
      R / 2 ^ 48 % 2 ^ 16 = e ∧ R / 2 ^ 64 % 2 ^ 64 = g ∧
      ∀ i, i < 24 → R / 2 ^ (128 + 16 * i) % 2 ^ 16 = if i < 16 then cyc.getD i 0 else 0) ∧
    (∀ r rs, S.wave = none → S.reqs = r :: rs → (∀ sn, r ≠ .truncation sn) →
      ∃ (t : State) (T : Sheet) (w : Wave),
      exec (.waveStart ctx n) s = .next t ∧ t.mem = s.mem ∧ t.sheet ctx n = some T ∧ T.wave = some w ∧ w.req = r ∧ w.failed = [] ∧
      T.reqs = rs ∧ T.gen = S.gen ∧
      (∀ e c, S.cell e = some c → c.isInput = true → (c.wpend = true ∨ c.wtaken = true) →
        ∃ c', T.cell e = some c' ∧ c'.wtaken = true ∧ c'.wpend = false ∧ c'.cur = c.cur) ∧
      (∀ e c, S.cell e = some c → c.isFormula = true → (c.state = .stale ∨ c.state = .faulted) →
        e ∈ w.set ∧ ∃ c', T.cell e = some c' ∧ c'.inWave = true ∧ c'.state = .stale)) ∧
    (∀ w e rest c C l, S.wave = some w → w.failed = [] → sortBy (fun e => S.rank e * 65536 + e) (w.set.filter (S.cellReady w)) = e :: rest →
      S.cell e = some c → tget s.ctxs ctx = some C → (∀ m p, m ≠ 0 → C.breakAt n m p = none) → S.slots c = some l →
      ∃ (t : State) (m : Msg), exec (.evalDispatch ctx n) s = .next t ∧ t.mem = s.mem ∧
        (∃ c', (t.sheet ctx n).bind (·.cell e) = some c' ∧ c'.state = .evaluating) ∧
        (∃ r, t.Sent (enginePort (n / 32)) (some c.home) (.msg c.q m r) ∨
          ∃ bs, t.Sent (enginePort (n / 32)) (some c.home) (.bulk c.q m bs r)) ∧
        vget 0 m.words 0 = 0x11 ∧ vget 0 m.words 2 = c.nextBuf ∧ vget 0 m.words 3 = c.curBuf ∧
        vget 0 m.words 4 = BitVec.ofNat 64 (S.gen + 1) ∧ vget 0 m.words 5 = BitVec.ofNat 64 l.length) ∧
    (∀ w e c, S.cell e = some c → (S.cellReady w e = true ↔ c.state = .stale ∧ ∀ p ∈ c.precs.flatMap (S.members 4 false),
      p.2 = true ∨ p.1 ∉ w.set ∨ ∀ d, S.cell p.1 = some d → d.state = .fresh)) ∧
    (∀ w e rest c C, S.wave = some w → w.failed = [] → sortBy (fun e => S.rank e * 65536 + e) (w.set.filter (S.cellReady w)) = e :: rest →
      S.cell e = some c → tget s.ctxs ctx = some C → (∀ m p, m ≠ 0 → C.breakAt n m p = none) → S.slots c = none → s.supOk ctx ≠ none →
      ∃ (t : State) (T : Sheet) (v : Wave), exec (.evalDispatch ctx n) s = .next t ∧ t.mem = s.mem ∧ t.sheet ctx n = some T ∧
        T.wave = some v ∧ v.failed = [(e, S.rank e)] ∧ (∃ c', T.cell e = some c' ∧ c'.state = .faulted) ∧
        reported t 0x45 (cellWordOf n e) 4) ∧
    (∀ k f word status o, s.Arrives k f → f.ctx = ctx → f.body = .cdone word status o → fld word 5 0 = n → S.evaluating word = true →
      ∃ (t : State) (c' : CellEntry), exec (.cdoneReport k) s = .next t ∧ t.mem = s.mem ∧
        (t.sheet ctx n).bind (·.cell (fld word 31 16)) = some c' ∧ c'.state = (if fld status 31 0 = 0 then .fresh else .faulted)) ∧
    (∀ w src q, S.wave = some w → w.failed = [] → (∀ e ∈ w.set, ∀ c, S.cell e = some c → c.state = .fresh) → w.req = .core src q →
      s.streams = [] →
      let gen := (S.gen + 1) % 2 ^ 48
      settles (.waveCommit ctx n) src q gen (fun c => if c.inWave = true ∨ c.wtaken = true then c.nextBuf else c.curBuf) ∧
      (S.edits = [] → ∃ (t : State) (T : Sheet) (m : Msg) (r : Ret), exec (.waveCommit ctx n) s = .next t ∧ t.sheet ctx n = some T ∧
        T.gen = gen ∧ (S.reads = [] → S.writes = [] → t.mem = s.mem) ∧ T.reads = [] ∧ T.writes = [] ∧
        (∀ e c, S.cell e = some c → ∃ c', T.cell e = some c' ∧
          c'.cur = (if c.inWave = true ∨ c.wtaken = true then !c.cur else c.cur) ∧
          ((c.inWave = true ∨ c.wtaken = true) → c'.flipGen = gen % 2 ^ 32) ∧
          (S.reqs = [] → c'.wtaken = false ∧ c'.inWave = false ∧ c'.next = false ∧ (c.next = true → c'.state = .stale) ∧
            (c.next = false → S.writes = [] → c.isInput = false → c'.state = c.state))) ∧
        (S.reqs = [] → T.wave = none) ∧
        (∀ x xs, S.reqs = x :: xs → (∀ sn, x ≠ .truncation sn) → T.reqs = xs ∧ ∃ v, T.wave = some v ∧ v.req = x) ∧
        t.Sent port (some src) (.msg q m r) ∧ m.words = words8 [0x12, BitVec.ofNat 64 gen, BitVec.ofNat 64 (w.set.length % 2 ^ 16 * 2 ^ 16)])) ∧
    (∀ w src q, S.wave = some w → w.failed ≠ [] → (∀ p ∈ S.cells, p.2.inWave = true → p.2.state ≠ .evaluating) → w.req = .core src q →
      settles (.waveAbandon ctx n) src q S.gen (·.curBuf) ∧
      (S.edits = [] → ∃ (t : State) (T : Sheet) (m : Msg) (r : Ret), exec (.waveAbandon ctx n) s = .next t ∧ t.sheet ctx n = some T ∧
        T.gen = S.gen ∧ (S.reads = [] → S.writes = [] → t.mem = s.mem) ∧ T.reads = [] ∧ T.writes = [] ∧
        (∀ e c, S.cell e = some c → ∃ c', T.cell e = some c' ∧ c'.cur = c.cur ∧
          (S.reqs = [] → c'.inWave = false ∧ c'.wtaken = false ∧ c'.next = false ∧ (c.next = true → c'.state = .stale) ∧
            (S.writes = [] → c'.wpend = (c.wtaken || c.wpend)) ∧
            (c.next = false → S.writes = [] → c.inWave = true → c'.state = if c.state = .faulted then .faulted else .stale))) ∧
        (S.reqs = [] → T.wave = none) ∧
        (∀ x xs, S.reqs = x :: xs → (∀ sn, x ≠ .truncation sn) → T.reqs = xs ∧ ∃ v, T.wave = some v ∧ v.req = x) ∧
        t.Sent port (some src) (.msg q m r) ∧ vget 0 m.words 0 = 0x12 ∧ vget 0 m.words 1 = BitVec.ofNat 64 S.gen ∧
        vget 0 m.words 2 = BitVec.ofNat 64 (1 + w.set.length % 2 ^ 16 * 2 ^ 16) ∧
        (∀ e rest, sortBy (fun p : Nat × Nat => p.2 * 65536 + p.1) w.failed = e :: rest → vget 0 m.words 3 = cellWordOf n e.1)))

/-- Requests at the sheet engine (R235, R244, R248, R257, R258). A read is answered from the committed generation, with its bytes at
the destination, or held while the wave holds one of its cells. An input write that fits stands in the next buffer and leaves the
cell pending. A wave program's node 1 asks for a wave, node 4 adds to an event, node 6 ends the program. -/
def Obligations.SheetRequests : Prop :=
  ∀ (s : State) (k : Nat) (f : Flight) (n : Nat) (S : Sheet), s.Arrives k f → s.engineRuns f.ctx = true → s.sheet f.ctx n = some S →
    s.MemOk → s.poison = [] →
    (∀ head e desc c, f.body = .crd head [e] desc → fld head 5 0 = n → S.cell e = some c → c.isRange = false → isMemCore c.home = false →
      (S.holds f.src [e] = true → ∃ (t : State) (T : Sheet) (h : HeldRead), exec (.crdServe k) s = .next t ∧ t.mem = s.mem ∧
        t.sheet f.ctx n = some T ∧ T.reads = S.reads ++ [h] ∧ h.src = f.src ∧ h.cells = [e]) ∧
      (S.holds f.src [e] = false → c.size ≤ fld desc 31 16 → s.frondOf f.src = none → fld desc 15 0 + c.size ≤ 65536 →
        ∃ (t : State) (m : Msg) (r : Ret), exec (.crdServe k) s = .next t ∧
          memRead t.mem (scratchKey f.src (fld desc 15 0)) c.size = s.bufRead c.home c.curBuf 0 c.size ∧
          t.Sent (enginePort (n / 32)) (some f.src) (.msg (BitVec.ofNat 4 (fld desc 35 32)) m r) ∧ r.credit = some f.src ∧
          m.words = words8 [0x10, BitVec.ofNat 64 S.gen, BitVec.ofNat 64 (c.size * 2 ^ 16), head])) ∧
    (∀ word doff bs o c, f.body = .cwr word doff bs o → fld word 5 0 = n → S.cell (fld word 31 16) = some c → c.isInput = true →
      doff + bs.length ≤ c.size → c.wtaken = false → isCore c.home = true → s.frondOf c.home = none →
      fld c.nextBuf 15 0 + c.size ≤ 65536 →
      ∃ (t : State) (c' : CellEntry), exec (.cellWriteApply k) s = .next t ∧
        memRead t.mem (scratchKey c.home (fld c.nextBuf 15 0 + doff)) bs.length = bs ∧
        (t.sheet f.ctx n).bind (·.cell (fld word 31 16)) = some c' ∧ c'.wpend = true ∧ c'.cur = c.cur ∧
        t.Sent (f.dst.getD f.src) (some f.src) .credit) ∧
    (∀ C r w, tget s.ctxs f.ctx = some C → S.run = some r → r.waiting = false → S.halted = none → (∀ m p, m ≠ 0 → C.breakAt n m p = none) →
      (S.progs.getD r.prog [])[r.node]? = some w →
      (fld w 3 0 = 1 → (∀ b, r.budget = some b → r.waves < b) → S.queued < 16 → ∃ (t : State) (T : Sheet),
        exec (.waveNode f.ctx n) s = .next t ∧ t.mem = s.mem ∧ t.sheet f.ctx n = some T ∧ T.reqs = S.reqs ++ [.program] ∧
        T.run = some { r with waiting := true }) ∧
      (fld w 3 0 = 4 → ∃ t : State, exec (.waveNode f.ctx n) s = .next t ∧ t.mem = s.mem ∧
        t.Sent (enginePort (n / 32)) (some (enginePort (if fld w 63 48 < 0x8000 then 0 else 1)))
          (.evReq 2 (BitVec.ofNat 16 (fld w 63 48)) 1)) ∧
      (fld w 3 0 = 6 → ∃ (t : State) (T : Sheet) (m : Msg) (x : Ret), exec (.waveNode f.ctx n) s = .next t ∧ t.mem = s.mem ∧
        t.sheet f.ctx n = some T ∧ T.run = none ∧ t.Sent (enginePort (n / 32)) (some r.src) (.msg r.q m x) ∧
        vget 0 m.words 0 = 0x14 ∧ fld (vget 0 m.words 2) 15 0 = 0))

/-! ### Streams (R309–R343) -/

/-- The stream instructions (R322, R332–R343). A stream word with a reserved bit takes code 0x50, one that names no open
stream of the context 0x51, and an owner form of another element 0x52. Each form then answers with its status, and does to the
stream what its rule says: SOPEN opens it, copies the state cell for slot 0 and asks for a wave; SGEN opens a step in the mode of its mask; SPOST and SREFEED
accept a step or a chunk and ask for a wave; STRUNC starts a truncation; SCKPT copies the state cell's committed value into the
checkpoint cell as a pending or a held write of the whole cell (R320); SFLOOR raises the floor;
SMASK arms a mask; SFRAME queues a frame; SSTAT reads the stream; SCLOSE closes it. Events at a boundary of a stream (R313,
R316, R323): a played frame within the published tokens raises P; one that is not played and lies between the floor and C
starts a truncation to its position with its tokens; a late one, or one beyond C, leaves a FAULT record; a violation of a provisional
step publishes the tokens before the offending one as RELEASED and starts one to it. Commits (R317, R319, R320, R323, R324–R327): the
wave of a step moves g, r and, where nothing is withheld, c, with its TOKENS record; that of a refeed moves r; a truncation's wave
takes STATE back from the checkpoint and moves g, c, p and r, with RETRACT and TOKENS records; a ready mask ends withholding or
finds the first violation; each sends its notice. That SGEN
answers 2 before 3 and that SPOST and SREFEED wait for the element's CWRs are readings of the model (log 33), and so are a
TOKENS record left out where the ring lacks the space for it (log 33), CGEN from the commits of SOPEN's wave and of a release (log 32),
the bound of a floor raised during a truncation and the tokens beyond the capacity, which are dropped (log 34). -/
def Obligations.Streams : Prop :=
  (∀ (s : State) (A : Act) (d a b : Reg), s.Runs A →
      let x := A.reg a
      let y := A.reg b
      let becomes := fun (i : Instr) (sn : Nat) (v : Word) (st' : Stream) => ∃ u : State,
        exec i s = .next (u.setAct ((A.setReg d v).adv 4)) ∧ u.stream sn = some st' ∧ ∀ n, n ≠ sn → u.stream n = s.stream n
      let asks := fun (u : State) (ctx n : Nat) (r : WaveReq) => ∀ S, s.sheet ctx n = some S →
        ∃ T, u.sheet ctx n = some T ∧ T.reqs = S.reqs ++ [r]
      let copies := fun (u : State) (ctx : Nat) (T : Template) (slot : Nat) => ∀ S c k, s.sheet ctx T.sheet = some S →
        S.cell T.stateCell = some c → S.cell (T.cke + slot) = some k → k.size = c.size → s.MemOk → s.poison = [] →
        isCore c.home = true → isCore k.home = true → s.frondOf c.home = none → s.frondOf k.home = none →
        fld c.curBuf 15 0 + c.size ≤ 65536 → fld k.nextBuf 15 0 + k.size ≤ 65536 →
        let value := memRead s.mem (scratchKey c.home (fld c.curBuf 15 0)) c.size
        (k.wtaken = false → memRead u.mem (scratchKey k.home (fld k.nextBuf 15 0)) k.size = value ∧
          ∃ T' k', u.sheet ctx T.sheet = some T' ∧ T'.cell (T.cke + slot) = some k' ∧ k'.wpend = true) ∧
        (k.wtaken = true → ∃ T' w, u.sheet ctx T.sheet = some T' ∧ T'.writes = S.writes ++ [w] ∧ w.cell = T.cke + slot ∧ w.doff = 0 ∧
          w.bytes = value)
      (∀ sn st, ownedAt s x = .ok (sn, st) ↔ fld x 63 13 = 0 ∧ sn = fld x 12 0 ∧ s.stream sn = some st ∧ st.owner = s.cur ∧
        st.ctx = s.ctxNo ∧ ∃ C, s.ctxAt s.cur = some C ∧ C.sliceFirst ≤ sn ∧ sn < C.sliceFirst + C.sliceCount) ∧
      (fld x 63 13 ≠ 0 → Traps s (.sgen d a) 0x50 0 x ∧ Traps s (.sclose d a) 0x50 0 x ∧ Traps s (.sstat d a b) 0x50 0 x) ∧
      (fld x 63 13 = 0 → s.stream (fld x 12 0) = none →
        Traps s (.sgen d a) 0x51 0 x ∧ Traps s (.spost d a b) 0x51 0 x ∧ Traps s (.strunc d a b) 0x51 0 x ∧
        Traps s (.sckpt d a) 0x51 0 x ∧ Traps s (.srefeed d a b) 0x51 0 x ∧ Traps s (.smask d a b) 0x51 0 x ∧
        Traps s (.sclose d a) 0x51 0 x ∧ Traps s (.sfloor d a b) 0x51 0 x ∧ Traps s (.sframe d a b) 0x51 0 x ∧
        Writes s A (.sstat d a b) d 0 4) ∧
      (∀ sn st, streamAt s x = .ok (sn, st) → st.owner ≠ s.cur → ∀ i,
        i ∈ [Instr.sgen d a, .spost d a b, .strunc d a b, .sckpt d a, .srefeed d a b, .smask d a b] → Traps s i 0x52 0 x) ∧
      (∀ sn st, streamAt s x = .ok (sn, st) → s.streamBusy st = false →
        ((st.phase = .idle ∨ st.phase = .refeed) → ∃ u : State,
          exec (.sclose d a) s = .next (u.setAct ((A.setReg d 0).adv 4)) ∧ u.stream sn = none ∧ u.mem = s.mem ∧
            ∀ n, n ≠ sn → u.stream n = s.stream n) ∧
        (st.phase ≠ .idle → st.phase ≠ .refeed → Writes s A (.sclose d a) d 1 4) ∧
        (let bound := match st.trunc with | some tr => min st.p tr.s | none => st.p
         (fld y 63 32 = 0 → bound < fld y 31 0 → Writes s A (.sfloor d a b) d 1 4) ∧
         (fld y 63 32 = 0 → fld y 31 0 ≤ bound → becomes (.sfloor d a b) sn 0 { st with f := max st.f (fld y 31 0) })) ∧
        (b.toNat < 4 → Writes s A (.sstat d a b) d (st.stat b.toNat) 4) ∧
        (b = 4 → becomes (.sstat d a b) sn st.word3 { st with ovf := false }) ∧
        (∀ bs, loadBytes s { aps := [0], rd := true, align := 64 } y 64 = (s, .ok bs) → frameFault (recWord bs) = none →
          (st.tmpl.fq ≤ st.frames → Writes s A (.sframe d a b) d 1 4) ∧
          (st.frames < st.tmpl.fq → st.phase ≠ .idle → becomes (.sframe d a b) sn 0 { st with
            seq := (st.seq + 1) % 2 ^ 32,
            queue := st.queue ++ [{ seq := (st.seq + 1) % 2 ^ 32, kind := frameEvent (recWord bs) }] }) ∧
          (st.frames < st.tmpl.fq → st.phase = .idle → st.queue = [] → ∀ pos toks, frameEvent (recWord bs) = .frame pos true toks →
            pos ≤ st.c → becomes (.sframe d a b) sn 0 { st with seq := (st.seq + 1) % 2 ^ 32, p := max st.p pos }))) ∧
      (∀ sn st, ownedAt s x = .ok (sn, st) → s.streamBusy st = false →
        (st.phase ≠ .idle → Writes s A (.sgen d a) d (BitVec.ofNat 64 (1 + st.g % 2 ^ 32 * 2 ^ 32)) 4 ∧
          (fld y 63 32 = 0 → Writes s A (.strunc d a b) d 1 4) ∧ Writes s A (.sckpt d a) d 1 4) ∧
        (st.phase = .idle → (∀ m, st.mask = some m → s.maskReady st.ctx m = false ∧ s.time % 2 ^ 64 < m.deadline.toNat) → st.mask ≠ none →
          Writes s A (.sgen d a) d (BitVec.ofNat 64 (2 + st.g % 2 ^ 32 * 2 ^ 32)) 4) ∧
        (st.phase = .idle → s.capacity st ≤ st.g →
          (∀ m, st.mask = some m → s.maskReady st.ctx m = true ∨ m.deadline.toNat ≤ s.time % 2 ^ 64) →
          Writes s A (.sgen d a) d (BitVec.ofNat 64 (3 + st.g % 2 ^ 32 * 2 ^ 32)) 4) ∧
        (∀ mode, st.phase = .idle → st.g < s.capacity st →
          (st.mask = none ∧ mode = 0 ∨ ∃ m, st.mask = some m ∧
            (s.maskReady st.ctx m = true ∧ mode = 1 ∨
              s.maskReady st.ctx m = false ∧ m.deadline.toNat ≤ s.time % 2 ^ 64 ∧ mode = 2)) →
          ∃ st', becomes (.sgen d a) sn (BitVec.ofNat 64 (mode * 2 ^ 4 + st.g % 2 ^ 32 * 2 ^ 32)) st' ∧ st'.phase = .step ∧
            st'.stepMode = mode ∧ st'.mask = none ∧ st'.g = st.g ∧ st'.c = st.c) ∧
        (let off := fld y 15 0
         let n := fld y 20 16
         let fits := fld y 63 21 = 0 ∧ n ≤ 16 ∧ off % 4 = 0 ∧ off + 4 * n ≤ 0x10000
         (¬ fits → Traps s (.spost d a b) 0x50 0 y) ∧
         (fits → s.cwrsInFlight st.tmpl.sheet = false →
         (∀ bs, st.phase = .step → st.g + n ≤ s.capacity st → readTokens s off n = (s, .ok bs) →
           ((∃ ev ∈ st.queue, st.truncates ev = true) →
             (∃ u : State, exec (.spost d a b) s = .next (u.setAct ((A.setReg d 0x100).adv 4))) ∧
             (∀ ev es, st.queue = ev :: es → st.truncates ev = true → ∃ (u : State) (st' : Stream) (tr : Truncation),
               exec (.spost d a b) s = .next (u.setAct ((A.setReg d 0x100).adv 4)) ∧ u.stream sn = some st' ∧
               st'.phase = .truncating ∧ st'.trunc = some tr ∧ tr.disc = true ∧ st'.queue = es ∧ st'.seq = (st.seq + 1) % 2 ^ 32)) ∧
           ((∀ ev ∈ st.queue, st.truncates ev = false) →
             (s.ringFree st < 2 * (8 + 4 * (n + st.g - st.c)) + 64 → Writes s A (.spost d a b) d 2 4) ∧
             (2 * (8 + 4 * (n + st.g - st.c)) + 64 ≤ s.ringFree st → s.sheetFull st.ctx st.tmpl.sheet = true →
               Writes s A (.spost d a b) d 1 4))) ∧
         (st.phase ≠ .step → Traps s (.spost d a b) 0x54 0 st.word3) ∧
         (st.phase = .step → s.capacity st < st.g + n → Traps s (.spost d a b) 0x55 0 (BitVec.ofNat 64 st.g)) ∧
         (∀ bs, st.phase = .step → st.g + n ≤ s.capacity st → readTokens s off n = (s, .ok bs) → st.queue = [] →
           2 * (8 + 4 * (n + st.g - st.c)) + 64 ≤ s.ringFree st → s.sheetFull st.ctx st.tmpl.sheet = false →
           ∃ (u : State) (st' : Stream), exec (.spost d a b) s = .next (u.setAct ((A.setReg d 0).adv 4)) ∧ u.mem = s.mem ∧
             u.stream sn = some st' ∧ st'.phase = .committing ∧ st'.posted = halfWords bs ∧ st'.isFeed = false ∧ st'.g = st.g ∧
             asks u st.ctx st.tmpl.sheet (.stream sn)))) ∧
        (let n := fld y 31 0
         fld y 63 32 = 0 →
         (st.phase = .idle → (n < st.f ∨ st.g < n) → Writes s A (.strunc d a b) d 2 4) ∧
         (st.phase = .idle → st.f ≤ n → n ≤ st.g → st.prov ≠ none → Writes s A (.strunc d a b) d 3 4) ∧
         (st.phase = .idle → st.f ≤ n → n ≤ st.g → st.prov = none → ∃ (u : State) (st' : Stream) (tr : Truncation),
           exec (.strunc d a b) s = .next (u.setAct ((A.setReg d 0).adv 4)) ∧ u.mem = s.mem ∧ u.stream sn = some st' ∧
           st'.phase = .truncating ∧ st'.trunc = some tr ∧ tr.s = n ∧ tr.toks = [] ∧ tr.cause = 4) ∧
         (s.cwrsInFlight st.tmpl.sheet = false →
           (st.phase ≠ .refeed → Traps s (.srefeed d a b) 0x54 0 st.word3) ∧
           (st.phase = .refeed → (n = 0 ∨ st.g - st.r < n) → Traps s (.srefeed d a b) 0x55 0 (BitVec.ofNat 64 st.r)) ∧
           (st.phase = .refeed → 1 ≤ n → n ≤ st.g - st.r → st.queue = [] → s.sheetFull st.ctx st.tmpl.sheet = false →
             ∃ (u : State) (st' : Stream), exec (.srefeed d a b) s = .next (u.setAct ((A.setReg d 0).adv 4)) ∧ u.mem = s.mem ∧
               u.stream sn = some st' ∧ st'.phase = .committing ∧ st'.fed = n ∧ st'.isFeed = true ∧
               asks u st.ctx st.tmpl.sheet (.stream sn)))) ∧
        (st.phase = .idle → st.g % st.tmpl.kint ≠ 0 → Writes s A (.sckpt d a) d 2 4) ∧
        (st.phase = .idle → st.g % st.tmpl.kint = 0 → (st.bestSlot st.f).map Prod.fst ≠ some st.ckSlot → s.canCopy st st.ckSlot = true →
          ∃ (u : State) (st' : Stream), exec (.sckpt d a) s = .next (u.setAct ((A.setReg d 0).adv 4)) ∧ u.stream sn = some st' ∧
            tget st'.ck st.ckSlot = none ∧ tget st'.ckPend st.ckSlot = some st.g ∧ copies u st.ctx st.tmpl st.ckSlot) ∧
        (∀ bs, loadBytes s { aps := [0], rd := true, align := 8 } y 24 = (s, .ok bs) → cellWordOk (recWord bs 0) = true →
          fld (recWord bs 1) 63 48 = 0 →
          (st.prov ≠ none → Writes s A (.smask d a b) d 1 4) ∧
          (st.prov = none → ∃ m : MaskArm, becomes (.smask d a b) sn 0 { st with mask := some m } ∧ m.sheet = fld (recWord bs 0) 5 0 ∧
            m.cell = fld (recWord bs 0) 31 16 ∧ m.gen = fld (recWord bs 1) 47 0 ∧ m.deadline = recWord bs 2))) ∧
      (∀ bs C T dst q, loadBytes s { aps := [0], rd := true, align := 8 } x 32 = (s, .ok bs) → s.ctxAt s.cur = some C →
        let r := recWord bs
        let sn := fld (r 0) 12 0
        fld (r 0) 15 13 = 0 → fld (r 0) 63 32 = 0 → fld (r 2) 63 60 = 9 → fld (r 2) 5 0 = 0 → r 3 = 0 →
        msgTarget s.cur (r 1) = .ok (dst, q) → C.sliceFirst ≤ sn → sn < C.sliceFirst + C.sliceCount →
        tget C.templates (fld (r 0) 31 16) = some T → s.templateOk s.ctxNo sn T = true → s.engineBusy T.sheet = false →
        (s.stream sn ≠ none → Writes s A (.sopen d a) d 0x8000000000000001 4) ∧
        (s.stream sn = none → s.sheetFull s.ctxNo T.sheet = true → Writes s A (.sopen d a) d 0x8000000000000002 4) ∧
        (s.stream sn = none → s.sheetFull s.ctxNo T.sheet = false →
          s.canCopy (Stream.opened s.ctxNo T (dst.getD noPosition) q (fld (r 2) 55 0)) 0 = true →
          ∃ (u : State) (st : Stream), exec (.sopen d a) s = .next (u.setAct ((A.setReg d (BitVec.ofNat 64 sn)).adv 4)) ∧
            u.stream sn = some st ∧ st.phase = .opening ∧ st.tmpl = T ∧ st.owner = dst.getD noPosition ∧ st.q = q ∧
            st.base = fld (r 2) 55 0 ∧ st.g = 0 ∧ st.c = 0 ∧ st.r = 0 ∧ st.p = 0 ∧ st.f = 0 ∧ st.w = 0 ∧
            asks u s.ctxNo T.sheet (.stream sn) ∧ copies u s.ctxNo T 0))) ∧
  (∀ (s : State) (sn : Nat) (st : Stream) (e : StreamEvent) (es : List StreamEvent), s.stream sn = some st →
      s.engineRuns st.ctx = true → st.phase = .idle → st.queue = e :: es →
      (∀ pos toks, e.kind = .frame pos true toks → pos ≤ st.c → ∃ (t : State) (st' : Stream), exec (.frameApply sn) s = .next t ∧
        t.mem = s.mem ∧ t.stream sn = some st' ∧ st'.p = max st.p pos ∧ st'.queue = es ∧ st'.phase = st.phase) ∧
      (∀ pos toks, e.kind = .frame pos false toks → st.f ≤ pos → pos ≤ st.c → ∃ (t : State) (st' : Stream) (tr : Truncation),
        exec (.frameApply sn) s = .next t ∧ t.mem = s.mem ∧ t.stream sn = some st' ∧ st'.phase = .truncating ∧ st'.queue = es ∧
        st'.trunc = some tr ∧ tr.s = pos ∧ tr.toks = toks.take (s.capacity st - pos) ∧ tr.cause = 3) ∧
      (∀ u p, e.kind = .violation u → st.prov = some p → u ≤ st.c → ∃ (t : State) (st' : Stream) (tr : Truncation),
        exec (.maskResolutionApply sn) s = .next t ∧ t.mem = s.mem ∧ t.stream sn = some st' ∧ st'.phase = .truncating ∧ st'.queue = es ∧
        st'.trunc = some tr ∧ tr.s = u ∧ tr.toks = [] ∧ tr.cause = 5) ∧
      (∀ u p, e.kind = .violation u → st.prov = some p → st.c < u → u ≤ st.c + st.kept.length → u - st.c ≤ 16381 →
        ∃ (t : State) (st' : Stream) (tr : Truncation), exec (.maskResolutionApply sn) s = .next t ∧ t.stream sn = some st' ∧
        st'.phase = .truncating ∧ st'.queue = es ∧ st'.c = u ∧ st'.g = st.g ∧ st'.trunc = some tr ∧ tr.s = u ∧ tr.toks = [] ∧ tr.cause = 5 ∧
        s.Publishes t st st' [tokensRec 2 st.c (st.kept.take (u - st.c))]) ∧
      (∀ u, e.kind = .violation u → st.prov = none → exec (.maskResolutionApply sn) s = .next (s.setStream sn { st with queue := es })) ∧
      (∀ pos play toks, e.kind = .frame pos play toks → (st.c < pos ∨ (play = false ∧ pos < st.f)) → ∃ (t : State) (st' : Stream),
        exec (.frameApply sn) s = .next t ∧ t.stream sn = some st' ∧ st'.phase = .idle ∧ st'.trunc = st.trunc ∧ st'.queue = es ∧
        st'.g = st.g ∧ st'.c = st.c ∧ st'.f = st.f ∧ st'.r = st.r ∧ st'.p = (if st.c < pos then st.p else max st.p pos) ∧
        t.fabric = s.fabric ∧
        s.Publishes t st st' [ringRec 3 0 [if st.c < pos then 2 else 1, pos, e.seq % 2 ^ 32]])) ∧
  (∀ (kind flags : Nat) (body : List Nat), kind < 2 ^ 8 → flags < 2 ^ 8 → body.length ≤ 16382 → (∀ x ∈ body, x < 2 ^ 32) →
      let bs := ringRec kind flags body
      bs.length = 4 + 4 * body.length ∧ leNat (bs.take 2) = bs.length ∧ leNat ((bs.drop 2).take 1) = kind ∧
      leNat ((bs.drop 3).take 1) = flags ∧ ∀ j, j < body.length → leNat ((bs.drop (4 + 4 * j)).take 4) = body.getD j 0) ∧
  (∀ (s : State) (ctx n : Nat) (S : Sheet) (sn : Nat) (st : Stream), s.sheet ctx n = some S → s.engineRuns ctx = true → S.halted = none →
      s.streams = [(sn, st)] → sn < 8192 → st.ctx = ctx →
      let port := enginePort (sn / 4096)
      (∀ tr rs c k, st.tmpl.sheet = n → S.wave = none → S.reqs = .truncation sn :: rs → st.trunc = some tr →
        S.cell st.tmpl.stateCell = some c → S.cell (st.tmpl.cke + tr.slot) = some k → k.size = c.size → s.MemOk → s.poison = [] →
        isCore c.home = true → isCore k.home = true → s.frondOf c.home = none → s.frondOf k.home = none →
        fld c.nextBuf 15 0 + c.size ≤ 65536 → fld k.curBuf 15 0 + k.size ≤ 65536 →
        ∃ (t : State) (T : Sheet) (v : Wave) (c' : CellEntry), exec (.waveStart ctx n) s = .next t ∧ t.sheet ctx n = some T ∧
          T.reqs = rs ∧ T.wave = some v ∧ v.req = .truncation sn ∧ T.cell st.tmpl.stateCell = some c' ∧ c'.cur = c.cur ∧
          (c.isInput = true → c'.wtaken = true ∧ c'.wpend = false) ∧
          memRead t.mem (scratchKey c.home (fld c.nextBuf 15 0)) c.size = memRead s.mem (scratchKey k.home (fld k.curBuf 15 0)) c.size) ∧
      (∀ w, S.wave = some w → w.failed = [] → (∀ e ∈ w.set, ∀ c, S.cell e = some c → c.state = .fresh) → S.reqs = [] → S.edits = [] →
        S.writes = [] → S.reads = [] → st.queue = [] →
        let gen := (S.gen + 1) % 2 ^ 48
        let ends := fun (P : State → Stream → Prop) => ∃ (t : State) (st' : Stream), exec (.waveCommit ctx n) s = .next t ∧
          t.stream sn = some st' ∧ P t st'
        let told := fun (t : State) (st' : Stream) (cause pos : Nat) (disc : Bool) (toks : List (BitVec 32)) => ∃ (m : Msg) (r : Ret),
          t.Sent port (some st.owner) (.msg st.q m r) ∧ vget 0 m.words 0 = 0x30 ∧ fld (vget 0 m.words 1) 15 0 = sn ∧
          fld (vget 0 m.words 1) 19 16 = cause ∧ fld (vget 0 m.words 1) 23 20 = toks.length ∧
          (vget 0 m.words 1).getLsbD 24 = disc ∧ fld (vget 0 m.words 1) 63 32 = gen % 2 ^ 32 ∧
          vget 0 m.words 2 = BitVec.ofNat 64 (st'.g + st'.c * 2 ^ 32) ∧ vget 0 m.words 3 = BitVec.ofNat 64 (st'.r + pos * 2 ^ 32) ∧
          ∀ j, j < 4 → vget 0 m.words (4 + j) = BitVec.ofNat 64 ((toks.getD (2 * j) 0).toNat + (toks.getD (2 * j + 1) 0).toNat * 2 ^ 32)
        let same := fun (t : State) (st' : Stream) => t.mem = s.mem ∧ st'.p = st.p ∧ st'.f = st.f ∧ st'.w = st.w ∧ st'.cgen = gen
        (w.req = .stream sn → st.tmpl.sheet = n →
          (st.phase = .opening → st.prov = none → ends (fun t st' => st'.phase = .idle ∧ st'.g = st.g ∧ st'.c = st.c ∧ st'.r = st.r ∧
            same t st' ∧ told t st' 0 0 false [])) ∧
          (st.phase = .committing → st.isFeed = true → st.prov = none → ends (fun t st' => st'.g = st.g ∧ st'.c = st.c ∧
            st'.r = st.r + st.fed ∧ st'.phase = (if st'.r < st'.g then .refeed else .idle) ∧ same t st' ∧ told t st' 2 0 false [])) ∧
          (st.phase = .committing → st.isFeed = false → st.prov = none → st.posted ≠ [] → ends (fun t st' => st'.phase = .idle ∧
            st'.g = st.g + st.posted.length ∧ st'.c = st'.g ∧ st'.r = st'.g ∧ st'.p = st.p ∧ st'.f = st.f ∧ st'.cgen = gen ∧
            s.Publishes t st st' [tokensRec 0 st.g st.posted] ∧ told t st' 1 0 false [])) ∧
          (∀ p, st.phase = .committing → st.isFeed = false → st.prov = some p →
            (∀ S', s.sheet ctx p.mask.sheet = some S' → S'.gen + 1 < p.mask.gen) → ends (fun t st' => st'.phase = .idle ∧
            st'.g = st.g + st.posted.length ∧ st'.c = st.c ∧ st'.r = st'.g ∧ st'.kept = st.kept ++ st.posted ∧
            st'.prov = some (if st.stepMode = 2 then { p with n := st.posted.length, committed := true } else p) ∧
            same t st' ∧ told t st' 1 0 false [])) ∧
          (∀ i pos, st.ckPend = [(i, pos)] → (∃ c, S.cell (st.tmpl.cke + i) = some c ∧ c.wtaken = true) →
            (st.phase = .opening ∨ st.phase = .committing) → st.prov = none → ends (fun _ st' => tget st'.ck i = some pos ∧ st'.ckPend = []))) ∧
        (∀ tr, w.req = .truncation sn → st.tmpl.sheet = n → st.trunc = some tr → 3 ≤ tr.cause → tr.cause ≤ 5 → tr.toks.length ≤ 8 → ends (fun t st' =>
          let k := tr.toks.length
          st'.c = min st.c tr.s + k ∧ st'.g = tr.s + k ∧ st'.r = tr.ck ∧ st'.p = min st.p tr.s ∧ st'.f = st.f ∧ st'.cgen = gen ∧
          st'.prov = none ∧ st'.trunc = none ∧ st'.kept = [] ∧ st'.phase = (if st'.r < st'.g then .refeed else .idle) ∧
          s.Publishes t st st' (ringRec 2 0 [tr.s, st.c, st.g] :: (if k = 0 then [] else [tokensRec 1 tr.s tr.toks])) ∧
          told t st' tr.cause tr.s tr.disc tr.toks)) ∧
        (∀ src q p mc, w.req = .core src q → st.prov = some p → p.committed = true → p.found = false → p.mask.sheet = n →
          p.mask.gen ≤ gen → S.cell p.mask.cell = some mc →
          let value := s.bufRead mc.home (if mc.inWave = true ∨ mc.wtaken = true then mc.nextBuf else mc.curBuf) 0 mc.size
          let allowed := fun i => maskAllows value (st.kept.getD (p.v + i - st.c) 0)
          ((∀ i, i < p.n → allowed i = true) → 0 < st.kept.length → st.kept.length ≤ 16381 → st.tmpl.sheet = n → ends (fun t st' =>
            st'.phase = st.phase ∧ st'.g = st.g ∧ st'.c = st.g ∧ st'.kept = [] ∧ st'.prov = none ∧ st'.cgen = gen ∧
            s.Publishes t st st' [tokensRec 2 st.c st.kept] ∧ told t st' 6 0 false [])) ∧
          (∀ i, i < p.n → allowed i = false → (∀ j, j < i → allowed j = true) → st.phase ≠ .idle → ends (fun t st' => t.mem = s.mem ∧
            st'.seq = (st.seq + 1) % 2 ^ 32 ∧ st'.c = st.c ∧ st'.phase = st.phase ∧ st'.prov = some { p with found := true } ∧
            st'.queue = [{ seq := (st.seq + 1) % 2 ^ 32, kind := .violation (p.v + i) }])))))

/-! ### Channels, the start of activations, fronds (R85–R88, R346–R364) -/

/-- Which channel starts next (R85, R86): a floored channel that has waited 63 starts comes first, the lowest of them;
otherwise a ready channel of the highest priority, the first after the one last started at that priority, cyclically; none
only where none is ready. THE START OF AN ACTIVATION (R85, R88, R91, R97): the element takes the selected channel's oldest
message, or the continuation that its slot holds; the activation begins at the entry with WDCNT zero and w0–w31 read from the
register area at WP (of a doubleword in error the value is free, log 4), mb0–mb7 zero, in0–in7 the words of the message or of the firing,
in7 of a short evaluation message WP + 256 (R240), no dead register and digest zero. Every other
floored channel that is ready counts one start more, the channel's own count is zero, and the last-started number of its priority is the
channel's unless it was owed (R86; log 66). -/
def Obligations.ActivationStarts : Prop :=
  (∀ (s : State) (chans : Vector Chan 16) (last : Tbl Nat),
      let ch := fun q => vget Chan.reset chans q
      let ready := fun q => q < 16 ∧ chanReady s (ch q) = true
      let owed := fun q => ready q ∧ floorOf (ch q) = true ∧ 63 ≤ (ch q).wait
      (selectChan s chans last = none ↔ ∀ q, ¬ ready q) ∧
      (∀ q, selectChan s chans last = some (q, true) ↔ owed q ∧ ∀ q', owed q' → q ≤ q') ∧
      (∀ q, selectChan s chans last = some (q, false) → ready q ∧ (∀ q', ¬ owed q') ∧
        (∀ q', ready q' → prioOf (ch q') ≤ prioOf (ch q)) ∧
        let l := (tget last (prioOf (ch q))).getD 15
        ∀ q', ready q' → prioOf (ch q') = prioOf (ch q) → q' ≠ q →
          (l < q → q' ≤ l ∨ q < q') ∧ (q ≤ l → q' ≤ l ∧ q < q'))) ∧
  (∀ (s : State) (e : EId) (q : Nat) (owed : Bool) (b : Binding), s.canStart e = true → s.frondOf e = none →
      selectChan s (s.elem e).chans (s.elem e).lastStart = some (q, owed) →
      let c := vget Chan.reset (s.elem e).chans q
      c.bind = some b →
      let started := fun (t : State) (B : Act) (entry : Word) => exec (.activationStart e) s = .next t ∧ (t.elem e).act = some B ∧
        t.mem = s.mem ∧ B.chan = BitVec.ofNat 4 q ∧ B.pc = entry ∧ B.entry = entry ∧ B.wp = BitVec.ofNat 64 b.wp.toNat ∧
        B.prio = b.prio ∧ B.floor = b.floor ∧ B.frond = false ∧ B.dead = 0 ∧ B.digest = 0 ∧ (∀ j, vget 0 B.mb j = 0) ∧ t.wdcnt B = 0 ∧
        (b.wp.toNat + 256 ≤ 65536 → ∀ j, j < 32 → s.poison.contains (scratchKey e (b.wp.toNat + 8 * j)) = false →
          vget 0 B.w j = leWord (memRead s.mem (scratchKey e (b.wp.toNat + 8 * j)) 8)) ∧
        (∀ q', q' < 16 → q' ≠ q → let c' := vget Chan.reset (s.elem e).chans q'
          vget Chan.reset (t.elem e).chans q' = { c' with wait := if floorOf c' = true ∧ chanReady s c' = true then c'.wait + 1 else c'.wait }) ∧
        ∀ p, tget (t.elem e).lastStart p = if owed = false ∧ p = b.prio.toNat then some q else tget (s.elem e).lastStart p
      (∀ m ms, contHolds s c = false → c.queue = m :: ms → ∃ (t : State) (B : Act), started t B (b.entry.setWidth 64) ∧ B.cont = false ∧
        B.inn = entryWords b m ∧ vget Chan.reset (t.elem e).chans q = { c with queue := ms, wait := 0 }) ∧
      (∀ k, contHolds s c = true → c.cont = some k → k.kind ≠ .message → ∃ (t : State) (B : Act), started t B (k.entry.setWidth 64) ∧
        B.cont = true ∧ B.inn = k.fired.getD (words8 []) ∧ vget Chan.reset (t.elem e).chans q = { c with cont := none, wait := 0 }) ∧
      (∀ k m ms, c.cont = some k → k.kind = .message → c.queue = m :: ms → ∃ (t : State) (B : Act), started t B (k.entry.setWidth 64) ∧
        B.cont = true ∧ B.inn = entryWords b m ∧ vget Chan.reset (t.elem e).chans q = { c with cont := none, queue := ms, wait := 0 })) ∧
  (∀ (b : Binding) (m : Msg),
      (∀ ctx n c g, m.kind = .eval ctx n c g → m.region = false → vget 0 (entryWords b m) 7 = BitVec.ofNat 64 (b.wp.toNat + 256) ∧
        ∀ j, j < 7 → vget 0 (entryWords b m) j = vget 0 m.words j) ∧
      ((m.region = true ∨ ∀ ctx n c g, m.kind ≠ .eval ctx n c g) → entryWords b m = m.words))

/-- Fronds (R346, R351, R354, R355, R361–R364). COMPOSE with a valid binding and scope, every member free, ends the activation and leaves a
joining frond; within a frond it takes code 0x63, with a malformed word 0x60, a scope that R346 does not admit 0x61, and it answers 1
or 2 where a member is taken or fenced. A joining frond whose members are idle is composed, and its first activation, which a stop of
the leader delays (log 39), starts with the registers of the composing one. RELEASE answers 1 or 2 where the frond is not ready or the leader's own queue has no room; otherwise
the cores are releasing while it stalls, and, issued again, it ends the frond: the registers stand at LWP, and the notice in the queue.
Outside a frond it takes code 0x62. FRSTAT reads the state word of a core, of a fenced one too (the model's reading, log 38, which
also holds the leader's own queues from the answer to the end). -/
def Obligations.Fronds : Prop :=
  ∀ (s : State),
    (∀ (A : Act) (d a b : Reg), s.Runs A →
      let x := A.reg a
      let e := s.cur
      (∀ i, (i = .compose d a b ∨ i = .release d a ∨ i = .frstat d a) → isCore e = false → Traps s i 0x02 0 (insnExtra i 0)) ∧
      (isCore e = true → A.frond = true → Traps s (.compose d a b) 0x63 0 0) ∧
      (isCore e = true → A.frond = false →
        Traps s (.release d a) 0x62 0 x ∧
        (bindFieldsOk x = false → Traps s (.compose d a b) 0x60 0 x) ∧
        (bindFieldsOk x = true → (s.ctxAt e).bind (fun C => frondRect C e b.toNat) = none →
          Traps s (.compose d a b) 0x61 0 (BitVec.ofNat 64 b.toNat)) ∧
        (∀ r, bindFieldsOk x = true → (s.ctxAt e).bind (fun C => frondRect C e b.toNat) = some r →
          ((∃ m ∈ r.elems, s.frondWith m ≠ none) → Writes s A (.compose d a b) d 1 4) ∧
          ((∀ m ∈ r.elems, s.frondWith m = none) → (∃ m ∈ r.elems, (s.elem m).mode = .fenced) →
            Writes s A (.compose d a b) d 2 4) ∧
          ((∀ m ∈ r.elems, s.frondWith m = none ∧ (s.elem m).mode ≠ .fenced) → ∃ (t : State) (f : Frond),
            exec (.compose d a b) s = .next t ∧ (t.elem e).act = none ∧ t.fronds = s.fronds ++ [f] ∧ f.leader = e ∧
            f.composed = false ∧ f.w = r.w ∧ f.h = r.h ∧ f.binding = x ∧
            ∀ j, j < 32 → vget 0 f.regs j = (A.setReg d 0).reg (BitVec.ofNat 6 j)))) ∧
      (∀ f, isCore e = true → A.frond = true → s.frondOf e = some f → s.releasingOf e = none →
        let others := ∀ j, j < 16 → j ≠ A.chan.toNat → (vget Chan.reset f.chans j).queue = [] ∧ (vget Chan.reset f.chans j).cont = none
        let idle := others ∧ 16 ≤ (s.elem e).avail ∧ (s.elem e).mq = []
        let room := x.getLsbD 20 = false ∨ (vget Chan.reset (s.elem e).chans (fld x 19 16)).queue.length < 4
        (¬ (fld x 63 21 = 0 ∧ fld x 15 0 % 256 = 0) → Traps s (.release d a) 0x60 0 x) ∧
        (fld x 63 21 = 0 → fld x 15 0 % 256 = 0 →
          (¬ idle → Writes s A (.release d a) d 1 4) ∧ (idle → ¬ room → Writes s A (.release d a) d 2 4) ∧
          (idle → room → exec (.release d a) s = .next (s.acceptRelease.updElem e (fun E => { E with stalled := true })) ∧
            (s.fronds = [f] → ∀ m ∈ f.members, fld (s.acceptRelease.frondStat m) 1 0 = 3)))) ∧
      (∀ f, isCore e = true → A.frond = true → s.releasingOf e = some f → s.MemOk →
        let B := A.setReg d 0
        let lwp := fld x 15 0
        ∃ t : State, exec (.release d a) s = .next t ∧ (t.elem e).act = none ∧ t.fronds = s.fronds.filter (fun g => g.leader != e) ∧
          (∀ j, j < 32 → B.dead.getLsbD j = false → memRead t.mem (scratchKey e (lwp + 8 * j)) 8 = wordBytes (vget 0 B.w j)) ∧
          (let Q := fun u : State => (vget Chan.reset (u.elem e).chans (fld x 19 16)).queue
           (x.getLsbD 20 = false → Q t = Q s) ∧
           (x.getLsbD 20 = true → (Q s).length < 4 → ∃ m : Msg, Q t = Q s ++ [m] ∧
             m.words = words8 [0x40, BitVec.ofNat 64 lwp, f.word])) ∧
          (∀ m ∈ f.members, m ≠ e → ∀ q c h, q < 16 → (vget Chan.reset (s.elem m).chans q).queue = [h] → h.kind = .firing →
            (vget Chan.reset (s.elem m).chans q).cont = some c → c.kind.awaitsFiring = true → c.fired = none →
            (vget Chan.reset (t.elem m).chans q).queue = [] ∧
            (vget Chan.reset (t.elem m).chans q).cont = some { c with fired := some h.words })) ∧
      (∀ pl, isCore e = true → remoteAt s e x 1 false true = .ok pl → s.postedTo e (rawOf s e pl).1 = [] →
        let t := (rawOf s e pl).1
        ∃ v, Writes s A (.frstat d a) d v 4 ∧ (s.frondWith t = none → v = 0) ∧
          ∀ f, s.frondWith t = some f →
            let state := if f.composed then 2 else if f.releasing then 3 else 1
            let held := if f.composed || f.releasing then ((s.elem t).chans.toList.map (fun c => c.queue.length)).sum else 0
            v = BitVec.ofNat 64 (state + f.index t * 2 ^ 2 + lg f.n * 2 ^ 6 + f.leader * 2 ^ 16 + Nat.min 64 held * 2 ^ 32))) ∧
    (∀ e f, s.fronds.find? (fun f => f.leader == e && !f.composed && !f.releasing) = some f →
      (∀ m ∈ f.members, (s.elem m).act = none ∧ (s.elem m).mode ≠ .fenced) → (∃ C, s.ctxAt e = some C ∧ C.switch = .running) →
      ∃ t : State, exec (.frondComposed e) s = .next t ∧ t.mem = s.mem ∧ (∀ g ∈ t.fronds, g.leader = e → g.composed = true) ∧
        (s.fronds = [f] → (s.elem e).act = none →
          let first := fun B : Act => B.w = f.regs ∧ B.frond = true ∧ B.cont = true ∧ B.pc.toNat = fld f.binding 31 16 ∧
            B.wp.toNat = fld f.binding 47 32 ∧ B.dead = 0 ∧ (∀ j, j < 8 → vget 0 B.mb j = 0 ∧ vget 0 B.inn j = 0)
          (∀ B, (t.elem e).act = some B → first B) ∧
          ((s.elem e).mode = .normal → (s.elem e).haltReq = false → (∀ C, s.ctxAt e = some C → C.serial = false) →
            ∃ B, (t.elem e).act = some B ∧ first B)))

/-! ### Memory cores (R294–R308) -/

/-- Block transfers and tile pushes (R299–R303). A malformed descriptor takes code 0x19, an address that is not aligned to 64 code
0x11. A transfer whose every granule passes moves the bytes between device or host memory and the scratchpad, and ends; a granule that
fails stops it with that fault, and the granules below it stand to be resumed by that instruction there, and by no other. That the whole transfer is one step, with the digest of
the granules done kept for the resumption, is the model's choice (log 37), as is that a store into another context's allotment leaves
memory as it was (log 64). MCPUSH posts the bytes with their token as SENDB does, and
the push is accepted when its channel has room: the bytes stand at DST. -/
def Obligations.BlockTransfers : Prop :=
  ∀ (s : State),
    (∀ (A : Act) (d a b : Reg) (st : Bool), s.Runs A → isMemCore s.cur = true →
      let x := A.reg a
      let y := A.reg b
      let e := s.cur
      let i := if st then Instr.mcst a b else .mcld a b
      let off := fld y 15 0
      let len := fld y 28 16
      (transferOk y st = false → Traps s i 0x19 0 y) ∧
      (∀ pl, transferOk y st = true → resolve s e [8, 9] x = .ok pl →
        (fld x 5 0 ≠ 0 → ∃ w, Traps s i 0x11 x w) ∧
        (fld x 5 0 = 0 → ∀ ps g0 d0, plan s e { aps := [0], rd := st, wr := !st } (BitVec.ofNat 64 off) len = .ok ps →
          let fresh := g0 = 0 ∧ d0 = A.digest ∧ ∀ T, (s.elem e).transfer = some T → ¬ (T.insn = i ∧ T.pc = A.pc)
          let again := (s.elem e).transfer = some { insn := i, pc := A.pc, granules := g0, digest := d0 }
          (fresh ∨ again) →
          (∀ t g, transferFrom s e st (y.getLsbD 29) x off len d0 g0 ((len + 63) / 64 - g0) = (t, g, none) →
            exec i s = .next ((t.updElem e (fun E => { E with transfer := none })).setAct ({ A with digest := g }.adv 4))) ∧
          (∀ t g f n, transferFrom s e st (y.getLsbD 29) x off len d0 g0 ((len + 63) / 64 - g0) = (t, g, some (f, n)) →
            exec i s = .next ((t.updElem e (fun E => { E with
              transfer := some { insn := i, pc := A.pc, granules := n, digest := g } })).takeFault t.cur f)) ∧
          (fresh → len ≤ 64 → s.frondOf e = none → s.poison = [] → ∀ far key, granuleFar s e st (y.getLsbD 29) x len 0 = .ok (far, key) →
            ∃ (u : State) (B : Act), exec i s = .next (u.setAct B) ∧ B.pc = A.pc + 4 ∧ (∀ r, B.reg r = A.reg r) ∧
              u.mem = if st = true then (if s.barred (s.keyOf e) key len then s.mem else memWrite s.mem key (memRead s.mem (scratchKey e off) len))
                else memWrite s.mem (scratchKey e off) (memRead s.mem key len)))) ∧
      (∀ dst q, msgTarget e x = .ok (dst, q) →
        (pushOk y = false → Traps s (.mcpush d a b) 0x19 0 y) ∧
        (pushOk y = true → ownCheck s off len = none →
          ((s.elem e).avail = 0 → Writes s A (.mcpush d a b) d 1 4) ∧
          (1 ≤ (s.elem e).avail → ∀ bs, ownSource s off len = .ok bs → ∃ (u : State) (B : Act) (m : Msg) (r : Ret),
            exec (.mcpush d a b) s = .next (u.setAct B) ∧ s.Posted u A B d 1 ∧ u.Sent e dst (.push q m (fld y 47 32) bs r) ∧
            (∀ j, j < 6 → vget 0 m.words j = vget 0 A.mb j) ∧ vget 0 m.words 6 = BitVec.ofNat 64 len ∧
            vget 0 m.words 7 = BitVec.ofNat 64 (fld y 47 32))))) ∧
    (∀ k f q m dst bs r e, s.Arrives k f → f.body = .push q m dst bs r → f.dst = some e → s.refusal f = none →
      s.isHeldMember e = false → s.frondOf e = none → dst + bs.length ≤ 65536 →
      ((s.chan e false q.toNat).queue.length < 4 → ∃ t : State, exec (.tilePushAccept k) s = .next t ∧
        t.mem = memWrite s.mem (scratchKey e dst) bs ∧
        (t.chan e false q.toNat).queue = (s.chan e false q.toNat).queue ++ [m] ∧
        ∀ e', r.credit = some e' → t.Sent e (some e') .credit) ∧
      (4 ≤ (s.chan e false q.toNat).queue.length → exec (.tilePushAccept k) s = .next s))

/-- Translations, quarantine, the weight store and host completions (R295, R304–R308). Every form takes code 0x02 on a core, and
a malformed operand code 0x19. TLBINV leaves no memory core of the context a translation that overlaps the range; an address of another
aperture takes code 0x10. PGREL.q queues a frame with TIME, one outside the allotment takes code 0x16 with CAUSE 3, and PGREL.r gives back the oldest once the quiescence stamp has passed its own; that the stamp is TIME is the model's
choice (log 36). WSWR writes the bytes into the die's weight store, its checks in the model's order (log 59), or answers 1 while a wave
of the sheet is in flight; code 0x1D carries register a, the
weight-store offset, as fault address, and an extra word with CAUSE zero, WRITE set and, the model's reading, SIZE 6 (log 23). TLBINV judging a[11:0] before b, the
order of PGREL.q's checks, and the fault address and SIZE 0 of its 0x16 are the model's choices (log 23); WSREF reads the start of the bank's refresh window in progress or next, and the window itself changes
no state (log 55). A host completion timeout waits for the element's next access (logs 14, 58). -/
def Obligations.MemoryCores : Prop :=
  ∀ (s : State),
    (∀ (A : Act) (d a b : Reg), s.Runs A →
      let x := A.reg a
      let y := A.reg b
      let e := s.cur
      let T := s.time % 2 ^ 64
      (∀ i, i ∈ [Instr.mcld a b, .mcst a b, .mcpush d a b, .tlbinv a b, .pgrelQ d a b, .pgrelR d, .qcnt d, .wswr d a b, .wsref d a] →
        isMemCore e = false → Traps s i 0x02 0 (insnExtra i 0)) ∧
      (isMemCore e = true →
        (∀ C, s.ctxAt e = some C → fld x 63 60 = 8 → fld x 55 52 = 0 → fld x 11 0 = 0 → y.toNat ≤ 2 ^ 20 →
          ∃ u : State, exec (.tlbinv a b) s = .next (u.setAct (A.adv 4)) ∧ u.mem = s.mem ∧
            (∀ m ∈ C.memcores, ∀ t ∈ (u.elem m).tlb, t ∈ (s.elem m).tlb ∧ y ≠ 0 ∧
              (t.2.va + 2 ^ t.2.log2 ≤ fld x 51 0 ∨ fld x 51 0 + 4096 * y.toNat ≤ t.2.va)) ∧
            (∀ m, m ∉ C.memcores → u.elem m = s.elem m)) ∧
        (fld x 63 60 ≠ 8 → Traps s (.tlbinv a b) 0x10 x (MemX.word { ptag := fld x 59 56, cause := 1 })) ∧
        (fld x 63 60 = 8 → fld x 55 52 ≠ 0 → Traps s (.tlbinv a b) 0x10 x (MemX.word { ptag := fld x 59 56, cause := 2 })) ∧
        (fld x 63 60 = 8 → fld x 55 52 = 0 → fld x 11 0 ≠ 0 → Traps s (.tlbinv a b) 0x19 0 x) ∧
        (fld x 63 60 = 8 → fld x 55 52 = 0 → fld x 11 0 = 0 → 2 ^ 20 < y.toNat → Traps s (.tlbinv a b) 0x19 0 y) ∧
        ((fld x 11 0 ≠ 0 ∨ fld x 63 52 ≠ 0) → Traps s (.pgrelQ d a b) 0x19 0 x) ∧
        (fld x 11 0 = 0 → fld x 63 52 = 0 → 4 < y.toNat → Traps s (.pgrelQ d a b) 0x19 0 y) ∧
        (∀ C, s.ctxAt e = some C → fld x 11 0 = 0 → fld x 63 52 = 0 → y.toNat ≤ 4 →
          let size := 2 ^ pageLog2 y.toNat
          (x.toNat % size ≠ 0 → Traps s (.pgrelQ d a b) 0x19 0 x) ∧
          (x.toNat % size = 0 → (x.toNat < C.allotBase ∨ C.allotBase + C.allotSize < x.toNat + size) →
            Traps s (.pgrelQ d a b) 0x16 x (MemX.word { cause := 3 })) ∧
          (x.toNat % size = 0 → C.allotBase ≤ x.toNat → x.toNat + size ≤ C.allotBase + C.allotSize →
            (1024 ≤ C.quarantine.length → Writes s A (.pgrelQ d a b) d 1 4) ∧
            (C.quarantine.length < 1024 → ∃ (u : State) (D : Ctx),
              exec (.pgrelQ d a b) s = .next (u.setAct ((A.setReg d 0).adv 4)) ∧ tget u.ctxs s.ctxNo = some D ∧
              D.quarantine = C.quarantine ++ [(x.toNat, y.toNat, T)] ∧ u.mem = s.mem))) ∧
        (∀ C, s.ctxAt e = some C →
          (C.quarantine = [] → Writes s A (.pgrelR d) d 0 4) ∧
          (∀ fr n tf rest, C.quarantine = (fr, n, tf) :: rest →
            (T ≤ tf → Writes s A (.pgrelR d) d 0 4) ∧
            (tf < T → ∃ (u : State) (D : Ctx),
              exec (.pgrelR d) s = .next (u.setAct ((A.setReg d (BitVec.ofNat 64 (2 ^ 63 + fr + n))).adv 4)) ∧
              tget u.ctxs s.ctxNo = some D ∧ D.quarantine = rest ∧ u.mem = s.mem))) ∧
        Writes s A (.qcnt d) d (BitVec.ofNat 64 s.time) 4 ∧
        (let o := x.toNat
         let src := fld y 15 0
         let len := fld y 28 16
         let offsetOk := fld x 63 29 = 0 ∧ fld x 5 0 = 0
         let descOk := src % 64 = 0 ∧ len % 64 = 0 ∧ 1 ≤ len ∧ len ≤ 4096 ∧ fld y 31 29 = 0 ∧
           fld y 63 38 = 0 ∧ o + len ≤ 0x18000000 ∧ src + len ≤ 0x10000
         (¬ offsetOk → Traps s (.wswr d a b) 0x19 0 x) ∧ (offsetOk → ¬ descOk → Traps s (.wswr d a b) 0x19 0 y) ∧
         (offsetOk → descOk → ∀ C, s.ctxAt e = some C →
         (C.banksOk (eDie e) o len = false → Traps s (.wswr d a b) 0x1D x 0xE) ∧
         (C.banksOk (eDie e) o len = true → ∀ f, ownCheck s src len = some f →
           exec (.wswr d a b) s = .next (s.takeFault s.cur f)) ∧
         (C.banksOk (eDie e) o len = true → ownCheck s src len = none → s.engineBusy (fld y 37 32) = true →
           exec (.wswr d a b) s = .next (s.updElem s.cur (fun E => { E with stalled := true }))) ∧
         (∀ bs, C.banksOk (eDie e) o len = true → ownCheck s src len = none → s.engineBusy (fld y 37 32) = false →
           ownSource s src len = .ok bs →
           (∀ S, s.sheet s.ctxNo (fld y 37 32) = some S → S.wave ≠ none → Writes s A (.wswr d a b) d 1 4) ∧
           ((∀ S, s.sheet s.ctxNo (fld y 37 32) = some S → S.wave = none) →
             exec (.wswr d a b) s = .next (State.setAct { s with mem := memWrite s.mem (weightKey (eDie e) o) bs }
               ((A.setReg d 0).adv 4)))))) ∧
        (fld x 63 8 ≠ 0 → Traps s (.wsref d a) 0x19 0 x) ∧
        (fld x 63 8 = 0 → ∃ v, Writes s A (.wsref d a) d (BitVec.ofNat 64 v) 4 ∧ v % 57600 = 225 * x.toNat ∧ T < v + 256 ∧
          (225 * x.toNat + 57600 ≤ v → v < T + 57600 - 255)))) ∧
    (∀ e, isMemCore e = true ∨ e = mgmtCore → ∃ t : State, exec (.hostCompletionTimeout e) s = .next t ∧
      (t.elem e).hostTimeout = true ∧ t.mem = s.mem) ∧
    (∀ die bank, exec (.refreshWindow die bank) s = .next s)

/-! ### Faults, debugging, system forms (R366–R399) -/

/-- TAKING A FAULT (R7, R366–R369): the element freezes at the PC of its activation, which stands with all its registers, counts one
more packet and keeps the code; memory, its tags and the other elements' activations, registers, channels and regions stand. The packet
carries CODE, KIND 0, the context, the channel, COORD, PC, WP, the fault address, the extra word, TIME and PSEQ; it goes to q15 of
the supervisor, or, where the element is the supervisor or the supervisor is fenced, to the host as an escalation. -/
def Obligations.FaultTaken : Prop :=
  ∀ (s : State) (e : EId) (A : Act) (f : Flt) (ctx : Nat) (C : Ctx), (s.elem e).act = some A → (s.elem e).mode ≠ .fenced →
    s.ctxOf e = some ctx → tget s.ctxs ctx = some C →
    let t := s.takeFault e f
    let packet := fun (w : Words8) =>
      fld (vget 0 w 0) 9 8 = 0 ∧ vget 0 w 1 = A.pc ∧ vget 0 w 2 = A.wp ∧ vget 0 w 3 = f.faddr ∧ vget 0 w 4 = f.extra ∧
      vget 0 w 5 = BitVec.ofNat 64 s.time ∧ vget 0 w 7 = ((s.elem e).pseq + 1).setWidth 64 ∧
      (ctx < 64 → e < 2 ^ 16 → fld (vget 0 w 0) 7 0 = f.code ∧ fld (vget 0 w 0) 23 16 = ctx ∧
        fld (vget 0 w 0) 27 24 = A.chan.toNat ∧ fld (vget 0 w 0) 47 32 = e)
    f.code < 256 →
    (t.elem e).act = some A ∧ (t.elem e).mode = .frozen ∧ (t.elem e).lastFault = BitVec.ofNat 8 f.code ∧
    (t.elem e).pseq = (s.elem e).pseq + 1 ∧ (t.elem e).stalled = false ∧ t.mem = s.mem ∧ t.tags = s.tags ∧ t.time = s.time ∧
    (∀ e', (t.elem e').v = (s.elem e').v ∧ (t.elem e').k = (s.elem e').k ∧ (t.elem e').chans = (s.elem e').chans ∧
      (t.elem e').regions = (s.elem e').regions ∧ (t.elem e').combo = (s.elem e').combo ∧
      (e' ≠ e → (t.elem e').act = (s.elem e').act ∧ (t.elem e').mode = (s.elem e').mode)) ∧
    (∀ sup, C.sup = some sup → sup ≠ e → s.isFenced sup = false → ∃ (m : Msg) (r : Ret),
      t.Sent e (some sup) (.msg 15 m r) ∧ packet m.words) ∧
    ((∀ sup, C.sup = some sup → sup = e ∨ s.isFenced sup = true) → ∃ (D : Ctx) (ws : List Word), tget t.ctxs ctx = some D ∧
      D.held = C.held ++ [ws] ∧ fld (ws.getD 0 0) 7 0 = 4 ∧ packet (words8 (ws.drop 8)))

/-- System forms (R388–R398): TRAP freezes the element at the next instruction and takes code 0x71 with both operands;
TIME and TIME.ar read the clock; DGRD and DGCHK read and compare digests; SWSCHED, TRON, TROFF and BKPT act on the context for the
supervisor alone; TROFF answers the bytes written, with the records that the collectors held, those of lost records and its own; a
trace collector writes what it holds. The order of SWSCHED's answers and what OP 1 cancels are the model's reading
(log 41), as are TRON's check of the tag and that opening a session stores no W (log 42). -/
def Obligations.SystemForms : Prop :=
  (∀ (s : State) (A : Act) (d a b : Reg) (C : Ctx), s.Runs A → s.ctxAt s.cur = some C →
    let x := A.reg a
    let y := A.reg b
    let e := s.cur
    let sets := fun (i : Instr) (v : Word) (P : State → Ctx → Prop) => ∃ (u : State) (D : Ctx),
      exec i s = .next (u.setAct ((A.setReg d v).adv 4)) ∧ tget u.ctxs s.ctxNo = some D ∧ u.mem = s.mem ∧ P u D
    (exec (.trap a b) s = .next ((s.takeFault e { code := 0x71, faddr := x, extra := y }).setAct (A.adv 4))) ∧
    Writes s A (.time d) d (BitVec.ofNat 64 s.time) 4 ∧
    (s.fenceHolds e 3 = false →
      exec (.timeAr d) s = .next ((s.addMark e 3).setAct ((A.setReg d (BitVec.ofNat 64 s.time)).adv 4))) ∧
    (s.fenceHolds e 3 = true → exec (.timeAr d) s = .next (s.updElem e (fun E => { E with stalled := true }))) ∧
    Writes s A (.dgrd d 0) d A.digest 4 ∧ Writes s A (.dgrd d 1) d (s.elem e).combo 4 ∧ Writes s A (.dgrd d 2) d (s.elem e).lastD 4 ∧
    ((s.elem e).combo = x → Writes s A (.dgchk d a) d 0 4 ∧ Writes s A (.dgchkFlt d a) d 0 4) ∧
    ((s.elem e).combo ≠ x → Writes s A (.dgchk d a) d 1 4 ∧ Traps s (.dgchkFlt d a) 0x72 0 (s.elem e).combo) ∧
    (s.isSup = false → ∀ i ∈ [Instr.swsched d a b, .tron d a b, .troff d, .bkpt d a], Traps s i 0x03 0 (insnExtra i 0)) ∧
    (s.isSup = true →
      (1 < y.toNat → Traps s (.swsched d a b) 0x78 0 y) ∧
      (y = 0 → C.switchAt ≠ none → Writes s A (.swsched d a b) d 1 4) ∧
      (y = 0 → C.switchAt = none → x.toNat < s.time % 2 ^ 64 + 1800 → Writes s A (.swsched d a b) d 2 4) ∧
      (y = 0 → C.switchAt = none → s.time % 2 ^ 64 + 1800 ≤ x.toNat →
        sets (.swsched d a b) 0 (fun _ D => D.switchAt = some x.toNat ∧ D.switchYield = true)) ∧
      (y = 1 → ¬ (C.switchAt ≠ none ∧ C.switchYield = true) → Writes s A (.swsched d a b) d 3 4) ∧
      (y = 1 → C.switchAt ≠ none → C.switchYield = true → sets (.swsched d a b) 0 (fun _ D => D.switchAt = none)) ∧
      (let okA := apOf x = 8 ∧ fld x 59 52 = 0 ∧ fld x 11 0 = 0
       let okB := 12 ≤ fld y 4 0 ∧ fld y 4 0 ≤ 30 ∧ fld y 7 6 = 0 ∧ fld y 63 13 = 0
       (¬ okA → Traps s (.tron d a b) 0x78 0 x) ∧ (okA → ¬ okB → Traps s (.tron d a b) 0x78 0 y) ∧
       (okA → okB → C.trace ≠ none → Writes s A (.tron d a b) d 1 4) ∧
       (okA → okB → C.trace = none → sets (.tron d a b) 0 (fun _ D => ∃ T, D.trace = some T ∧ T.base = fld x 51 0 ∧
         T.log2 = fld y 4 0 ∧ T.wrap = y.getLsbD 5 ∧ T.scope = fld y 12 8 ∧ T.opener = e ∧ T.w = 0))) ∧
      (C.trace = none → Writes s A (.troff d) d 0 4) ∧
      (∀ T, C.trace = some T →
        let held := fun die => ((vget [] s.pkg.collectors die).filter (fun p => p.1 == s.ctxNo)).length
        let lost := fun die => decide ((tget s.pkg.traceLost (die * 64 + s.ctxNo)).getD 0 ≠ 0)
        let n := held 0 + held 1 + 1
        ∃ (u : State) (w : Nat) (D : Ctx), exec (.troff d) s = .next (u.setAct ((A.setReg d (BitVec.ofNat 64 w)).adv 4)) ∧
          tget u.ctxs s.ctxNo = some D ∧ D.trace = none ∧ (∀ p ∈ vget [] u.pkg.collectors 0 ++ vget [] u.pkg.collectors 1, p.1 ≠ s.ctxNo) ∧
          (T.wrap = true → w = T.w + 16 * (n + (lost 0).toNat + (lost 1).toNat)) ∧
          (T.wrap = false → lost 0 = false → lost 1 = false → w = T.w + 16 * min n ((2 ^ T.log2 - T.w) / 16))) ∧
      (let n := fld x 11 6
       (bkptOk x = false → Traps s (.bkpt d a) 0x78 0 x) ∧
       (bkptOk x = true → x.getLsbD 4 = false → sets (.bkpt d a) 0 (fun _ D => D.bkpts = vset C.bkpts (fld x 1 0) x)) ∧
       (bkptOk x = true → x.getLsbD 4 = true →
         ((∀ S, s.sheet s.ctxNo n = some S → S.halted = none) → Writes s A (.bkpt d a) d 1 4) ∧
         (∀ S, s.sheet s.ctxNo n = some S → S.halted ≠ none → sets (.bkpt d a) 0 (fun u _ => ∃ S',
           u.sheet s.ctxNo n = some S' ∧ S'.halted = none)))))) ∧
  (∀ (s : State) (die : Nat), die < 2 → ∃ t : State, exec (.traceCollectorWrite die) s = .next t ∧
    (∀ c C, tget s.ctxs c = some C → C.trace ≠ none → ∀ p ∈ vget [] t.pkg.collectors die, p.1 ≠ c) ∧
    ((∀ p ∈ s.ctxs, p.2.trace = none) → t = s) ∧
    ∀ c C T r, s.ctxs = [(c, C)] → C.trace = some T → vget [] s.pkg.collectors die = [(c, r)] → s.pkg.traceLost = [] →
      (T.wrap = true ∨ T.w + 16 ≤ 2 ^ T.log2) → ∃ (D : Ctx) (T' : TraceSession), tget t.ctxs c = some D ∧ D.trace = some T' ∧
        T'.w = T.w + 16 ∧ T'.base = T.base)

/-- Debugging, fencing and remapping (R369–R374, R389–R395, R399). The forms are privileged, and take code 0x78 for a target word with a
tag or an offset. DBGRD and DBGWR read and write the items of the window: scratchpad doublewords, and the registers of a
frozen or stopped activation. THAW lets a frozen element run on; RETIRE drops its activation with no write-back; HALT asks for a stop, which
DEBUG_STOP takes between activations. DBGRD of a running target's scratchpad waits, as RLD does (R170; log 67), for the posted writes of the
supervisor to the scratchpad that holds the bytes, on a frond leader the member's. The digest of a retired or abandoned activation is that of the last ended one, and COMBO stands
(R89, R382, R396; log 38). FENCEC and the device fence an element; REMAP lifts the fence, and the message of an abandoned
activation is the first of its queue again. A window that does not answer is waited for until 65,536 clocks have passed; which window
that is, is an input (log 14). The model's readings: code 0x79 carries register a (log 23), the window of a fenced element and of its
frond (log 38), that the report of a fence names the leader of the frond that the element is composed into, whose count of packets
rises (log 39), what REMAP restores (log 40), its answer 3 before 2 (log 43), and that WDCNT runs on while an element is frozen
(log 56). -/
def Obligations.DebugForms : Prop :=
  (∀ (s : State) (A : Act) (d a b : Reg), s.Runs A →
    let x := A.reg a
    let y := A.reg b
    let e := s.cur
    let forms : List Instr := [.dbgrd d a b, .dbgwr d a b, .thaw a b, .retire a b, .halt d a, .fencec d a, .remap d a]
    (s.isSup = false → ∀ i ∈ forms, Traps s i 0x03 0 (insnExtra i 0)) ∧
    (s.isSup = true → (ptagOf x ≠ 0 ∨ fld x 18 0 ≠ 0) → s.leads e = false → ∀ i ∈ forms, Traps s i 0x78 0 x) ∧
    (s.isSup = true → ∀ t, targetElem s x = .ok t →
      (y.toNat % 8 ≠ 0 → Traps s (.dbgrd d a b) 0x78 y y ∧ Traps s (.dbgwr d a b) 0x78 y y) ∧
      (∀ i, itemAt (s.ownSize t) y.toNat = some i → i ≠ .state → s.isFenced t = true →
        Traps s (.dbgrd d a b) 0x79 x 3 ∧ (i.writable t = true → Traps s (.dbgwr d a b) 0x79 x 3)) ∧
      (∀ i, itemAt (s.ownSize t) y.toNat = some i → s.isFenced t = false → s.itemOpen t i = false →
        Traps s (.dbgrd d a b) 0x79 x 1 ∧ (i.writable t = true → Traps s (.dbgwr d a b) 0x79 x 1)) ∧
      (∀ i, itemAt (s.ownSize t) y.toNat = some i → s.isFenced t = false → s.itemOpen t i = true → (s.elem t).silent = true →
        (s.time < (s.elem e).since + 65536 → exec (.dbgrd d a b) s = .next (s.updElem e (fun E => { E with stalled := true }))) ∧
        ((s.elem e).since + 65536 ≤ s.time → Traps s (.dbgrd d a b) 0x79 x 2 ∧
          (i.writable t = true → s.itemBad t i (A.reg d) = false → Traps s (.dbgwr d a b) 0x79 x 2))) ∧
      (∀ i, itemAt (s.ownSize t) y.toNat = some i → s.isFenced t = false → s.itemOpen t i = true → (s.elem t).silent = false →
        (∀ p, i ≠ .mem p) →
        Writes s A (.dbgrd d a b) d (s.readItem t i) 4 ∧ (i.writable t = false → Traps s (.dbgwr d a b) 0x78 y y) ∧
        (i.writable t = true → s.itemBad t i (A.reg d) = true → Traps s (.dbgwr d a b) 0x78 y (A.reg d))) ∧
      (s.isFenced t = false → (s.elem t).silent = false → s.frondOf t = none → s.poison = [] → y.toNat % 8 = 0 → y.toNat + 8 ≤ 65536 →
        (s.isRunning t = true → s.postedTo e (s.windowHolder t y.toNat) = []) →
        Writes s A (.dbgrd d a b) d (leWord (memRead s.mem (scratchKey t y.toNat) 8)) 4 ∧
        ∃ u : State, exec (.dbgwr d a b) s = .next (u.setAct (A.adv 4)) ∧
          u.mem = memWrite s.mem (scratchKey t y.toNat) (wordBytes (A.reg d)) ∧ u.ctxs = s.ctxs ∧ u.fabric = s.fabric ∧
          ∀ e', { u.elem e' with olds := (s.elem e').olds } = s.elem e') ∧
      (s.isFenced t = false → (s.elem t).silent = false → y.toNat % 8 = 0 → y.toNat < 0x100000 → y.toNat + 8 ≤ s.ownSize t →
        s.isRunning t = true →
        (∀ f, s.frondOf t = some f → s.windowHolder t y.toNat = f.member (y.toNat / 64 % f.n)) ∧
        (s.postedTo e (s.windowHolder t y.toNat) ≠ [] →
          exec (.dbgrd d a b) s = .next (s.updElem e (fun E => { E with stalled := true }))) ∧
        (s.postedTo e (s.windowHolder t y.toNat) = [] → s.poison = [] →
          Writes s A (.dbgrd d a b) d (leWord (s.readOwn t y.toNat 8)) 4)) ∧
      (∀ B j, t ≠ e → s.isFenced t = false → (s.elem t).silent = false → (s.elem t).mode = .frozen → (s.elem t).act = some B → j < 32 →
        y.toNat = 0x100000 + 8 * j →
        Writes s A (.dbgrd d a b) d (B.reg (BitVec.ofNat 6 j)) 4 ∧
        exec (.dbgwr d a b) s = .next ((s.updElem t (fun E => { E with act := some (B.setReg (BitVec.ofNat 6 j) (A.reg d)) })).setAct
          (A.adv 4))) ∧
      (fld y 63 2 ≠ 0 → Traps s (.thaw a b) 0x78 0 y) ∧
      (fld y 63 2 = 0 → s.isFenced t = true → Traps s (.thaw a b) 0x79 x 3) ∧
      (fld y 63 2 = 0 → s.isFenced t = false → (s.elem t).mode = .normal → Traps s (.thaw a b) 0x79 x 1) ∧
      (∀ B, fld y 63 2 = 0 → s.isFenced t = false → t ≠ e → (s.elem t).mode = .frozen → (s.elem t).act = some B →
        ∃ (u : State) (B' : Act), exec (.thaw a b) s = .next (u.setAct (A.adv 4)) ∧ u.mem = s.mem ∧ (u.elem t).mode = .normal ∧
          (u.elem t).stepReq = y.getLsbD 0 ∧ (u.elem t).act = some B' ∧
          (∀ n, B.wdHeld = some n → n < 2 ^ 32 → u.wdcnt B' = if y.getLsbD 1 then 0 else n) ∧
          (B.wdHeld = none → u.wdcnt B' = if y.getLsbD 1 then 0 else s.wdcnt B) ∧
          { B' with wdHeld := B.wdHeld, wdStart := B.wdStart } = B) ∧
      (fld y 63 1 ≠ 0 → Traps s (.retire a b) 0x78 0 y) ∧
      (fld y 63 1 = 0 → s.isFenced t = true → Traps s (.retire a b) 0x79 x 3) ∧
      (fld y 63 1 = 0 → s.isFenced t = false → (s.elem t).mode ≠ .frozen → (s.elem t).mode ≠ .stoppedIn →
        Traps s (.retire a b) 0x79 x 1) ∧
      (∀ B, fld y 63 1 = 0 → s.isFenced t = false → t ≠ e → (s.elem t).mode = .frozen → (s.elem t).act = some B →
        (s.elem t).haltReq = false → (s.elem t).stepReq = false → ∃ u : State, exec (.retire a b) s = .next (u.setAct (A.adv 4)) ∧ u.mem = s.mem ∧
          (u.elem t).act = none ∧ (u.elem t).mode = .normal ∧ (u.elem t).combo = (s.elem t).combo ∧ (u.elem t).lastD = B.digest) ∧
      ((s.isFenced t = true ∨ (s.elem t).mode ≠ .normal) → Writes s A (.halt d a) d 1 4) ∧
      (∀ B, s.isFenced t = false → (s.elem t).mode = .normal → (s.elem t).act = some B →
        exec (.halt d a) s = .next ((s.updElem t (fun E => { E with haltReq := true })).setAct ((A.setReg d 0).adv 4))) ∧
      (t = e → Traps s (.fencec d a) 0x78 0 x) ∧
      (t ≠ e → s.isFenced t = true → Writes s A (.fencec d a) d 1 4) ∧
      (t ≠ e → s.isFenced t = false → ∃ u : State, exec (.fencec d a) s = .next (u.setAct ((A.setReg d 0).adv 4)) ∧
        (u.elem t).mode = .fenced ∧ (u.elem (s.ownerOf t)).pseq = (s.elem (s.ownerOf t)).pseq + 1 ∧ (u.elem t).act = (s.elem t).act ∧
        u.mem = s.mem) ∧
      (isMemCore t = true → Writes s A (.remap d a) d 3 4) ∧
      (isMemCore t = false → s.isFenced t = false → Writes s A (.remap d a) d 2 4) ∧
      (isCore t = true → isMemCore t = false → t ≠ e → s.fronds = [] → (s.elem t).mode = .fenced →
        (s.spareLeft (eDie t) = none → Writes s A (.remap d a) d 1 4) ∧
        (∀ n, s.spareLeft (eDie t) = some n → (∀ m ∈ sorusCores (sorusOf t), ∀ c ∈ (s.elem m).mq, c.running = false) →
          ∃ u : State, exec (.remap d a) s = .next (u.setAct ((A.setReg d 0).adv 4)) ∧ u.mem = s.mem ∧
            u.pkg.remap = (sorusOf t, n) :: s.pkg.remap ∧ (u.elem t).mode = .normal ∧ (u.elem t).act = none ∧ (u.elem t).silent = false ∧
            (∀ j, j < 128 → (u.slot (sorusOf t) j).owner ≠ some t) ∧ (∀ j, j < 4 → u.tile t j = Tile.blank) ∧
            (∀ o o', o' < 65536 → o / 64 = o' / 64 → o % 8 = 0 → s.poisoned (scratchKey t o') = true → u.poisoned (scratchKey t o) = true) ∧
            (∀ B, (s.elem t).act = some B → (u.elem t).lastD = B.digest ∧ (u.elem t).combo = (s.elem t).combo) ∧
            ∀ B m, (s.elem t).act = some B → B.frond = false → B.msg = some m →
              (vget Chan.reset (u.elem t).chans B.chan.toNat).queue =
                m :: (vget Chan.reset (s.elem t).chans B.chan.toNat).queue)))) ∧
  (∀ (s : State) (e : EId),
    ((s.elem e).haltReq = true → (s.elem e).mode = .normal → (s.elem e).act = none → ∃ t : State, exec (.debugStop e) s = .next t ∧
      (t.elem e).mode = .stoppedBetween ∧ (t.elem e).haltReq = false ∧ (t.elem e).pseq = (s.elem e).pseq + 1 ∧ t.mem = s.mem) ∧
    (∀ B, (s.elem e).act = some B → exec (.debugStop e) s = .next s) ∧
    (∀ ctx, s.ctxOf e = some ctx → s.isFenced e = false → ∃ t : State, exec (.deviceFence e) s = .next t ∧
      (t.elem e).mode = .fenced ∧ (t.elem (s.ownerOf e)).pseq = (s.elem (s.ownerOf e)).pseq + 1 ∧ t.mem = s.mem) ∧
    (s.isFenced e = true → exec (.deviceFence e) s = .next s))

/-! ### Events of the device (R23–R25, R96, R98, R157, R368, R375–R379, R420, R422) -/

/-- Gang switches (R375–R379): at T the running context begins to stop, and WDCNT of every element that does not wait in an instruction
which completes first holds the count that it has at T; it is out once no element
stalls; it runs again on resume with every activation as it was. The oldest report goes to the supervisor's q15 as room returns; one that
was raised while the supervisor was fenced goes to the host, and not past an earlier one of its engine that waits (R368; log 70). An uncorrectable error marks its unit (R157). A replay counts in EVC0 (R23). A TIME continuation fires at its time (R98).
The watchdog freezes an element whose WDCNT has reached WDLIM with code 0x70 (R96). A package reset leaves no context and zero in every byte
of the package, places the soruses that failed the power-on test on spares, and enables the mailbox exactly where the boot ROM accepts
the records (R24, R25, R420). The model's choices and readings: the units that an error marks (log 12), a switched context whose state stays
where it stands (log 13), what a package reset keeps (log 54), power as timing only (log 55), the clocks of a replay and of the watchdog
(log 56), what a gang switch waits for (log 57), and which soruses fail, an input (log 63). -/
def Obligations.DeviceEvents : Prop :=
  (∀ (s : State) (ctx : Nat) (C : Ctx), tget s.ctxs ctx = some C →
    let waits := ∃ e, e ∈ C.elems ∧ (s.completesFirst e = true ∨ s.matrixWaits e = true)
    (∀ T, C.switch = .running → C.switchAt = some T →
      (s.time < T → exec (.gangSwitch ctx) s = .next s) ∧
      (T ≤ s.time → s.Leaves (.gangSwitch ctx) ctx (fun t D => D.switch = .stopping ∧ D.switchAt = none ∧ t.mem = s.mem ∧
        ∀ e ∈ C.elems, (s.completesFirst e = true → t.elem e = s.elem e) ∧
          ∀ B, (s.elem e).act = some B → s.completesFirst e = false → ∃ B', (t.elem e).act = some B' ∧
            B'.wdHeld = some (State.wdClocks { s with time := T } B) ∧ { B' with wdHeld := B.wdHeld } = B))) ∧
    (C.switch = .stopping → waits → exec (.switchSave ctx) s = .next s) ∧
    (C.switch = .stopping → ¬ waits → s.Leaves (.switchSave ctx) ctx (fun t D => D.switch = .out ∧ t.mem = s.mem ∧
      ∀ e B, (s.elem e).act = some B → ∃ B', (t.elem e).act = some B' ∧ B'.w = B.w ∧ B'.pc = B.pc ∧ B'.digest = B.digest)) ∧
    (C.switch = .out → s.Leaves (.switchResume ctx) ctx (fun t D => D.switch = .running ∧ (C.parkedFrames = [] → t.mem = s.mem ∧
      ∀ e ∈ C.elems, ∀ B, (s.elem e).act = some B → (s.elem e).mode ≠ .stoppedIn → ∃ B', (t.elem e).act = some B' ∧
        (B.begun = true → B'.wdHeld = none) ∧ B'.w = B.w ∧ B'.pc = B.pc ∧ B'.digest = B.digest))) ∧
    (C.switch ≠ .running → exec (.engineReportDeliver ctx) s = .next s) ∧
    (∀ r rs, C.reports = r :: rs → C.switch = .running →
      let toHost := fun (x : Report) (left : List Report) => s.Leaves (.engineReportDeliver ctx) ctx (fun t D =>
        D.reports = left ∧ t.mem = s.mem ∧ ∃ ws, D.held = C.held ++ [ws] ∧ fld (ws.getD 0 0) 7 0 = 4 ∧ words8 (ws.drop 8) = x.words)
      let blocked := r.toHost = false ∧ ∃ e, C.sup = some e ∧
        (s.isFenced e = true ∨ 4 ≤ (s.chan e (s.leads e) 15).queue.length ∨ s.releases e = true)
      (∀ e, r.toHost = false → C.sup = some e → s.isFenced e = false → s.releases e = false →
        (s.chan e (s.leads e) 15).queue.length < 4 → s.Leaves (.engineReportDeliver ctx) ctx (fun t D =>
          D.reports = rs ∧ t.mem = s.mem ∧ ∃ m : Msg, m.words = r.words ∧ m.kind = .packet ∧
            (t.chan e (s.leads e) 15).queue = (s.chan e (s.leads e) 15).queue ++ [m])) ∧
      ((r.toHost = true ∨ C.sup = none) → toHost r rs) ∧
      (blocked → (∀ x ∈ rs, x.toHost = false ∨ x.engine = r.engine) → exec (.engineReportDeliver ctx) s = .next s) ∧
      (∀ r' rs', blocked → rs = r' :: rs' → r'.toHost = true → r'.engine ≠ r.engine → toHost r' (r :: rs')))) ∧
  (∀ (s : State) (e off pa so n b i j : Nat),
    let marks := fun (x : EccSite) (key : Nat) => ∃ t : State, exec (.uncorrectableDataError x) s = .next t ∧ t.mem = s.mem ∧
      t.elems = s.elems ∧ ∀ k, t.poisoned k = true ↔ s.poisoned k = true ∨ k = key
    marks (.scratch e off) (scratchKey e (off % 65536 / 8 * 8)) ∧ marks (.hbm pa) (hbmKey (pa % 2 ^ 52 / 32 * 32)) ∧
    marks (.slot so n b) (slotKey (so % 512) (n % 128) (b % 2048)) ∧ marks (.tile e i j) (tileKey e (i % 4) (j % 1024 * 4))) ∧
  (∀ (s : State) (e : EId),
    (isElem e = true → ∃ t : State, exec (.timingReplay e) s = .next t ∧ t.mem = s.mem ∧
      vget 0 (t.elem e).evc 0 = vget 0 (s.elem e).evc 0 + 1 ∧ (∀ e', e' ≠ e → t.elem e' = s.elem e') ∧
      ∀ B, (s.elem e).act = some B → ∃ B', (t.elem e).act = some B' ∧ { B' with wdStart := B.wdStart } = B) ∧
    (∀ (q : BitVec 4) (k : Cont) (T : Word), s.frondOf e = none → (vget Chan.reset (s.elem e).chans q.toNat).cont = some k →
      k.kind = .time T → k.fired = none →
      (s.time < T.toNat → exec (.continuationTime e q) s = .next s) ∧
      (T.toNat ≤ s.time → ∃ t : State, exec (.continuationTime e q) s = .next t ∧ t.mem = s.mem ∧
        vget Chan.reset (t.elem e).chans q.toNat = { vget Chan.reset (s.elem e).chans q.toNat with
          cont := some { k with fired := some (words8 []) } })) ∧
    (∀ B, (s.elem e).act = some B →
      let l := (s.elem e).wdlim.toNat
      (l ≠ 0 → l ≤ s.wdClocks B → s.mayIssue e = true → (s.elem e).stalled = false → exec (.watchdog e) s =
        .next (s.takeFault e { code := 0x70, faddr := 0, extra := BitVec.ofNat 64 (s.wdcnt B) })) ∧
      ((l = 0 ∨ s.wdClocks B < l) → exec (.watchdog e) s = .next s)) ∧
    exec (.packagePowerLimit) s = .next s ∧
    ∀ signed counter, ∃ t : State, exec (.packageReset signed counter) s = .next t ∧ t.ctxs = [] ∧ t.fronds = [] ∧ t.streams = [] ∧
      t.fabric = [] ∧ t.time = 0 ∧ t.pkg.mailbox = (signed && decide (s.pkg.counter ≤ counter)) ∧
      t.pkg.remap = (if t.pkg.mailbox then s.pkg.failing.foldl assignSpare [] else []) ∧
      t.pkg.counter = s.pkg.counter ∧ (∀ e, t.elem e = Elem.reset) ∧
      ∀ k, memGet t.mem k = if isHostKey k then memGet s.mem k else 0)

/-! ### The host link (R404–R418, R421) -/

/-- The mailbox and the launch window (R25, R405–R407, R421): before the mailbox is enabled nothing is accepted. IDENT answers the package
identity. CREATE leaves a context, switched out, whose memories are zero; DESTROY leaves no such context and zero in its memories; either
leaves its memory cores' TLBs empty, so that no context uses a translation of another (R293; log 65). A
doorbell within 256 records of CONSUMED is accepted, another is reported; enabling a queue stores W = 0. A held completion enters the queue
as room allows, its 128 bytes first and then W. The model's choices: window writes are aligned doublewords (log 49), a command that is bad
or comes early does nothing (log 50), DESTROY reports its reset and returns the units of its traffic (log 51), and rings do not look at
host errors (log 52). -/
def Obligations.HostWindow : Prop :=
  (∀ (s : State) (ctx off share : Nat) (v : Word) (prio : BitVec 7) (r : CreateReq), s.pkg.mailbox = false →
    ∀ i ∈ [Instr.create r, .destroy ctx, .sched ctx share prio, .ident, .doorbell ctx v, .hqctl ctx v, .cqctl ctx v,
      .launchWindowWrite ctx off v], exec i s = .next s) ∧
  (∀ (s : State) (r : CreateReq), s.pkg.mailbox = true →
    exec .ident s = .next { s with pkg := { s.pkg with reply := [packageIdentity] } } ∧ fld packageIdentity 63 48 = 0x5824 ∧
    (s.canCreate r = false → exec (.create r) s = .next s) ∧
    (s.canCreate r = true → s.Leaves (.create r) r.ctx (fun t D => D.switch = .out ∧ D.root = r.root ∧ D.load = none ∧ D.sup = none ∧
      D.held = [] ∧ (∀ x, x ∈ D.soruses ↔ x ∈ r.soruses) ∧ (∀ x, x ∈ D.memcores ↔ x ∈ r.memcores) ∧
      (∀ e ∈ D.cores, (t.elem e).weight = BitVec.ofNat 5 (r.weights.getD (memberOf e) 1)) ∧ (∀ e ∈ r.memcores, (t.elem e).tlb = []) ∧
      ∀ k, memGet t.mem k = if D.ownsKey k then 0 else memGet s.mem k))) ∧
  (∀ (s : State) (ctx off share : Nat) (v : Word) (prio : BitVec 7) (C : Ctx), s.pkg.mailbox = true → tget s.ctxs ctx = some C →
    s.Leaves (.sched ctx share prio) ctx (fun t D => t.mem = s.mem ∧ D = { C with share := share, prio := prio }) ∧
    (∃ t : State, exec (.destroy ctx) s = .next t ∧ tget t.ctxs ctx = none ∧ (∀ f ∈ t.fabric, f.ctx ≠ ctx) ∧
      (∀ k, C.ownsKey k = true → memGet t.mem k = 0) ∧ (∀ e ∈ C.elems, (t.elem e).avail = 16) ∧
      (∀ e ∈ C.memcores, (t.elem e).tlb = []) ∧
      (C.trace = none → ∀ k, C.ownsKey k = false → (C.cq.en = true → isHostKey k = false) → memGet t.mem k = memGet s.mem k)) ∧
    s.Leaves (.doorbell ctx v) ctx (fun t D => t.mem = s.mem ∧
      ((C.consumed ≤ v.toNat ∧ v.toNat ≤ C.consumed + 256) → D = { C with doorbell := v.toNat }) ∧
      (¬ (C.consumed ≤ v.toNat ∧ v.toNat ≤ C.consumed + 256) → D.doorbell = C.doorbell ∧ ∃ ws tag, D.held = C.held ++ [ws] ∧
        Completes ws 3 tag 2 0)) ∧
    (let bad := fun R : Ring => fld v 62 5 ≠ 0 ∨ fld v 4 0 < 4 ∨ 16 < fld v 4 0 ∨ (R.en = true ∧ fld v 4 0 ≠ R.log2n)
     let sets := fun (i : Instr) (get : Ctx → Ring) =>
       s.Leaves i ctx (fun t D => let R := get C
         (bad R → get D = R ∧ t.mem = s.mem) ∧
         (¬ bad R → R.en = false → v.getLsbD 63 = true → get D = { R with log2n := fld v 4 0, en := true, w := 0 } ∧
           t.mem = memWrite s.mem (hostKey (R.at ctx 0)) (wordBytes 0)) ∧
         (¬ bad R → (R.en = true ∨ v.getLsbD 63 = false) → get D = { R with log2n := fld v 4 0, en := v.getLsbD 63 } ∧
           t.mem = s.mem))
     let base := fun (i : Instr) (get : Ctx → Ring) => s.Leaves i ctx (fun t D => let R := get C
       t.mem = s.mem ∧ (get D = if R.en = true ∨ fld v 5 0 ≠ 0 then R else { R with base := v.toNat }))
     sets (.hqctl ctx v) Ctx.hq ∧ sets (.cqctl ctx v) Ctx.cq ∧
     base (.launchWindowWrite ctx 0x8010 v) Ctx.hq ∧ base (.launchWindowWrite ctx 0x8020 v) Ctx.cq) ∧
    (off % 8 = 0 → off < 0x8000 → s.Leaves (.launchWindowWrite ctx off v) ctx (fun t D => t.mem = s.mem ∧
      D = { C with window := memWrite C.window off (wordBytes v) })) ∧
    ((off % 8 ≠ 0 ∨ off = 0x8008 ∨ 0x8030 ≤ off) → exec (.launchWindowWrite ctx off v) s = .next s) ∧
    exec (.launchWindowWrite ctx 0x8000 v) s = exec (.doorbell ctx v) s ∧
    exec (.launchWindowWrite ctx 0x8018 v) s = exec (.hqctl ctx v) s ∧
    exec (.launchWindowWrite ctx 0x8028 v) s = exec (.cqctl ctx v) s) ∧
  (∀ (s : State) (ctx : Nat) (C : Ctx), tget s.ctxs ctx = some C →
    ((C.held = [] ∨ C.cq.en = false ∨ C.cq.full s ctx = true) → exec (.completionPublish ctx) s = .next s) ∧
    (∀ ws rest, C.held = ws :: rest → C.cq.en = true → C.cq.full s ctx = false → s.Leaves (.completionPublish ctx) ctx (fun t D =>
      D.held = rest ∧ D.cq = { C.cq with w := C.cq.w + 1 } ∧
      t.mem = memWrite (memWrite s.mem (hostKey (C.cq.at ctx (64 + 128 * (C.cq.w % 2 ^ C.cq.log2n))))
        ((List.range 16).flatMap (fun j => wordBytes (ws.getD j 0)))) (hostKey (C.cq.at ctx 0)) (wordBytes (BitVec.ofNat 64 (C.cq.w + 1))))))

/-- Records, reset and transfers (R408, R411–R418): no record is consumed before its doorbell; a KIND that no record has is refused, and
so is one of any KIND whose header has a bit of [31:16], or a flag that the KIND does not define. WORK sends its eight doublewords as one message, or as one work item, and is refused with reason 1 for a
reserved bit of its work descriptor, with reason 3 for an empty scope or a bad message address; FRAME queues a frame at a stream, or keeps it while
the context is switched out; RESET, and a reset by the physical function, leave no activation, message, bin set, matrix command or
completion of one, slot, tile, sheet, scope, event, stream or frond (with its channels and continuations) of the context, and keep the
vector and mask registers; XFER queues a transfer, whose end is reported once every granule is acknowledged, with status 1 where no port that is up
leads to the peer, or 2 where the peer refuses, and with the bytes whose granules the peer has acknowledged; at the peer a
context of the same GROUP takes the granules, each page translated for itself, and then the message, while another context takes nothing (R418). A flit with a good CRC and the expected SEQ is taken with its contents and acknowledges what the port has
sent; a bad one makes the port drop until its retransmission, and eight failed replays take the port down. The model's choices: what
happens to records, scopes 0 and 1 and parked frames (log 49), what a reset keeps (log 51), the limit of LEN, the layout of a flit,
which flits its ACK names, the bytes moved of a transfer that fails, and the position from which an arriving transfer's message enters
the mesh (log 53), and that a granule for another context's allotment leaves memory as it was (log 64). -/
def Obligations.HostRecords : Prop :=
  (∀ (s : State) (ctx : Nat) (C : Ctx), tget s.ctxs ctx = some C →
    let r := C.record
    let tag := BitVec.ofNat 32 (fld (r 0) 63 32)
    let records : List Instr := [.launch ctx, .work ctx, .frame ctx, .reset ctx, .xfer ctx]
    let cleared := fun (t : State) (D : Ctx) => D.consumed = C.doorbell ∧ D.sheets = [] ∧ D.scopes = [] ∧ D.templates = [] ∧
      D.events = [] ∧ D.work = [] ∧ D.load = none ∧ (C.trace = none → t.mem = s.mem) ∧
      (∀ e ∈ C.elems, (t.elem e).act = none ∧ (t.elem e).chans = Vector.replicate 16 Chan.reset ∧
        ((s.elem e).mode ≠ .fenced → (t.elem e).mode = .normal) ∧ (t.elem e).bins = Vector.replicate 8 none ∧
        (t.elem e).tiles = Vector.replicate 4 Tile.blank ∧ (t.elem e).mq = [] ∧ (t.elem e).v = (s.elem e).v ∧
        (t.elem e).k = (s.elem e).k) ∧
      (∀ p ∈ t.slots, C.soruses.contains (p.1 / 128) = false) ∧ (∀ f ∈ t.fabric, f.ctx = ctx → f.body.ofCommand = false) ∧
      (∀ p ∈ t.streams, p.2.ctx ≠ ctx) ∧ (∀ f ∈ t.fronds, C.owns f.leader = false)
    (s.canConsume ctx C = false → ∀ i ∈ records, exec i s = .next s) ∧
    (s.canConsume ctx C = true → (fld (r 0) 7 0 = 0 ∨ 5 < fld (r 0) 7 0) → ∀ i ∈ records, s.Refuses i ctx C 1) ∧
    (∀ i kind flags, (i, kind, flags) ∈ ([(.launch ctx, 1, 8), (.work ctx, 2, 2), (.frame ctx, 3, 1), (.reset ctx, 4, 1), (.xfer ctx, 5, 1)] :
        List (Instr × Nat × Nat)) → s.canConsume ctx C = true →
      (1 ≤ fld (r 0) 7 0 → fld (r 0) 7 0 ≤ 5 → fld (r 0) 7 0 ≠ kind → exec i s = .next s) ∧
      (fld (r 0) 7 0 = kind → (fld (r 0) 31 16 ≠ 0 ∨ flags ≤ fld (r 0) 15 8) → s.Refuses i ctx C 1)) ∧
    (s.Posts ctx C 2 2 →
      (let m := fun (w : Words8) => ∀ j, j < 8 → vget 0 w j = r (8 + j)
       ((r 0).getLsbD 8 = false →
         (C.workTarget (r 1) = none → s.Refuses (.work ctx) ctx C 3) ∧
         (∀ dst q, C.workTarget (r 1) = some (dst, q) → s.Leaves (.work ctx) ctx (fun t D => t.mem = s.mem ∧
           D.consumed = C.consumed + 1 ∧ ∃ (x : Msg) (ret : Ret), t.Sent hostLink dst (.msg q x ret) ∧ m x.words ∧
             ret.record = some tag))) ∧
       ((r 0).getLsbD 8 = true →
         let sc := fld (r 1) 4 0
         let clean := fld (r 1) 7 5 = 0 ∧ fld (r 1) 63 12 = 0
         let some' := 2 ≤ sc ∧ C.scopeMembers hostLink sc ≠ []
         (¬ clean → s.Refuses (.work ctx) ctx C 1) ∧
         (clean → ¬ some' → s.Refuses (.work ctx) ctx C 3) ∧
         (clean → some' → s.Leaves (.work ctx) ctx (fun t D => t.mem = s.mem ∧ D.consumed = C.consumed + 1 ∧ ∃ (x : Msg) (ret : Ret),
           t.Sent hostLink (some (enginePort (workDie C hostLink sc)))
             (.work sc (C.scopeMembers hostLink sc) (BitVec.ofNat 4 (fld (r 1) 11 8)) x ret) ∧ m x.words))))) ∧
    (s.Posts ctx C 3 1 →
      (let sn := fld (r 1) 12 0
       let bs := (List.range 8).flatMap (fun i => wordBytes (r (8 + i)))
       (fld (r 1) 63 13 ≠ 0 → s.Refuses (.frame ctx) ctx C 1) ∧
       (fld (r 1) 63 13 = 0 → C.switch ≠ .running → s.Leaves (.frame ctx) ctx (fun t D => t.mem = s.mem ∧
         D.consumed = C.consumed + 1 ∧ D.parkedFrames = C.parkedFrames ++ [(tag, sn, bs)])) ∧
       (fld (r 1) 63 13 = 0 → C.switch = .running →
         (s.stream sn = none → s.Refuses (.frame ctx) ctx C 4) ∧
         (∀ st, s.stream sn = some st →
           ((st.ctx ≠ ctx ∨ frameFault (recWord bs) ≠ none) → s.Refuses (.frame ctx) ctx C 4) ∧
           (st.ctx = ctx → frameFault (recWord bs) = none → st.tmpl.fq ≤ st.frames → s.Refuses (.frame ctx) ctx C 5) ∧
           (st.ctx = ctx → frameFault (recWord bs) = none → st.frames < st.tmpl.fq → st.phase ≠ .idle →
             s.Leaves (.frame ctx) ctx (fun t D => t.mem = s.mem ∧ D.consumed = C.consumed + 1 ∧ t.stream sn = some { st with
               seq := (st.seq + 1) % 2 ^ 32,
               queue := st.queue ++ [{ seq := (st.seq + 1) % 2 ^ 32, kind := frameEvent (recWord bs) }] })))))) ∧
    (s.Posts ctx C 4 1 → s.Leaves (.reset ctx) ctx (fun t D => cleared t D ∧ ∃ ws, D.held = C.held ++ [ws] ∧ Completes ws 5 tag 0 0)) ∧
    s.Leaves (.functionReset ctx) ctx (fun t D => cleared t D ∧ ∃ ws x, D.held = C.held ++ [ws] ∧ Completes ws 5 x 0 0) ∧
    (s.Posts ctx C 5 1 →
      let ok := (r 4).toNat % 64 = 0 ∧ (r 4).toNat ≤ 2 ^ 30
      (¬ ok → s.Refuses (.xfer ctx) ctx C 1) ∧
      (ok → s.Leaves (.xfer ctx) ctx (fun t D => t.mem = s.mem ∧ D.consumed = C.consumed + 1 ∧ ∃ x : XferRun,
        D.xfers = C.xfers ++ [x] ∧ x.tag = tag ∧ x.sent = 0 ∧ ∀ j, j < 5 → x.words.getD j 0 = r (1 + j)))) ∧
    (∀ x xs status, C.xfers = x :: xs →
      let leads := ∃ k, x.port C = some k ∧ (s.port k).up = true
      let done := ∀ k, x.port C = some k → 64 * x.sent = x.len ∧ ∀ f ∈ (s.port k).unacked, ¬ (f.body.ctx = ctx ∧ f.tag = x.tag)
      let ends := (leads ∧ (status = 0 ∧ done ∨ status = 2)) ∨ (¬ leads ∧ status = 1)
      (¬ ends → exec (.xferComplete (.source ctx status)) s = .next s) ∧
      (ends → s.Leaves (.xferComplete (.source ctx status)) ctx (fun t D => t.mem = s.mem ∧ D.xfers = xs ∧
        ∃ ws moved, D.held = C.held ++ [ws] ∧ Completes ws 8 x.tag (BitVec.ofNat 64 status) moved ∧
          moved = BitVec.ofNat 64 (64 * (x.sent - (x.unacked s ctx C).length)) ∧ (status = 0 → moved = x.words.getD 3 0)))) ∧
    (∀ (port : BitVec 4) gr va (g : List Byte) msg x, g.length % 64 = 0 → C.switch ≠ .out →
      let k := port.toNat
      let i : Instr := .xferComplete (.peer ctx gr port va g msg x)
      let a := fld va 51 0
      let put := fun (m : Memory) (p : Nat) (bs : List Byte) => if s.barred C.key (hbmKey p) bs.length then m else memWrite m (hbmKey p) bs
      let arrives := fun (m : Memory) => ∀ dst q, msgTarget (scaleOutPort k) msg = .ok (dst, q) → ∃ (t : State) (y : Msg) (ret : Ret),
        exec i s = .next t ∧ t.mem = m ∧ t.Sent (scaleOutPort k) dst (.msg q y ret) ∧ y.words = words8 [0x60, x, 64] ∧
        ∀ b ∈ (t.port k).got, b.ctx ≠ ctx
      (C.groupNo ≠ some gr → exec i s = .next (s.takeFlits k ctx)) ∧
      (∀ tr, C.groupNo = some gr → g.length = 64 → a % 4096 ≤ 4032 → walk s C a 3 C.root = .ok tr → tr.ro = false →
        arrives (put s.mem (tr.phys a) g)) ∧
      (∀ tr tr', C.groupNo = some gr → g.length = 64 → 4032 < a % 4096 → walk s C a 3 C.root = .ok tr → tr.ro = false →
        let n := 4096 - a % 4096
        let u := s.takeFlits k ctx |>.pageWrite C a (g.take n)
        walk u C (a + n) 3 C.root = .ok tr' → tr'.ro = false →
        arrives (put (put s.mem (tr.phys a) (g.take n)) (tr'.phys (a + n)) (g.drop n))))) ∧
  (∀ f : TxFlit, f.body.payload.length = 232 → f.bytes.length = 256 ∧ crc64 0 (f.bytes.take 248) = leWord (f.bytes.drop 248)) ∧
  (∀ (s : State) (port : BitVec 4) (flit : List Byte) (P : Port), s.pkg.ports[port.toNat]? = some P → flit.length = 256 →
    let good := crc64 0 (flit.take 248) = leWord (flit.drop 248)
    let becomes := fun Q : Port => ∃ t : State, exec (.scaleOutFlit port flit) s = .next t ∧ t.pkg.ports[port.toNat]? = some Q ∧
      t.mem = s.mem ∧ t.elems = s.elems
    (P.up = false → becomes P) ∧
    (P.up = true → ¬ good → P.dropping = false → becomes { P with dropping := true, failures := 0 }) ∧
    (P.up = true → ¬ good → P.dropping = true →
      (leNat (flit.take 2) ≠ P.expect.toNat → becomes P) ∧
      (leNat (flit.take 2) = P.expect.toNat → becomes { P with failures := P.failures + 1, up := decide (P.failures < 7) })) ∧
    (P.up = true → good → leNat (flit.take 2) = P.expect.toNat → ∃ Q : Port, becomes Q ∧
      { Q with unacked := P.unacked, replays := P.replays } = { P with expect := P.expect + 1, dropping := false, failures := 0, got := P.got ++ [flitBodyOf flit] } ∧
      (P.unacked.length ≤ 256 → ∀ n, n ≤ P.unacked.length →
        BitVec.ofNat 16 (leNat ((flit.drop 2).take 2)) = P.next - BitVec.ofNat 16 (P.unacked.length - n) →
        Q.unacked = P.unacked.drop n ∧ Q.replays = if n = 0 then P.replays else 0)) ∧
    (P.up = true → good → leNat (flit.take 2) ≠ P.expect.toNat → becomes P))

/-- Launches (R80–R83, R382–R384, R409, R410, R414): a LAUNCH with a reserved field is refused; one while a launch is loading or running completes
with status 0x06, one whose image cannot be read, for an error or a timeout of the host, with 0x0C, one whose image breaks a rule with the code of that rule, one that fits nowhere
with 0x05; otherwise its load stands, not yet posted, and the scope table holds the entries of the image alone (R187), or what it held before
where the launch is refused (R80). A load port receives the chunks of the image in order, writes those of its
role, and refuses the launch where a channel is bound; an element that holds everything writes its regions, clears its memory tags, binds
its channels and reports. The launch is posted once every element has reported: COMBO, PSEQ and UNDEL are zero, NEN is clear,
WCFG0–WCFG7 and WDLIM have their reset values, no element of the context has a memory tag (R154), every element receives the arguments on q0, and a completion of kind 1 says so.
When nothing is pending and no channel is ready, as none of a member of a composed frond is (R85), one of kind 2 carries the launch digest; a replaying launch then runs again, serially, and kind 6 reports it, and
the copies of a twin launch are compared, kind 7 reporting it, after a third copy where they differ, and one that replays then runs again
too. The model's choices: the order of the
refusals (logs 44, 45), what loading and posting set (log 46), the completions of a twin launch (log 47), and when a launch
is over (log 48), that kind 2 comes before the serial run, which follows whether or not a digest differs, and the third copy (log 9);
a digest table with another aperture than device memory's is a reserved field (log 44). -/
def Obligations.Launches : Prop :=
  ∀ (s : State) (ctx : Nat) (C : Ctx), tget s.ctxs ctx = some C →
    let r := C.record
    let tag := BitVec.ofNat 32 (fld (r 0) 63 32)
    let ends := fun (i : Instr) (status : Word) => s.Leaves i ctx (fun t D => t.mem = s.mem ∧ D.consumed = C.consumed + 1 ∧
      ∃ ws, D.held = C.held ++ [ws] ∧ Completes ws 1 tag status 0)
    (s.Posts ctx C 1 8 →
      let reserved := fld (r 0) 15 8 % 4 = 3 ∨ fld (r 6) 63 16 ≠ 0 ∨ r 7 ≠ 0 ∨ (r 4 ≠ 0 ∧ fld (r 4) 63 52 ≠ 0x800) ∨
        (r 3 ≠ 0 ∧ (r 14 ≠ 0 ∨ r 15 ≠ 0))
      let at' := hostAt mgmtFn (r 1).toNat
      let n := (r 2).toNat
      let im := s.hostBytes at' n
      (reserved → s.Refuses (.launch ctx) ctx C 1) ∧
      (¬ reserved → (∃ L, C.load = some L ∧ L.completed = false) → ends (.launch ctx) 0x06) ∧
      (¬ reserved → (∀ L, C.load = some L → L.completed = true) →
        ((n < 64 ∨ s.hostFails at' n = true) → ends (.launch ctx) 0x0C) ∧
        (64 ≤ n → s.hostFails at' n = false → (s.elem mgmtCore).hostTimeout = true → ends (.launch ctx) 0x0C ∧
          ∀ t, exec (.launch ctx) s = .next t → (t.elem mgmtCore).hostTimeout = false) ∧
        (64 ≤ n → s.hostFails at' n = false → (s.elem mgmtCore).hostTimeout = false → r 3 = 0 →
          (∀ c, checkImage im = some c → ends (.launch ctx) (BitVec.ofNat 64 c)) ∧
          (checkImage im = none →
            let twin : Bool := fld (r 0) 15 8 / 4 % 2 == 1
            (State.chooseTranslations (s.consumeOne ctx) C im twin = none → ends (.launch ctx) 0x05) ∧
            (∀ ts k ks e u, State.chooseTranslations (s.consumeOne ctx) C im twin = some ts → ts.filterMap (copyFor im) = k :: ks →
              moveE k.dieOff k.ox k.oy (fld (r 6) 15 0) = some e → isCore e = true → C.owns e = true →
              (∀ x, (s.elem x).act = none) → State.loadTables (s.consumeOne ctx) ctx k = .ok u → (tget u.ctxs ctx).isSome = true →
              ∃ (t : State) (D : Ctx) (L : Load), exec (.launch ctx) s = .next t ∧ t.mem = u.mem ∧ tget t.ctxs ctx = some D ∧
                D.load = some L ∧ L.tag = tag ∧ L.sup = e ∧ L.posted = false ∧ L.completed = false ∧ L.complete = [] ∧
                L.phase = .first ∧ L.digtab = (if r 4 = 0 then none else some (fld (r 4) 51 0)) ∧ L.pending = L.chunks ∧
                L.copies = k :: ks ∧ L.scopes = C.scopes ∧
                (∀ i, i ∉ (entries k.image 0x12 wholeFile 24).map scopeIndex → tget D.scopes i = none) ∧
                (∀ bs ∈ entries k.image 0x12 wholeFile 24, tget D.scopes (scopeIndex bs) =
                  some { scopeOf bs with rects := (scopeOf bs).rects.map (moveRect k.dieOff k.ox k.oy) }) ∧
                ∀ j, j < 8 → vget 0 L.args j = r (8 + j)))))) ∧
    (∀ L, s.loading ctx = some L →
      (∀ e c cs k fe p x, tget L.pending e = some (c :: cs) → L.copyOf e = some (k, fe, p) → edgeTo k.image fe = some x →
        let waits := x.parent ≠ 0xFFFF ∧ c ∈ (tget L.pending (k.land (frameE x.parent))).getD []
        ((waits ∨ s.isFenced e = true) → exec (.loadChunk ctx e) s = .next s) ∧
        (¬ waits → s.isFenced e = false → s.hasBinding e = true → c ≠ endRecord → L.phase = .first →
          s.Leaves (.loadChunk ctx e) ctx (fun _ D => D.load = none ∧ D.scopes = L.scopes ∧
            ∃ ws, D.held = C.held ++ [ws] ∧ Completes ws 1 L.tag 0x06 0)) ∧
        (¬ waits → s.isFenced e = false → (s.hasBinding e = false ∨ c = endRecord) → s.Leaves (.loadChunk ctx e) ctx (fun t D =>
          (∃ L', D.load = some L' ∧ tget L'.pending e = some cs) ∧
          (c.1 ≠ p.role → t.mem = s.mem) ∧
          (c.1 = p.role → (roleAt k.image p.role).kind ≠ 2 →
            t.mem = memWrite s.mem (scratchKey e c.2) (((roleImage k.image p.role).drop c.2).take 4096))))) ∧
      (∀ e k fe p, L.copyOf e = some (k, fe, p) →
        let ready := e ∉ L.complete ∧ (tget L.pending e).getD [] = [] ∧
          (∀ y ∈ edges k.image, y.parent ≠ 0xFFFF → frameE y.parent = fe → k.land (frameE y.child) ∈ L.complete) ∧
          s.isFenced e = false
        (¬ ready → exec (.loadComplete ctx e) s = .next s) ∧
        (ready → s.Leaves (.loadComplete ctx e) ctx (fun t D => t.mem = s.mem ∧ (∃ L', D.load = some L' ∧ L'.complete = e :: L.complete) ∧
          (t.elem e).regions = roleRegions k.image p.role (s.elem e).regions ∧ (∀ y ∈ t.tags, y.1 / 65536 ≠ e) ∧
          ((roleAt k.image p.role).kind ≠ 2 → ∀ bs ∈ entries k.image 4 p.role 8,
            (∀ bs' ∈ entries k.image 4 p.role 8, fld (leWord bs') 3 0 = fld (leWord bs) 3 0 → bs' = bs) →
            (vget Chan.reset (t.elem e).chans (fld (leWord bs) 3 0)).bind = some (bindingOf (leWord bs)))))) ∧
      ((∃ e ∈ L.running C, e ∉ L.complete) → exec (.postLaunch ctx) s = .next s) ∧
      ((∀ e ∈ L.targets, e ∈ L.complete) → L.phase = .first → s.Leaves (.postLaunch ctx) ctx (fun t D => D.sup = some L.sup ∧
        (∃ L', D.load = some L' ∧ L'.posted = true) ∧ (∃ ws, D.held = C.held ++ [ws] ∧ Completes ws 1 L.tag 0 0) ∧
        (∀ e ∈ C.elems, (t.elem e).combo = 0 ∧ (t.elem e).pseq = 0 ∧ (t.elem e).undel = 0 ∧ (t.elem e).nen = false ∧
          (t.elem e).wcfg = Vector.replicate 8 wcfgReset ∧ (t.elem e).wdlim = 0x00100000#32 ∧ (t.elem e).avail = 16 ∧
          (t.elem e).mq = [] ∧ (t.elem e).mseq = 0 ∧ (t.elem e).tiles = Vector.replicate 4 Tile.blank) ∧
        (∀ y ∈ t.tags, y.1 / 65536 ∉ C.elems) ∧
        (∀ p ∈ t.slots, ∀ e ∈ C.elems, isCore e = true → sorusOf e ≠ p.1 / 128) ∧
        ∀ e ∈ L.targets, ∃ (m : Msg) (ret : Ret), t.Sent mgmtCore (some e) (.msg 0 m ret) ∧ m.words = L.args))) ∧
    (∀ e c, s.ownReady e c = true ↔ chanReady s c = true ∧ ∀ f ∈ s.fronds, f.composed = true → f.members.contains e = false) ∧
    (s.launchDone ctx C = true ↔
      (∀ e ∈ C.elems, (s.elem e).act = none ∧ (s.elem e).mode = .normal ∧
        (∀ f ∈ s.fronds, f.members.contains e = true → f.composed = true) ∧ ∀ c ∈ (s.elem e).chans.toList, s.ownReady e c = false) ∧
      (∀ f ∈ s.fronds, C.owns f.leader = true → f.starts ≠ 0 ∧ ∀ c ∈ f.chans.toList, chanReady s c = false) ∧
      (∀ p ∈ C.sheets, p.2.wave = none ∧ p.2.run = none ∧ p.2.reqs = [] ∧ p.2.edits = [] ∧ p.2.reads = []) ∧
      (∀ p ∈ s.streams, p.2.ctx = ctx → p.2.queue = []) ∧ C.work = [] ∧ C.quiet = true) ∧
    (∀ L, C.load = some L →
      let isOver := L.posted = true ∧ L.completed = false ∧ C.switch = .running ∧ s.launchDone ctx C = true
      (¬ isOver → exec (.launchComplete ctx) s = .next s) ∧
      (isOver → L.phase = .first → L.flags.getLsbD 1 = false → L.flags.getLsbD 2 = false → s.Leaves (.launchComplete ctx) ctx (fun t D =>
        (L.flags.getLsbD 0 = false → t.mem = s.mem) ∧ (∃ L', D.load = some L' ∧ L'.completed = true) ∧
        ∃ ws, D.held = C.held ++ [ws] ∧ Completes ws 2 L.tag 0 (s.comboOf C.elems))) ∧
      (∀ tab, isOver → L.phase = .first → L.flags.getLsbD 0 = false → L.flags.getLsbD 1 = true → L.flags.getLsbD 2 = false → L.digtab = some tab →
        s.Leaves (.launchComplete ctx) ctx (fun _ D => (∃ ws rest, D.held = C.held ++ ws :: rest ∧ Completes ws 2 L.tag 0 (s.comboOf C.elems)) ∧
          ∀ L', D.load = some L' → L'.posted = false ∧ L'.pending = L.chunks ∧ L'.complete = [] ∧
            L'.phase = .serial (s.mismatches C tab).length (s.comboOf C.elems))) ∧
      (∀ bad g, isOver → L.phase = .serial bad g → s.Leaves (.launchComplete ctx) ctx (fun t D => t.mem = s.mem ∧
        (∃ L', D.load = some L' ∧ L'.completed = true) ∧ ∃ ws, D.held = C.held ++ [ws] ∧ Completes ws 6 L.tag (BitVec.ofNat 64 bad) g ∧
          ∀ tab, L.digtab = some tab → ws.getD 3 0 = if s.mismatches C tab = [] then 1 else 0)) ∧
      (let digest := fun i => s.comboOf (C.twin.getD i [])
       let replays := L.flags.getLsbD 1 = true ∧ L.digtab ≠ none
       let again := fun (D : Ctx) (v : Word) => ∀ L', D.load = some L' → L'.posted = false ∧ L'.pending = L.chunks ∧ L'.complete = [] ∧
         D.twin = C.twin ∧ ∃ bad, L'.phase = .serial bad v
       (isOver → L.phase = .first → L.flags.getLsbD 2 = true → digest 0 = digest 1 → s.Leaves (.launchComplete ctx) ctx (fun _ D =>
         (∃ w1 w2 rest, D.held = C.held ++ w1 :: w2 :: rest ∧ Completes w1 2 L.tag 0 (digest 0) ∧ Completes w2 7 L.tag 1 (digest 0) ∧
           (¬ replays → rest = [])) ∧
         (¬ replays → ∃ L', D.load = some L' ∧ L'.completed = true) ∧ (replays → again D (digest 0)))) ∧
       (isOver → L.phase = .first → L.flags.getLsbD 2 = true → digest 0 ≠ digest 1 → s.Leaves (.launchComplete ctx) ctx (fun _ D =>
         ∃ L', D.load = some L' ∧ L'.posted = false ∧ L'.phase = .third (digest 0) (digest 1))) ∧
       (∀ x y, isOver → L.phase = .third x y → s.Leaves (.launchComplete ctx) ctx (fun t D =>
         (L.flags.getLsbD 0 = false → ¬ replays → t.mem = s.mem) ∧ (¬ replays → ∃ L', D.load = some L' ∧ L'.completed = true) ∧
         (replays → ∃ v, again D v) ∧ ∃ ws rest, D.held = C.held ++ ws :: rest ∧ (¬ replays → rest = []) ∧
           (digest 1 = x → Completes ws 7 L.tag 2 x) ∧ (digest 1 ≠ x → digest 1 = y → Completes ws 7 L.tag 3 y) ∧
           (digest 1 ≠ x → digest 1 ≠ y → Completes ws 7 L.tag 0 0)))))

/-! ### Invariants -/

/-- EVERY STEP KEEPS THE MEMORY IN ITS CANONICAL FORM: keys strictly rising, and no zero byte listed, so that equal memories are
equal data (the model's own invariant; log 5). -/
def Obligations.StepKeepsMemory : Prop :=
  ∀ s t : State, s.MemOk → step s = .next t → t.MemOk
end

