-- ==== Sys2Proof/Laws/State.lean ====
section
/-!
SUPPORT. What each named update of the state leaves in each field, and the laws of tables.
-/
namespace Sys2Proof.Machine

/-! ### Tables -/

theorem tget_tset {α : Type} (t : Tbl α) (k k' : Nat) (v : α) :
    tget (tset t k v) k' = if k' = k then some v else tget t k' := by
  induction t with
  | nil => by_cases h : k' = k <;> simp [tset, tget, h]
  | cons p t ih =>
    obtain ⟨a, x⟩ := p
    simp only [tset]
    by_cases h1 : k < a
    · simp [h1, tget]
    · by_cases h2 : k = a
      · subst h2; by_cases h : k' = k <;> simp [tget, h]
      · simp only [h1, if_false, h2, tget, ih]
        by_cases h : k' = a
        · simp [h, Ne.symm h2]
        · simp [h]

@[simp] theorem tget_tset_same {α : Type} (t : Tbl α) (k : Nat) (v : α) : tget (tset t k v) k = some v := by
  simp [tget_tset]

theorem tget_tset_other {α : Type} (t : Tbl α) (k k' : Nat) (v : α) (h : k' ≠ k) : tget (tset t k v) k' = tget t k' := by
  simp [tget_tset, h]

/-- A table after a removal reads nothing under that key, and otherwise as before. -/
theorem tget_tdel {α : Type} (t : Tbl α) (k k' : Nat) : tget (tdel t k) k' = if k' = k then none else tget t k' := by
  induction t with
  | nil => simp [tdel, tget]
  | cons p t ih =>
    obtain ⟨n, v⟩ := p
    simp only [tdel] at ih
    by_cases h : n = k
    · subst h
      simp only [tdel, List.filter, bne_self_eq_false, ih, tget]
      split <;> rfl
    · simp only [tdel, List.filter, bne_iff_ne.mpr h, ih, tget]
      by_cases h2 : k' = n
      · simp [h2, h]
      · simp [h2]

theorem vget_vset {α : Type} {n : Nat} (d : α) (v : Vector α n) (i j : Nat) (x : α) :
    vget d (vset v i x) j = if j = i ∧ i < n then x else vget d v j := by
  unfold vget vset
  by_cases hj : j < n
  · by_cases h : j = i
    · subst h; simp [hj]
    · simp [Vector.getElem?_setIfInBounds, h, Ne.symm h]
  · by_cases h : j = i
    · subst h; simp [hj, Vector.getElem?_eq_none (Nat.le_of_not_lt hj)]
    · simp [h, Vector.getElem?_eq_none (Nat.le_of_not_lt hj)]

theorem vget_vset_same {α : Type} {n : Nat} (d : α) (v : Vector α n) (i : Nat) (x : α) (h : i < n) :
    vget d (vset v i x) i = x := by simp [vget_vset, h]

theorem vget_vset_other {α : Type} {n : Nat} (d : α) (v : Vector α n) (i j : Nat) (x : α) (h : j ≠ i) :
    vget d (vset v i x) j = vget d v j := by simp [vget_vset, h]

/-! ### Elements -/

theorem elem_setElem (s : State) (e e' : EId) (E : Elem) : (s.setElem e E).elem e' = if e' = e then E else s.elem e' := by
  by_cases h : e' = e <;> simp [State.elem, State.setElem, tget_tset, h]

@[simp] theorem elem_setElem_same (s : State) (e : EId) (E : Elem) : (s.setElem e E).elem e = E := by simp [elem_setElem]

@[simp] theorem elem_updElem_same (s : State) (e : EId) (f : Elem → Elem) : (s.updElem e f).elem e = f (s.elem e) := by
  simp [State.updElem]

theorem elem_updElem (s : State) (e e' : EId) (f : Elem → Elem) :
    (s.updElem e f).elem e' = if e' = e then f (s.elem e) else s.elem e' := by simp [State.updElem, elem_setElem]

theorem elem_updElem_other (s : State) (e e' : EId) (f : Elem → Elem) (h : e' ≠ e) : (s.updElem e f).elem e' = s.elem e' := by
  simp [elem_updElem, h]


/-! ### setElem -/

@[simp] theorem setElem_time (s : State) (e : EId) (E : Elem) : (s.setElem e E).time = s.time := rfl
@[simp] theorem setElem_stepNo (s : State) (e : EId) (E : Elem) : (s.setElem e E).stepNo = s.stepNo := rfl
@[simp] theorem setElem_nextId (s : State) (e : EId) (E : Elem) : (s.setElem e E).nextId = s.nextId := rfl
@[simp] theorem setElem_turns (s : State) (e : EId) (E : Elem) : (s.setElem e E).turns = s.turns := rfl
@[simp] theorem setElem_cur (s : State) (e : EId) (E : Elem) : (s.setElem e E).cur = s.cur := rfl
@[simp] theorem setElem_mem (s : State) (e : EId) (E : Elem) : (s.setElem e E).mem = s.mem := rfl
@[simp] theorem setElem_tags (s : State) (e : EId) (E : Elem) : (s.setElem e E).tags = s.tags := rfl
@[simp] theorem setElem_poison (s : State) (e : EId) (E : Elem) : (s.setElem e E).poison = s.poison := rfl
@[simp] theorem setElem_slots (s : State) (e : EId) (E : Elem) : (s.setElem e E).slots = s.slots := rfl
@[simp] theorem setElem_ctxs (s : State) (e : EId) (E : Elem) : (s.setElem e E).ctxs = s.ctxs := rfl
@[simp] theorem setElem_fabric (s : State) (e : EId) (E : Elem) : (s.setElem e E).fabric = s.fabric := rfl
@[simp] theorem setElem_fronds (s : State) (e : EId) (E : Elem) : (s.setElem e E).fronds = s.fronds := rfl
@[simp] theorem setElem_streams (s : State) (e : EId) (E : Elem) : (s.setElem e E).streams = s.streams := rfl
@[simp] theorem setElem_hostErrors (s : State) (e : EId) (E : Elem) : (s.setElem e E).hostErrors = s.hostErrors := rfl
@[simp] theorem setElem_pkg (s : State) (e : EId) (E : Elem) : (s.setElem e E).pkg = s.pkg := rfl

/-! ### updElem -/

@[simp] theorem updElem_time (s : State) (e : EId) (f : Elem → Elem) : (s.updElem e f).time = s.time := rfl
@[simp] theorem updElem_stepNo (s : State) (e : EId) (f : Elem → Elem) : (s.updElem e f).stepNo = s.stepNo := rfl
@[simp] theorem updElem_nextId (s : State) (e : EId) (f : Elem → Elem) : (s.updElem e f).nextId = s.nextId := rfl
@[simp] theorem updElem_turns (s : State) (e : EId) (f : Elem → Elem) : (s.updElem e f).turns = s.turns := rfl
@[simp] theorem updElem_cur (s : State) (e : EId) (f : Elem → Elem) : (s.updElem e f).cur = s.cur := rfl
@[simp] theorem updElem_mem (s : State) (e : EId) (f : Elem → Elem) : (s.updElem e f).mem = s.mem := rfl
@[simp] theorem updElem_tags (s : State) (e : EId) (f : Elem → Elem) : (s.updElem e f).tags = s.tags := rfl
@[simp] theorem updElem_poison (s : State) (e : EId) (f : Elem → Elem) : (s.updElem e f).poison = s.poison := rfl
@[simp] theorem updElem_slots (s : State) (e : EId) (f : Elem → Elem) : (s.updElem e f).slots = s.slots := rfl
@[simp] theorem updElem_ctxs (s : State) (e : EId) (f : Elem → Elem) : (s.updElem e f).ctxs = s.ctxs := rfl
@[simp] theorem updElem_fabric (s : State) (e : EId) (f : Elem → Elem) : (s.updElem e f).fabric = s.fabric := rfl
@[simp] theorem updElem_fronds (s : State) (e : EId) (f : Elem → Elem) : (s.updElem e f).fronds = s.fronds := rfl
@[simp] theorem updElem_streams (s : State) (e : EId) (f : Elem → Elem) : (s.updElem e f).streams = s.streams := rfl
@[simp] theorem updElem_hostErrors (s : State) (e : EId) (f : Elem → Elem) : (s.updElem e f).hostErrors = s.hostErrors := rfl
@[simp] theorem updElem_pkg (s : State) (e : EId) (f : Elem → Elem) : (s.updElem e f).pkg = s.pkg := rfl

/-! ### setAct -/

@[simp] theorem setAct_time (s : State) (A : Act) : (s.setAct A).time = s.time := rfl
@[simp] theorem setAct_stepNo (s : State) (A : Act) : (s.setAct A).stepNo = s.stepNo := rfl
@[simp] theorem setAct_nextId (s : State) (A : Act) : (s.setAct A).nextId = s.nextId := rfl
@[simp] theorem setAct_turns (s : State) (A : Act) : (s.setAct A).turns = s.turns := rfl
@[simp] theorem setAct_cur (s : State) (A : Act) : (s.setAct A).cur = s.cur := rfl
@[simp] theorem setAct_mem (s : State) (A : Act) : (s.setAct A).mem = s.mem := rfl
@[simp] theorem setAct_tags (s : State) (A : Act) : (s.setAct A).tags = s.tags := rfl
@[simp] theorem setAct_poison (s : State) (A : Act) : (s.setAct A).poison = s.poison := rfl
@[simp] theorem setAct_slots (s : State) (A : Act) : (s.setAct A).slots = s.slots := rfl
@[simp] theorem setAct_ctxs (s : State) (A : Act) : (s.setAct A).ctxs = s.ctxs := rfl
@[simp] theorem setAct_fabric (s : State) (A : Act) : (s.setAct A).fabric = s.fabric := rfl
@[simp] theorem setAct_fronds (s : State) (A : Act) : (s.setAct A).fronds = s.fronds := rfl
@[simp] theorem setAct_streams (s : State) (A : Act) : (s.setAct A).streams = s.streams := rfl
@[simp] theorem setAct_hostErrors (s : State) (A : Act) : (s.setAct A).hostErrors = s.hostErrors := rfl
@[simp] theorem setAct_pkg (s : State) (A : Act) : (s.setAct A).pkg = s.pkg := rfl

/-! ### updCtx -/

@[simp] theorem updCtx_time (s : State) (c : Nat) (f : Ctx → Ctx) : (s.updCtx c f).time = s.time := by unfold State.updCtx; split <;> rfl
@[simp] theorem updCtx_stepNo (s : State) (c : Nat) (f : Ctx → Ctx) : (s.updCtx c f).stepNo = s.stepNo := by unfold State.updCtx; split <;> rfl
@[simp] theorem updCtx_nextId (s : State) (c : Nat) (f : Ctx → Ctx) : (s.updCtx c f).nextId = s.nextId := by unfold State.updCtx; split <;> rfl
@[simp] theorem updCtx_turns (s : State) (c : Nat) (f : Ctx → Ctx) : (s.updCtx c f).turns = s.turns := by unfold State.updCtx; split <;> rfl
@[simp] theorem updCtx_cur (s : State) (c : Nat) (f : Ctx → Ctx) : (s.updCtx c f).cur = s.cur := by unfold State.updCtx; split <;> rfl
@[simp] theorem updCtx_mem (s : State) (c : Nat) (f : Ctx → Ctx) : (s.updCtx c f).mem = s.mem := by unfold State.updCtx; split <;> rfl
@[simp] theorem updCtx_tags (s : State) (c : Nat) (f : Ctx → Ctx) : (s.updCtx c f).tags = s.tags := by unfold State.updCtx; split <;> rfl
@[simp] theorem updCtx_poison (s : State) (c : Nat) (f : Ctx → Ctx) : (s.updCtx c f).poison = s.poison := by unfold State.updCtx; split <;> rfl
@[simp] theorem updCtx_elems (s : State) (c : Nat) (f : Ctx → Ctx) : (s.updCtx c f).elems = s.elems := by unfold State.updCtx; split <;> rfl
@[simp] theorem updCtx_slots (s : State) (c : Nat) (f : Ctx → Ctx) : (s.updCtx c f).slots = s.slots := by unfold State.updCtx; split <;> rfl
@[simp] theorem updCtx_fabric (s : State) (c : Nat) (f : Ctx → Ctx) : (s.updCtx c f).fabric = s.fabric := by unfold State.updCtx; split <;> rfl
@[simp] theorem updCtx_fronds (s : State) (c : Nat) (f : Ctx → Ctx) : (s.updCtx c f).fronds = s.fronds := by unfold State.updCtx; split <;> rfl
@[simp] theorem updCtx_streams (s : State) (c : Nat) (f : Ctx → Ctx) : (s.updCtx c f).streams = s.streams := by unfold State.updCtx; split <;> rfl
@[simp] theorem updCtx_hostErrors (s : State) (c : Nat) (f : Ctx → Ctx) : (s.updCtx c f).hostErrors = s.hostErrors := by unfold State.updCtx; split <;> rfl
@[simp] theorem updCtx_pkg (s : State) (c : Nat) (f : Ctx → Ctx) : (s.updCtx c f).pkg = s.pkg := by unfold State.updCtx; split <;> rfl

/-! ### updFrond -/

@[simp] theorem updFrond_time (s : State) (l : EId) (g : Frond → Frond) : (s.updFrond l g).time = s.time := rfl
@[simp] theorem updFrond_stepNo (s : State) (l : EId) (g : Frond → Frond) : (s.updFrond l g).stepNo = s.stepNo := rfl
@[simp] theorem updFrond_nextId (s : State) (l : EId) (g : Frond → Frond) : (s.updFrond l g).nextId = s.nextId := rfl
@[simp] theorem updFrond_turns (s : State) (l : EId) (g : Frond → Frond) : (s.updFrond l g).turns = s.turns := rfl
@[simp] theorem updFrond_cur (s : State) (l : EId) (g : Frond → Frond) : (s.updFrond l g).cur = s.cur := rfl
@[simp] theorem updFrond_mem (s : State) (l : EId) (g : Frond → Frond) : (s.updFrond l g).mem = s.mem := rfl
@[simp] theorem updFrond_tags (s : State) (l : EId) (g : Frond → Frond) : (s.updFrond l g).tags = s.tags := rfl
@[simp] theorem updFrond_poison (s : State) (l : EId) (g : Frond → Frond) : (s.updFrond l g).poison = s.poison := rfl
@[simp] theorem updFrond_elems (s : State) (l : EId) (g : Frond → Frond) : (s.updFrond l g).elems = s.elems := rfl
@[simp] theorem updFrond_slots (s : State) (l : EId) (g : Frond → Frond) : (s.updFrond l g).slots = s.slots := rfl
@[simp] theorem updFrond_ctxs (s : State) (l : EId) (g : Frond → Frond) : (s.updFrond l g).ctxs = s.ctxs := rfl
@[simp] theorem updFrond_fabric (s : State) (l : EId) (g : Frond → Frond) : (s.updFrond l g).fabric = s.fabric := rfl
@[simp] theorem updFrond_streams (s : State) (l : EId) (g : Frond → Frond) : (s.updFrond l g).streams = s.streams := rfl
@[simp] theorem updFrond_hostErrors (s : State) (l : EId) (g : Frond → Frond) : (s.updFrond l g).hostErrors = s.hostErrors := rfl
@[simp] theorem updFrond_pkg (s : State) (l : EId) (g : Frond → Frond) : (s.updFrond l g).pkg = s.pkg := rfl

/-! ### updChan -/

@[simp] theorem updChan_time (s : State) (e : EId) (fr : Bool) (q : Nat) (g : Chan → Chan) : (s.updChan e fr q g).time = s.time := by unfold State.updChan; split <;> rfl
@[simp] theorem updChan_stepNo (s : State) (e : EId) (fr : Bool) (q : Nat) (g : Chan → Chan) : (s.updChan e fr q g).stepNo = s.stepNo := by unfold State.updChan; split <;> rfl
@[simp] theorem updChan_nextId (s : State) (e : EId) (fr : Bool) (q : Nat) (g : Chan → Chan) : (s.updChan e fr q g).nextId = s.nextId := by unfold State.updChan; split <;> rfl
@[simp] theorem updChan_turns (s : State) (e : EId) (fr : Bool) (q : Nat) (g : Chan → Chan) : (s.updChan e fr q g).turns = s.turns := by unfold State.updChan; split <;> rfl
@[simp] theorem updChan_cur (s : State) (e : EId) (fr : Bool) (q : Nat) (g : Chan → Chan) : (s.updChan e fr q g).cur = s.cur := by unfold State.updChan; split <;> rfl
@[simp] theorem updChan_mem (s : State) (e : EId) (fr : Bool) (q : Nat) (g : Chan → Chan) : (s.updChan e fr q g).mem = s.mem := by unfold State.updChan; split <;> rfl
@[simp] theorem updChan_tags (s : State) (e : EId) (fr : Bool) (q : Nat) (g : Chan → Chan) : (s.updChan e fr q g).tags = s.tags := by unfold State.updChan; split <;> rfl
@[simp] theorem updChan_poison (s : State) (e : EId) (fr : Bool) (q : Nat) (g : Chan → Chan) : (s.updChan e fr q g).poison = s.poison := by unfold State.updChan; split <;> rfl
@[simp] theorem updChan_slots (s : State) (e : EId) (fr : Bool) (q : Nat) (g : Chan → Chan) : (s.updChan e fr q g).slots = s.slots := by unfold State.updChan; split <;> rfl
@[simp] theorem updChan_ctxs (s : State) (e : EId) (fr : Bool) (q : Nat) (g : Chan → Chan) : (s.updChan e fr q g).ctxs = s.ctxs := by unfold State.updChan; split <;> rfl
@[simp] theorem updChan_fabric (s : State) (e : EId) (fr : Bool) (q : Nat) (g : Chan → Chan) : (s.updChan e fr q g).fabric = s.fabric := by unfold State.updChan; split <;> rfl
@[simp] theorem updChan_streams (s : State) (e : EId) (fr : Bool) (q : Nat) (g : Chan → Chan) : (s.updChan e fr q g).streams = s.streams := by unfold State.updChan; split <;> rfl
@[simp] theorem updChan_hostErrors (s : State) (e : EId) (fr : Bool) (q : Nat) (g : Chan → Chan) : (s.updChan e fr q g).hostErrors = s.hostErrors := by unfold State.updChan; split <;> rfl
@[simp] theorem updChan_pkg (s : State) (e : EId) (fr : Bool) (q : Nat) (g : Chan → Chan) : (s.updChan e fr q g).pkg = s.pkg := by unfold State.updChan; split <;> rfl

/-! ### setTag -/

@[simp] theorem setTag_time (s : State) (k : Nat) (t : BitVec 4) : (setTag s k t).time = s.time := rfl
@[simp] theorem setTag_stepNo (s : State) (k : Nat) (t : BitVec 4) : (setTag s k t).stepNo = s.stepNo := rfl
@[simp] theorem setTag_nextId (s : State) (k : Nat) (t : BitVec 4) : (setTag s k t).nextId = s.nextId := rfl
@[simp] theorem setTag_turns (s : State) (k : Nat) (t : BitVec 4) : (setTag s k t).turns = s.turns := rfl
@[simp] theorem setTag_cur (s : State) (k : Nat) (t : BitVec 4) : (setTag s k t).cur = s.cur := rfl
@[simp] theorem setTag_mem (s : State) (k : Nat) (t : BitVec 4) : (setTag s k t).mem = s.mem := rfl
@[simp] theorem setTag_poison (s : State) (k : Nat) (t : BitVec 4) : (setTag s k t).poison = s.poison := rfl
@[simp] theorem setTag_elems (s : State) (k : Nat) (t : BitVec 4) : (setTag s k t).elems = s.elems := rfl
@[simp] theorem setTag_slots (s : State) (k : Nat) (t : BitVec 4) : (setTag s k t).slots = s.slots := rfl
@[simp] theorem setTag_ctxs (s : State) (k : Nat) (t : BitVec 4) : (setTag s k t).ctxs = s.ctxs := rfl
@[simp] theorem setTag_fabric (s : State) (k : Nat) (t : BitVec 4) : (setTag s k t).fabric = s.fabric := rfl
@[simp] theorem setTag_fronds (s : State) (k : Nat) (t : BitVec 4) : (setTag s k t).fronds = s.fronds := rfl
@[simp] theorem setTag_streams (s : State) (k : Nat) (t : BitVec 4) : (setTag s k t).streams = s.streams := rfl
@[simp] theorem setTag_hostErrors (s : State) (k : Nat) (t : BitVec 4) : (setTag s k t).hostErrors = s.hostErrors := rfl
@[simp] theorem setTag_pkg (s : State) (k : Nat) (t : BitVec 4) : (setTag s k t).pkg = s.pkg := rfl

/-! ### count -/

@[simp] theorem count_time (s : State) (c : Nat) (e : EId) (m n : Nat) : (s.count c e m n).time = s.time := by simp [State.count]
@[simp] theorem count_stepNo (s : State) (c : Nat) (e : EId) (m n : Nat) : (s.count c e m n).stepNo = s.stepNo := by simp [State.count]
@[simp] theorem count_nextId (s : State) (c : Nat) (e : EId) (m n : Nat) : (s.count c e m n).nextId = s.nextId := by simp [State.count]
@[simp] theorem count_turns (s : State) (c : Nat) (e : EId) (m n : Nat) : (s.count c e m n).turns = s.turns := by simp [State.count]
@[simp] theorem count_cur (s : State) (c : Nat) (e : EId) (m n : Nat) : (s.count c e m n).cur = s.cur := by simp [State.count]
@[simp] theorem count_mem (s : State) (c : Nat) (e : EId) (m n : Nat) : (s.count c e m n).mem = s.mem := by simp [State.count]
@[simp] theorem count_tags (s : State) (c : Nat) (e : EId) (m n : Nat) : (s.count c e m n).tags = s.tags := by simp [State.count]
@[simp] theorem count_poison (s : State) (c : Nat) (e : EId) (m n : Nat) : (s.count c e m n).poison = s.poison := by simp [State.count]
@[simp] theorem count_elems (s : State) (c : Nat) (e : EId) (m n : Nat) : (s.count c e m n).elems = s.elems := by simp [State.count]
@[simp] theorem count_slots (s : State) (c : Nat) (e : EId) (m n : Nat) : (s.count c e m n).slots = s.slots := by simp [State.count]
@[simp] theorem count_fabric (s : State) (c : Nat) (e : EId) (m n : Nat) : (s.count c e m n).fabric = s.fabric := by simp [State.count]
@[simp] theorem count_fronds (s : State) (c : Nat) (e : EId) (m n : Nat) : (s.count c e m n).fronds = s.fronds := by simp [State.count]
@[simp] theorem count_streams (s : State) (c : Nat) (e : EId) (m n : Nat) : (s.count c e m n).streams = s.streams := by simp [State.count]
@[simp] theorem count_hostErrors (s : State) (c : Nat) (e : EId) (m n : Nat) : (s.count c e m n).hostErrors = s.hostErrors := by simp [State.count]
@[simp] theorem count_pkg (s : State) (c : Nat) (e : EId) (m n : Nat) : (s.count c e m n).pkg = s.pkg := by simp [State.count]

/-! ### countIf -/

@[simp] theorem countIf_time (s : State) (b : Bool) (c : Nat) (e : EId) (m n : Nat) : (s.countIf b c e m n).time = s.time := by unfold State.countIf; split <;> simp
@[simp] theorem countIf_stepNo (s : State) (b : Bool) (c : Nat) (e : EId) (m n : Nat) : (s.countIf b c e m n).stepNo = s.stepNo := by unfold State.countIf; split <;> simp
@[simp] theorem countIf_nextId (s : State) (b : Bool) (c : Nat) (e : EId) (m n : Nat) : (s.countIf b c e m n).nextId = s.nextId := by unfold State.countIf; split <;> simp
@[simp] theorem countIf_turns (s : State) (b : Bool) (c : Nat) (e : EId) (m n : Nat) : (s.countIf b c e m n).turns = s.turns := by unfold State.countIf; split <;> simp
@[simp] theorem countIf_cur (s : State) (b : Bool) (c : Nat) (e : EId) (m n : Nat) : (s.countIf b c e m n).cur = s.cur := by unfold State.countIf; split <;> simp
@[simp] theorem countIf_mem (s : State) (b : Bool) (c : Nat) (e : EId) (m n : Nat) : (s.countIf b c e m n).mem = s.mem := by unfold State.countIf; split <;> simp
@[simp] theorem countIf_tags (s : State) (b : Bool) (c : Nat) (e : EId) (m n : Nat) : (s.countIf b c e m n).tags = s.tags := by unfold State.countIf; split <;> simp
@[simp] theorem countIf_poison (s : State) (b : Bool) (c : Nat) (e : EId) (m n : Nat) : (s.countIf b c e m n).poison = s.poison := by unfold State.countIf; split <;> simp
@[simp] theorem countIf_elems (s : State) (b : Bool) (c : Nat) (e : EId) (m n : Nat) : (s.countIf b c e m n).elems = s.elems := by unfold State.countIf; split <;> simp
@[simp] theorem countIf_slots (s : State) (b : Bool) (c : Nat) (e : EId) (m n : Nat) : (s.countIf b c e m n).slots = s.slots := by unfold State.countIf; split <;> simp
@[simp] theorem countIf_fabric (s : State) (b : Bool) (c : Nat) (e : EId) (m n : Nat) : (s.countIf b c e m n).fabric = s.fabric := by unfold State.countIf; split <;> simp
@[simp] theorem countIf_fronds (s : State) (b : Bool) (c : Nat) (e : EId) (m n : Nat) : (s.countIf b c e m n).fronds = s.fronds := by unfold State.countIf; split <;> simp
@[simp] theorem countIf_streams (s : State) (b : Bool) (c : Nat) (e : EId) (m n : Nat) : (s.countIf b c e m n).streams = s.streams := by unfold State.countIf; split <;> simp
@[simp] theorem countIf_hostErrors (s : State) (b : Bool) (c : Nat) (e : EId) (m n : Nat) : (s.countIf b c e m n).hostErrors = s.hostErrors := by unfold State.countIf; split <;> simp
@[simp] theorem countIf_pkg (s : State) (b : Bool) (c : Nat) (e : EId) (m n : Nat) : (s.countIf b c e m n).pkg = s.pkg := by unfold State.countIf; split <;> simp

/-! ### inject -/

@[simp] theorem inject_time (s : State) (c : Nat) (src : EId) (dst : Option EId) (b : Body) : (s.inject c src dst b).time = s.time := by simp [State.inject]
@[simp] theorem inject_stepNo (s : State) (c : Nat) (src : EId) (dst : Option EId) (b : Body) : (s.inject c src dst b).stepNo = s.stepNo := by simp [State.inject]
@[simp] theorem inject_turns (s : State) (c : Nat) (src : EId) (dst : Option EId) (b : Body) : (s.inject c src dst b).turns = s.turns := by simp [State.inject]
@[simp] theorem inject_cur (s : State) (c : Nat) (src : EId) (dst : Option EId) (b : Body) : (s.inject c src dst b).cur = s.cur := by simp [State.inject]
@[simp] theorem inject_mem (s : State) (c : Nat) (src : EId) (dst : Option EId) (b : Body) : (s.inject c src dst b).mem = s.mem := by simp [State.inject]
@[simp] theorem inject_tags (s : State) (c : Nat) (src : EId) (dst : Option EId) (b : Body) : (s.inject c src dst b).tags = s.tags := by simp [State.inject]
@[simp] theorem inject_poison (s : State) (c : Nat) (src : EId) (dst : Option EId) (b : Body) : (s.inject c src dst b).poison = s.poison := by simp [State.inject]
@[simp] theorem inject_elems (s : State) (c : Nat) (src : EId) (dst : Option EId) (b : Body) : (s.inject c src dst b).elems = s.elems := by simp [State.inject]
@[simp] theorem inject_slots (s : State) (c : Nat) (src : EId) (dst : Option EId) (b : Body) : (s.inject c src dst b).slots = s.slots := by simp [State.inject]
@[simp] theorem inject_fronds (s : State) (c : Nat) (src : EId) (dst : Option EId) (b : Body) : (s.inject c src dst b).fronds = s.fronds := by simp [State.inject]
@[simp] theorem inject_streams (s : State) (c : Nat) (src : EId) (dst : Option EId) (b : Body) : (s.inject c src dst b).streams = s.streams := by simp [State.inject]
@[simp] theorem inject_hostErrors (s : State) (c : Nat) (src : EId) (dst : Option EId) (b : Body) : (s.inject c src dst b).hostErrors = s.hostErrors := by simp [State.inject]
@[simp] theorem inject_pkg (s : State) (c : Nat) (src : EId) (dst : Option EId) (b : Body) : (s.inject c src dst b).pkg = s.pkg := by simp [State.inject]

/-! ### land -/

@[simp] theorem land_time (s : State) (f : Flight) : (s.land f).time = s.time := by simp [State.land]
@[simp] theorem land_stepNo (s : State) (f : Flight) : (s.land f).stepNo = s.stepNo := by simp [State.land]
@[simp] theorem land_nextId (s : State) (f : Flight) : (s.land f).nextId = s.nextId := by simp [State.land]
@[simp] theorem land_turns (s : State) (f : Flight) : (s.land f).turns = s.turns := by simp [State.land]
@[simp] theorem land_cur (s : State) (f : Flight) : (s.land f).cur = s.cur := by simp [State.land]
@[simp] theorem land_mem (s : State) (f : Flight) : (s.land f).mem = s.mem := by simp [State.land]
@[simp] theorem land_tags (s : State) (f : Flight) : (s.land f).tags = s.tags := by simp [State.land]
@[simp] theorem land_poison (s : State) (f : Flight) : (s.land f).poison = s.poison := by simp [State.land]
@[simp] theorem land_elems (s : State) (f : Flight) : (s.land f).elems = s.elems := by simp [State.land]
@[simp] theorem land_slots (s : State) (f : Flight) : (s.land f).slots = s.slots := by simp [State.land]
@[simp] theorem land_fronds (s : State) (f : Flight) : (s.land f).fronds = s.fronds := by simp [State.land]
@[simp] theorem land_streams (s : State) (f : Flight) : (s.land f).streams = s.streams := by simp [State.land]
@[simp] theorem land_hostErrors (s : State) (f : Flight) : (s.land f).hostErrors = s.hostErrors := by simp [State.land]
@[simp] theorem land_pkg (s : State) (f : Flight) : (s.land f).pkg = s.pkg := by simp [State.land]

/-! ### takeUnit -/

@[simp] theorem takeUnit_time (s : State) (n : Nat) : (s.takeUnit n).time = s.time := rfl
@[simp] theorem takeUnit_stepNo (s : State) (n : Nat) : (s.takeUnit n).stepNo = s.stepNo := rfl
@[simp] theorem takeUnit_nextId (s : State) (n : Nat) : (s.takeUnit n).nextId = s.nextId := rfl
@[simp] theorem takeUnit_turns (s : State) (n : Nat) : (s.takeUnit n).turns = s.turns := rfl
@[simp] theorem takeUnit_cur (s : State) (n : Nat) : (s.takeUnit n).cur = s.cur := rfl
@[simp] theorem takeUnit_mem (s : State) (n : Nat) : (s.takeUnit n).mem = s.mem := rfl
@[simp] theorem takeUnit_tags (s : State) (n : Nat) : (s.takeUnit n).tags = s.tags := rfl
@[simp] theorem takeUnit_poison (s : State) (n : Nat) : (s.takeUnit n).poison = s.poison := rfl
@[simp] theorem takeUnit_slots (s : State) (n : Nat) : (s.takeUnit n).slots = s.slots := rfl
@[simp] theorem takeUnit_ctxs (s : State) (n : Nat) : (s.takeUnit n).ctxs = s.ctxs := rfl
@[simp] theorem takeUnit_fabric (s : State) (n : Nat) : (s.takeUnit n).fabric = s.fabric := rfl
@[simp] theorem takeUnit_fronds (s : State) (n : Nat) : (s.takeUnit n).fronds = s.fronds := rfl
@[simp] theorem takeUnit_streams (s : State) (n : Nat) : (s.takeUnit n).streams = s.streams := rfl
@[simp] theorem takeUnit_hostErrors (s : State) (n : Nat) : (s.takeUnit n).hostErrors = s.hostErrors := rfl
@[simp] theorem takeUnit_pkg (s : State) (n : Nat) : (s.takeUnit n).pkg = s.pkg := rfl

/-! ### hostWrite -/

@[simp] theorem hostWrite_time (s : State) (a : Nat) (bs : List Byte) : (s.hostWrite a bs).time = s.time := rfl
@[simp] theorem hostWrite_stepNo (s : State) (a : Nat) (bs : List Byte) : (s.hostWrite a bs).stepNo = s.stepNo := rfl
@[simp] theorem hostWrite_nextId (s : State) (a : Nat) (bs : List Byte) : (s.hostWrite a bs).nextId = s.nextId := rfl
@[simp] theorem hostWrite_turns (s : State) (a : Nat) (bs : List Byte) : (s.hostWrite a bs).turns = s.turns := rfl
@[simp] theorem hostWrite_cur (s : State) (a : Nat) (bs : List Byte) : (s.hostWrite a bs).cur = s.cur := rfl
@[simp] theorem hostWrite_tags (s : State) (a : Nat) (bs : List Byte) : (s.hostWrite a bs).tags = s.tags := rfl
@[simp] theorem hostWrite_poison (s : State) (a : Nat) (bs : List Byte) : (s.hostWrite a bs).poison = s.poison := rfl
@[simp] theorem hostWrite_elems (s : State) (a : Nat) (bs : List Byte) : (s.hostWrite a bs).elems = s.elems := rfl
@[simp] theorem hostWrite_slots (s : State) (a : Nat) (bs : List Byte) : (s.hostWrite a bs).slots = s.slots := rfl
@[simp] theorem hostWrite_ctxs (s : State) (a : Nat) (bs : List Byte) : (s.hostWrite a bs).ctxs = s.ctxs := rfl
@[simp] theorem hostWrite_fabric (s : State) (a : Nat) (bs : List Byte) : (s.hostWrite a bs).fabric = s.fabric := rfl
@[simp] theorem hostWrite_fronds (s : State) (a : Nat) (bs : List Byte) : (s.hostWrite a bs).fronds = s.fronds := rfl
@[simp] theorem hostWrite_streams (s : State) (a : Nat) (bs : List Byte) : (s.hostWrite a bs).streams = s.streams := rfl
@[simp] theorem hostWrite_hostErrors (s : State) (a : Nat) (bs : List Byte) : (s.hostWrite a bs).hostErrors = s.hostErrors := rfl
@[simp] theorem hostWrite_pkg (s : State) (a : Nat) (bs : List Byte) : (s.hostWrite a bs).pkg = s.pkg := rfl

/-! ### setV -/

@[simp] theorem setV_time (s : State) (r : VReg) (x : Vec) : (s.setV r x).time = s.time := rfl
@[simp] theorem setV_stepNo (s : State) (r : VReg) (x : Vec) : (s.setV r x).stepNo = s.stepNo := rfl
@[simp] theorem setV_nextId (s : State) (r : VReg) (x : Vec) : (s.setV r x).nextId = s.nextId := rfl
@[simp] theorem setV_turns (s : State) (r : VReg) (x : Vec) : (s.setV r x).turns = s.turns := rfl
@[simp] theorem setV_cur (s : State) (r : VReg) (x : Vec) : (s.setV r x).cur = s.cur := rfl
@[simp] theorem setV_mem (s : State) (r : VReg) (x : Vec) : (s.setV r x).mem = s.mem := rfl
@[simp] theorem setV_tags (s : State) (r : VReg) (x : Vec) : (s.setV r x).tags = s.tags := rfl
@[simp] theorem setV_poison (s : State) (r : VReg) (x : Vec) : (s.setV r x).poison = s.poison := rfl
@[simp] theorem setV_slots (s : State) (r : VReg) (x : Vec) : (s.setV r x).slots = s.slots := rfl
@[simp] theorem setV_ctxs (s : State) (r : VReg) (x : Vec) : (s.setV r x).ctxs = s.ctxs := rfl
@[simp] theorem setV_fabric (s : State) (r : VReg) (x : Vec) : (s.setV r x).fabric = s.fabric := rfl
@[simp] theorem setV_fronds (s : State) (r : VReg) (x : Vec) : (s.setV r x).fronds = s.fronds := rfl
@[simp] theorem setV_streams (s : State) (r : VReg) (x : Vec) : (s.setV r x).streams = s.streams := rfl
@[simp] theorem setV_hostErrors (s : State) (r : VReg) (x : Vec) : (s.setV r x).hostErrors = s.hostErrors := rfl
@[simp] theorem setV_pkg (s : State) (r : VReg) (x : Vec) : (s.setV r x).pkg = s.pkg := rfl

/-! ### setK -/

@[simp] theorem setK_time (s : State) (r : Nat) (x : Word) : (s.setK r x).time = s.time := rfl
@[simp] theorem setK_stepNo (s : State) (r : Nat) (x : Word) : (s.setK r x).stepNo = s.stepNo := rfl
@[simp] theorem setK_nextId (s : State) (r : Nat) (x : Word) : (s.setK r x).nextId = s.nextId := rfl
@[simp] theorem setK_turns (s : State) (r : Nat) (x : Word) : (s.setK r x).turns = s.turns := rfl
@[simp] theorem setK_cur (s : State) (r : Nat) (x : Word) : (s.setK r x).cur = s.cur := rfl
@[simp] theorem setK_mem (s : State) (r : Nat) (x : Word) : (s.setK r x).mem = s.mem := rfl
@[simp] theorem setK_tags (s : State) (r : Nat) (x : Word) : (s.setK r x).tags = s.tags := rfl
@[simp] theorem setK_poison (s : State) (r : Nat) (x : Word) : (s.setK r x).poison = s.poison := rfl
@[simp] theorem setK_slots (s : State) (r : Nat) (x : Word) : (s.setK r x).slots = s.slots := rfl
@[simp] theorem setK_ctxs (s : State) (r : Nat) (x : Word) : (s.setK r x).ctxs = s.ctxs := rfl
@[simp] theorem setK_fabric (s : State) (r : Nat) (x : Word) : (s.setK r x).fabric = s.fabric := rfl
@[simp] theorem setK_fronds (s : State) (r : Nat) (x : Word) : (s.setK r x).fronds = s.fronds := rfl
@[simp] theorem setK_streams (s : State) (r : Nat) (x : Word) : (s.setK r x).streams = s.streams := rfl
@[simp] theorem setK_hostErrors (s : State) (r : Nat) (x : Word) : (s.setK r x).hostErrors = s.hostErrors := rfl
@[simp] theorem setK_pkg (s : State) (r : Nat) (x : Word) : (s.setK r x).pkg = s.pkg := rfl

/-! ### setStream -/

@[simp] theorem setStream_time (s : State) (n : Nat) (st : Stream) : (s.setStream n st).time = s.time := rfl
@[simp] theorem setStream_stepNo (s : State) (n : Nat) (st : Stream) : (s.setStream n st).stepNo = s.stepNo := rfl
@[simp] theorem setStream_nextId (s : State) (n : Nat) (st : Stream) : (s.setStream n st).nextId = s.nextId := rfl
@[simp] theorem setStream_turns (s : State) (n : Nat) (st : Stream) : (s.setStream n st).turns = s.turns := rfl
@[simp] theorem setStream_cur (s : State) (n : Nat) (st : Stream) : (s.setStream n st).cur = s.cur := rfl
@[simp] theorem setStream_mem (s : State) (n : Nat) (st : Stream) : (s.setStream n st).mem = s.mem := rfl
@[simp] theorem setStream_tags (s : State) (n : Nat) (st : Stream) : (s.setStream n st).tags = s.tags := rfl
@[simp] theorem setStream_poison (s : State) (n : Nat) (st : Stream) : (s.setStream n st).poison = s.poison := rfl
@[simp] theorem setStream_elems (s : State) (n : Nat) (st : Stream) : (s.setStream n st).elems = s.elems := rfl
@[simp] theorem setStream_slots (s : State) (n : Nat) (st : Stream) : (s.setStream n st).slots = s.slots := rfl
@[simp] theorem setStream_ctxs (s : State) (n : Nat) (st : Stream) : (s.setStream n st).ctxs = s.ctxs := rfl
@[simp] theorem setStream_fabric (s : State) (n : Nat) (st : Stream) : (s.setStream n st).fabric = s.fabric := rfl
@[simp] theorem setStream_fronds (s : State) (n : Nat) (st : Stream) : (s.setStream n st).fronds = s.fronds := rfl
@[simp] theorem setStream_hostErrors (s : State) (n : Nat) (st : Stream) : (s.setStream n st).hostErrors = s.hostErrors := rfl
@[simp] theorem setStream_pkg (s : State) (n : Nat) (st : Stream) : (s.setStream n st).pkg = s.pkg := rfl

/-! ### clearPoison -/

@[simp] theorem clearPoison_time (s : State) (k n : Nat) : (clearPoison s k n).time = s.time := by unfold clearPoison; split <;> rfl
@[simp] theorem clearPoison_stepNo (s : State) (k n : Nat) : (clearPoison s k n).stepNo = s.stepNo := by unfold clearPoison; split <;> rfl
@[simp] theorem clearPoison_nextId (s : State) (k n : Nat) : (clearPoison s k n).nextId = s.nextId := by unfold clearPoison; split <;> rfl
@[simp] theorem clearPoison_turns (s : State) (k n : Nat) : (clearPoison s k n).turns = s.turns := by unfold clearPoison; split <;> rfl
@[simp] theorem clearPoison_cur (s : State) (k n : Nat) : (clearPoison s k n).cur = s.cur := by unfold clearPoison; split <;> rfl
@[simp] theorem clearPoison_mem (s : State) (k n : Nat) : (clearPoison s k n).mem = s.mem := by unfold clearPoison; split <;> rfl
@[simp] theorem clearPoison_tags (s : State) (k n : Nat) : (clearPoison s k n).tags = s.tags := by unfold clearPoison; split <;> rfl
@[simp] theorem clearPoison_elems (s : State) (k n : Nat) : (clearPoison s k n).elems = s.elems := by unfold clearPoison; split <;> rfl
@[simp] theorem clearPoison_slots (s : State) (k n : Nat) : (clearPoison s k n).slots = s.slots := by unfold clearPoison; split <;> rfl
@[simp] theorem clearPoison_ctxs (s : State) (k n : Nat) : (clearPoison s k n).ctxs = s.ctxs := by unfold clearPoison; split <;> rfl
@[simp] theorem clearPoison_fabric (s : State) (k n : Nat) : (clearPoison s k n).fabric = s.fabric := by unfold clearPoison; split <;> rfl
@[simp] theorem clearPoison_fronds (s : State) (k n : Nat) : (clearPoison s k n).fronds = s.fronds := by unfold clearPoison; split <;> rfl
@[simp] theorem clearPoison_streams (s : State) (k n : Nat) : (clearPoison s k n).streams = s.streams := by unfold clearPoison; split <;> rfl
@[simp] theorem clearPoison_hostErrors (s : State) (k n : Nat) : (clearPoison s k n).hostErrors = s.hostErrors := by unfold clearPoison; split <;> rfl
@[simp] theorem clearPoison_pkg (s : State) (k n : Nat) : (clearPoison s k n).pkg = s.pkg := by unfold clearPoison; split <;> rfl

/-! ### giveBack -/

@[simp] theorem giveBack_time (s : State) (f : Flight) (r : Option EId) : (s.giveBack f r).time = s.time := by unfold State.giveBack; split <;> simp
@[simp] theorem giveBack_stepNo (s : State) (f : Flight) (r : Option EId) : (s.giveBack f r).stepNo = s.stepNo := by unfold State.giveBack; split <;> simp
@[simp] theorem giveBack_turns (s : State) (f : Flight) (r : Option EId) : (s.giveBack f r).turns = s.turns := by unfold State.giveBack; split <;> simp
@[simp] theorem giveBack_cur (s : State) (f : Flight) (r : Option EId) : (s.giveBack f r).cur = s.cur := by unfold State.giveBack; split <;> simp
@[simp] theorem giveBack_mem (s : State) (f : Flight) (r : Option EId) : (s.giveBack f r).mem = s.mem := by unfold State.giveBack; split <;> simp
@[simp] theorem giveBack_tags (s : State) (f : Flight) (r : Option EId) : (s.giveBack f r).tags = s.tags := by unfold State.giveBack; split <;> simp
@[simp] theorem giveBack_poison (s : State) (f : Flight) (r : Option EId) : (s.giveBack f r).poison = s.poison := by unfold State.giveBack; split <;> simp
@[simp] theorem giveBack_elems (s : State) (f : Flight) (r : Option EId) : (s.giveBack f r).elems = s.elems := by unfold State.giveBack; split <;> simp
@[simp] theorem giveBack_slots (s : State) (f : Flight) (r : Option EId) : (s.giveBack f r).slots = s.slots := by unfold State.giveBack; split <;> simp
@[simp] theorem giveBack_fronds (s : State) (f : Flight) (r : Option EId) : (s.giveBack f r).fronds = s.fronds := by unfold State.giveBack; split <;> simp
@[simp] theorem giveBack_streams (s : State) (f : Flight) (r : Option EId) : (s.giveBack f r).streams = s.streams := by unfold State.giveBack; split <;> simp
@[simp] theorem giveBack_hostErrors (s : State) (f : Flight) (r : Option EId) : (s.giveBack f r).hostErrors = s.hostErrors := by unfold State.giveBack; split <;> simp
@[simp] theorem giveBack_pkg (s : State) (f : Flight) (r : Option EId) : (s.giveBack f r).pkg = s.pkg := by unfold State.giveBack; split <;> simp

/-! ### deviceSend -/

@[simp] theorem deviceSend_time (s : State) (c : Nat) (src dst : EId) (q : Nat) (ws : List Word) (cr : Option EId) : (s.deviceSend c src dst q ws cr).time = s.time := by simp [State.deviceSend]
@[simp] theorem deviceSend_stepNo (s : State) (c : Nat) (src dst : EId) (q : Nat) (ws : List Word) (cr : Option EId) : (s.deviceSend c src dst q ws cr).stepNo = s.stepNo := by simp [State.deviceSend]
@[simp] theorem deviceSend_turns (s : State) (c : Nat) (src dst : EId) (q : Nat) (ws : List Word) (cr : Option EId) : (s.deviceSend c src dst q ws cr).turns = s.turns := by simp [State.deviceSend]
@[simp] theorem deviceSend_cur (s : State) (c : Nat) (src dst : EId) (q : Nat) (ws : List Word) (cr : Option EId) : (s.deviceSend c src dst q ws cr).cur = s.cur := by simp [State.deviceSend]
@[simp] theorem deviceSend_mem (s : State) (c : Nat) (src dst : EId) (q : Nat) (ws : List Word) (cr : Option EId) : (s.deviceSend c src dst q ws cr).mem = s.mem := by simp [State.deviceSend]
@[simp] theorem deviceSend_tags (s : State) (c : Nat) (src dst : EId) (q : Nat) (ws : List Word) (cr : Option EId) : (s.deviceSend c src dst q ws cr).tags = s.tags := by simp [State.deviceSend]
@[simp] theorem deviceSend_poison (s : State) (c : Nat) (src dst : EId) (q : Nat) (ws : List Word) (cr : Option EId) : (s.deviceSend c src dst q ws cr).poison = s.poison := by simp [State.deviceSend]
@[simp] theorem deviceSend_elems (s : State) (c : Nat) (src dst : EId) (q : Nat) (ws : List Word) (cr : Option EId) : (s.deviceSend c src dst q ws cr).elems = s.elems := by simp [State.deviceSend]
@[simp] theorem deviceSend_slots (s : State) (c : Nat) (src dst : EId) (q : Nat) (ws : List Word) (cr : Option EId) : (s.deviceSend c src dst q ws cr).slots = s.slots := by simp [State.deviceSend]
@[simp] theorem deviceSend_fronds (s : State) (c : Nat) (src dst : EId) (q : Nat) (ws : List Word) (cr : Option EId) : (s.deviceSend c src dst q ws cr).fronds = s.fronds := by simp [State.deviceSend]
@[simp] theorem deviceSend_streams (s : State) (c : Nat) (src dst : EId) (q : Nat) (ws : List Word) (cr : Option EId) : (s.deviceSend c src dst q ws cr).streams = s.streams := by simp [State.deviceSend]
@[simp] theorem deviceSend_hostErrors (s : State) (c : Nat) (src dst : EId) (q : Nat) (ws : List Word) (cr : Option EId) : (s.deviceSend c src dst q ws cr).hostErrors = s.hostErrors := by simp [State.deviceSend]
@[simp] theorem deviceSend_pkg (s : State) (c : Nat) (src dst : EId) (q : Nat) (ws : List Word) (cr : Option EId) : (s.deviceSend c src dst q ws cr).pkg = s.pkg := by simp [State.deviceSend]

/-! ### complete -/

@[simp] theorem complete_time (s : State) (c k : Nat) (tag : BitVec 32) (d1 d2 d3 : Word) (tl : List Word) : (s.complete c k tag d1 d2 d3 tl).time = s.time := by simp [State.complete]
@[simp] theorem complete_stepNo (s : State) (c k : Nat) (tag : BitVec 32) (d1 d2 d3 : Word) (tl : List Word) : (s.complete c k tag d1 d2 d3 tl).stepNo = s.stepNo := by simp [State.complete]
@[simp] theorem complete_nextId (s : State) (c k : Nat) (tag : BitVec 32) (d1 d2 d3 : Word) (tl : List Word) : (s.complete c k tag d1 d2 d3 tl).nextId = s.nextId := by simp [State.complete]
@[simp] theorem complete_turns (s : State) (c k : Nat) (tag : BitVec 32) (d1 d2 d3 : Word) (tl : List Word) : (s.complete c k tag d1 d2 d3 tl).turns = s.turns := by simp [State.complete]
@[simp] theorem complete_cur (s : State) (c k : Nat) (tag : BitVec 32) (d1 d2 d3 : Word) (tl : List Word) : (s.complete c k tag d1 d2 d3 tl).cur = s.cur := by simp [State.complete]
@[simp] theorem complete_mem (s : State) (c k : Nat) (tag : BitVec 32) (d1 d2 d3 : Word) (tl : List Word) : (s.complete c k tag d1 d2 d3 tl).mem = s.mem := by simp [State.complete]
@[simp] theorem complete_tags (s : State) (c k : Nat) (tag : BitVec 32) (d1 d2 d3 : Word) (tl : List Word) : (s.complete c k tag d1 d2 d3 tl).tags = s.tags := by simp [State.complete]
@[simp] theorem complete_poison (s : State) (c k : Nat) (tag : BitVec 32) (d1 d2 d3 : Word) (tl : List Word) : (s.complete c k tag d1 d2 d3 tl).poison = s.poison := by simp [State.complete]
@[simp] theorem complete_elems (s : State) (c k : Nat) (tag : BitVec 32) (d1 d2 d3 : Word) (tl : List Word) : (s.complete c k tag d1 d2 d3 tl).elems = s.elems := by simp [State.complete]
@[simp] theorem complete_slots (s : State) (c k : Nat) (tag : BitVec 32) (d1 d2 d3 : Word) (tl : List Word) : (s.complete c k tag d1 d2 d3 tl).slots = s.slots := by simp [State.complete]
@[simp] theorem complete_fabric (s : State) (c k : Nat) (tag : BitVec 32) (d1 d2 d3 : Word) (tl : List Word) : (s.complete c k tag d1 d2 d3 tl).fabric = s.fabric := by simp [State.complete]
@[simp] theorem complete_fronds (s : State) (c k : Nat) (tag : BitVec 32) (d1 d2 d3 : Word) (tl : List Word) : (s.complete c k tag d1 d2 d3 tl).fronds = s.fronds := by simp [State.complete]
@[simp] theorem complete_streams (s : State) (c k : Nat) (tag : BitVec 32) (d1 d2 d3 : Word) (tl : List Word) : (s.complete c k tag d1 d2 d3 tl).streams = s.streams := by simp [State.complete]
@[simp] theorem complete_hostErrors (s : State) (c k : Nat) (tag : BitVec 32) (d1 d2 d3 : Word) (tl : List Word) : (s.complete c k tag d1 d2 d3 tl).hostErrors = s.hostErrors := by simp [State.complete]
@[simp] theorem complete_pkg (s : State) (c k : Nat) (tag : BitVec 32) (d1 d2 d3 : Word) (tl : List Word) : (s.complete c k tag d1 d2 d3 tl).pkg = s.pkg := by simp [State.complete]

/-! ### escalate -/

@[simp] theorem escalate_time (s : State) (c : Nat) (ws : List Word) : (s.escalate c ws).time = s.time := by simp [State.escalate]
@[simp] theorem escalate_stepNo (s : State) (c : Nat) (ws : List Word) : (s.escalate c ws).stepNo = s.stepNo := by simp [State.escalate]
@[simp] theorem escalate_nextId (s : State) (c : Nat) (ws : List Word) : (s.escalate c ws).nextId = s.nextId := by simp [State.escalate]
@[simp] theorem escalate_turns (s : State) (c : Nat) (ws : List Word) : (s.escalate c ws).turns = s.turns := by simp [State.escalate]
@[simp] theorem escalate_cur (s : State) (c : Nat) (ws : List Word) : (s.escalate c ws).cur = s.cur := by simp [State.escalate]
@[simp] theorem escalate_mem (s : State) (c : Nat) (ws : List Word) : (s.escalate c ws).mem = s.mem := by simp [State.escalate]
@[simp] theorem escalate_tags (s : State) (c : Nat) (ws : List Word) : (s.escalate c ws).tags = s.tags := by simp [State.escalate]
@[simp] theorem escalate_poison (s : State) (c : Nat) (ws : List Word) : (s.escalate c ws).poison = s.poison := by simp [State.escalate]
@[simp] theorem escalate_elems (s : State) (c : Nat) (ws : List Word) : (s.escalate c ws).elems = s.elems := by simp [State.escalate]
@[simp] theorem escalate_slots (s : State) (c : Nat) (ws : List Word) : (s.escalate c ws).slots = s.slots := by simp [State.escalate]
@[simp] theorem escalate_fabric (s : State) (c : Nat) (ws : List Word) : (s.escalate c ws).fabric = s.fabric := by simp [State.escalate]
@[simp] theorem escalate_fronds (s : State) (c : Nat) (ws : List Word) : (s.escalate c ws).fronds = s.fronds := by simp [State.escalate]
@[simp] theorem escalate_streams (s : State) (c : Nat) (ws : List Word) : (s.escalate c ws).streams = s.streams := by simp [State.escalate]
@[simp] theorem escalate_hostErrors (s : State) (c : Nat) (ws : List Word) : (s.escalate c ws).hostErrors = s.hostErrors := by simp [State.escalate]
@[simp] theorem escalate_pkg (s : State) (c : Nat) (ws : List Word) : (s.escalate c ws).pkg = s.pkg := by simp [State.escalate]

/-! ### sendPacket -/

@[simp] theorem sendPacket_time (s : State) (c : Nat) (e : EId) (own : Bool) (ws : List Word) : (s.sendPacket c e own ws).time = s.time := by unfold State.sendPacket; repeat (first | split | simp)
@[simp] theorem sendPacket_stepNo (s : State) (c : Nat) (e : EId) (own : Bool) (ws : List Word) : (s.sendPacket c e own ws).stepNo = s.stepNo := by unfold State.sendPacket; repeat (first | split | simp)
@[simp] theorem sendPacket_turns (s : State) (c : Nat) (e : EId) (own : Bool) (ws : List Word) : (s.sendPacket c e own ws).turns = s.turns := by unfold State.sendPacket; repeat (first | split | simp)
@[simp] theorem sendPacket_cur (s : State) (c : Nat) (e : EId) (own : Bool) (ws : List Word) : (s.sendPacket c e own ws).cur = s.cur := by unfold State.sendPacket; repeat (first | split | simp)
@[simp] theorem sendPacket_mem (s : State) (c : Nat) (e : EId) (own : Bool) (ws : List Word) : (s.sendPacket c e own ws).mem = s.mem := by unfold State.sendPacket; repeat (first | split | simp)
@[simp] theorem sendPacket_tags (s : State) (c : Nat) (e : EId) (own : Bool) (ws : List Word) : (s.sendPacket c e own ws).tags = s.tags := by unfold State.sendPacket; repeat (first | split | simp)
@[simp] theorem sendPacket_poison (s : State) (c : Nat) (e : EId) (own : Bool) (ws : List Word) : (s.sendPacket c e own ws).poison = s.poison := by unfold State.sendPacket; repeat (first | split | simp)
@[simp] theorem sendPacket_elems (s : State) (c : Nat) (e : EId) (own : Bool) (ws : List Word) : (s.sendPacket c e own ws).elems = s.elems := by unfold State.sendPacket; repeat (first | split | simp)
@[simp] theorem sendPacket_slots (s : State) (c : Nat) (e : EId) (own : Bool) (ws : List Word) : (s.sendPacket c e own ws).slots = s.slots := by unfold State.sendPacket; repeat (first | split | simp)
@[simp] theorem sendPacket_fronds (s : State) (c : Nat) (e : EId) (own : Bool) (ws : List Word) : (s.sendPacket c e own ws).fronds = s.fronds := by unfold State.sendPacket; repeat (first | split | simp)
@[simp] theorem sendPacket_streams (s : State) (c : Nat) (e : EId) (own : Bool) (ws : List Word) : (s.sendPacket c e own ws).streams = s.streams := by unfold State.sendPacket; repeat (first | split | simp)
@[simp] theorem sendPacket_hostErrors (s : State) (c : Nat) (e : EId) (own : Bool) (ws : List Word) : (s.sendPacket c e own ws).hostErrors = s.hostErrors := by unfold State.sendPacket; repeat (first | split | simp)
@[simp] theorem sendPacket_pkg (s : State) (c : Nat) (e : EId) (own : Bool) (ws : List Word) : (s.sendPacket c e own ws).pkg = s.pkg := by unfold State.sendPacket; repeat (first | split | simp)

/-! ### collect -/

@[simp] theorem collect_time (s : State) (d c : Nat) (r : TraceRec) : (s.collect d c r).time = s.time := by dsimp only [State.collect]; split <;> rfl
@[simp] theorem collect_stepNo (s : State) (d c : Nat) (r : TraceRec) : (s.collect d c r).stepNo = s.stepNo := by dsimp only [State.collect]; split <;> rfl
@[simp] theorem collect_nextId (s : State) (d c : Nat) (r : TraceRec) : (s.collect d c r).nextId = s.nextId := by dsimp only [State.collect]; split <;> rfl
@[simp] theorem collect_turns (s : State) (d c : Nat) (r : TraceRec) : (s.collect d c r).turns = s.turns := by dsimp only [State.collect]; split <;> rfl
@[simp] theorem collect_cur (s : State) (d c : Nat) (r : TraceRec) : (s.collect d c r).cur = s.cur := by dsimp only [State.collect]; split <;> rfl
@[simp] theorem collect_mem (s : State) (d c : Nat) (r : TraceRec) : (s.collect d c r).mem = s.mem := by dsimp only [State.collect]; split <;> rfl
@[simp] theorem collect_tags (s : State) (d c : Nat) (r : TraceRec) : (s.collect d c r).tags = s.tags := by dsimp only [State.collect]; split <;> rfl
@[simp] theorem collect_poison (s : State) (d c : Nat) (r : TraceRec) : (s.collect d c r).poison = s.poison := by dsimp only [State.collect]; split <;> rfl
@[simp] theorem collect_elems (s : State) (d c : Nat) (r : TraceRec) : (s.collect d c r).elems = s.elems := by dsimp only [State.collect]; split <;> rfl
@[simp] theorem collect_slots (s : State) (d c : Nat) (r : TraceRec) : (s.collect d c r).slots = s.slots := by dsimp only [State.collect]; split <;> rfl
@[simp] theorem collect_ctxs (s : State) (d c : Nat) (r : TraceRec) : (s.collect d c r).ctxs = s.ctxs := by dsimp only [State.collect]; split <;> rfl
@[simp] theorem collect_fabric (s : State) (d c : Nat) (r : TraceRec) : (s.collect d c r).fabric = s.fabric := by dsimp only [State.collect]; split <;> rfl
@[simp] theorem collect_fronds (s : State) (d c : Nat) (r : TraceRec) : (s.collect d c r).fronds = s.fronds := by dsimp only [State.collect]; split <;> rfl
@[simp] theorem collect_streams (s : State) (d c : Nat) (r : TraceRec) : (s.collect d c r).streams = s.streams := by dsimp only [State.collect]; split <;> rfl
@[simp] theorem collect_hostErrors (s : State) (d c : Nat) (r : TraceRec) : (s.collect d c r).hostErrors = s.hostErrors := by dsimp only [State.collect]; split <;> rfl

/-! ### traceNote -/

@[simp] theorem traceNote_time (s : State) (e : EId) (k c : Nat) (A : Option Act) : (s.traceNote e k c A).time = s.time := by dsimp only [State.traceNote]; split <;> simp
@[simp] theorem traceNote_stepNo (s : State) (e : EId) (k c : Nat) (A : Option Act) : (s.traceNote e k c A).stepNo = s.stepNo := by dsimp only [State.traceNote]; split <;> simp
@[simp] theorem traceNote_nextId (s : State) (e : EId) (k c : Nat) (A : Option Act) : (s.traceNote e k c A).nextId = s.nextId := by dsimp only [State.traceNote]; split <;> simp
@[simp] theorem traceNote_turns (s : State) (e : EId) (k c : Nat) (A : Option Act) : (s.traceNote e k c A).turns = s.turns := by dsimp only [State.traceNote]; split <;> simp
@[simp] theorem traceNote_cur (s : State) (e : EId) (k c : Nat) (A : Option Act) : (s.traceNote e k c A).cur = s.cur := by dsimp only [State.traceNote]; split <;> simp
@[simp] theorem traceNote_mem (s : State) (e : EId) (k c : Nat) (A : Option Act) : (s.traceNote e k c A).mem = s.mem := by dsimp only [State.traceNote]; split <;> simp
@[simp] theorem traceNote_tags (s : State) (e : EId) (k c : Nat) (A : Option Act) : (s.traceNote e k c A).tags = s.tags := by dsimp only [State.traceNote]; split <;> simp
@[simp] theorem traceNote_poison (s : State) (e : EId) (k c : Nat) (A : Option Act) : (s.traceNote e k c A).poison = s.poison := by dsimp only [State.traceNote]; split <;> simp
@[simp] theorem traceNote_slots (s : State) (e : EId) (k c : Nat) (A : Option Act) : (s.traceNote e k c A).slots = s.slots := by dsimp only [State.traceNote]; split <;> simp
@[simp] theorem traceNote_ctxs (s : State) (e : EId) (k c : Nat) (A : Option Act) : (s.traceNote e k c A).ctxs = s.ctxs := by dsimp only [State.traceNote]; split <;> simp
@[simp] theorem traceNote_fabric (s : State) (e : EId) (k c : Nat) (A : Option Act) : (s.traceNote e k c A).fabric = s.fabric := by dsimp only [State.traceNote]; split <;> simp
@[simp] theorem traceNote_fronds (s : State) (e : EId) (k c : Nat) (A : Option Act) : (s.traceNote e k c A).fronds = s.fronds := by dsimp only [State.traceNote]; split <;> simp
@[simp] theorem traceNote_streams (s : State) (e : EId) (k c : Nat) (A : Option Act) : (s.traceNote e k c A).streams = s.streams := by dsimp only [State.traceNote]; split <;> simp
@[simp] theorem traceNote_hostErrors (s : State) (e : EId) (k c : Nat) (A : Option Act) : (s.traceNote e k c A).hostErrors = s.hostErrors := by dsimp only [State.traceNote]; split <;> simp

/-! ### noteXlate -/

@[simp] theorem noteXlate_time (s : State) (e : EId) (va : Nat) : (noteXlate s e va).time = s.time := by unfold noteXlate; repeat (first | rfl | split | simp)
@[simp] theorem noteXlate_stepNo (s : State) (e : EId) (va : Nat) : (noteXlate s e va).stepNo = s.stepNo := by unfold noteXlate; repeat (first | rfl | split | simp)
@[simp] theorem noteXlate_nextId (s : State) (e : EId) (va : Nat) : (noteXlate s e va).nextId = s.nextId := by unfold noteXlate; repeat (first | rfl | split | simp)
@[simp] theorem noteXlate_turns (s : State) (e : EId) (va : Nat) : (noteXlate s e va).turns = s.turns := by unfold noteXlate; repeat (first | rfl | split | simp)
@[simp] theorem noteXlate_cur (s : State) (e : EId) (va : Nat) : (noteXlate s e va).cur = s.cur := by unfold noteXlate; repeat (first | rfl | split | simp)
@[simp] theorem noteXlate_mem (s : State) (e : EId) (va : Nat) : (noteXlate s e va).mem = s.mem := by unfold noteXlate; repeat (first | rfl | split | simp)
@[simp] theorem noteXlate_tags (s : State) (e : EId) (va : Nat) : (noteXlate s e va).tags = s.tags := by unfold noteXlate; repeat (first | rfl | split | simp)
@[simp] theorem noteXlate_poison (s : State) (e : EId) (va : Nat) : (noteXlate s e va).poison = s.poison := by unfold noteXlate; repeat (first | rfl | split | simp)
@[simp] theorem noteXlate_slots (s : State) (e : EId) (va : Nat) : (noteXlate s e va).slots = s.slots := by unfold noteXlate; repeat (first | rfl | split | simp)
@[simp] theorem noteXlate_ctxs (s : State) (e : EId) (va : Nat) : (noteXlate s e va).ctxs = s.ctxs := by unfold noteXlate; repeat (first | rfl | split | simp)
@[simp] theorem noteXlate_fabric (s : State) (e : EId) (va : Nat) : (noteXlate s e va).fabric = s.fabric := by unfold noteXlate; repeat (first | rfl | split | simp)
@[simp] theorem noteXlate_fronds (s : State) (e : EId) (va : Nat) : (noteXlate s e va).fronds = s.fronds := by unfold noteXlate; repeat (first | rfl | split | simp)
@[simp] theorem noteXlate_streams (s : State) (e : EId) (va : Nat) : (noteXlate s e va).streams = s.streams := by unfold noteXlate; repeat (first | rfl | split | simp)
@[simp] theorem noteXlate_hostErrors (s : State) (e : EId) (va : Nat) : (noteXlate s e va).hostErrors = s.hostErrors := by unfold noteXlate; repeat (first | rfl | split | simp)
@[simp] theorem noteXlate_pkg (s : State) (e : EId) (va : Nat) : (noteXlate s e va).pkg = s.pkg := by unfold noteXlate; repeat (first | rfl | split | simp)

/-! ### Registers of an activation (R33, R93) -/

/-- A write to a register slot that can be written is read back. -/
theorem reg_setReg_same (A : Act) (r : Reg) (x : Word) (h : r.toNat < 40) : (A.setReg r x).reg r = x := by
  unfold Act.setReg
  by_cases h1 : r.toNat < 32
  · have hd : (A.dead &&& ~~~(1#32 <<< r.toNat)).getLsbD r.toNat = false := by
      simp [BitVec.getLsbD_and, BitVec.getLsbD_not, BitVec.getLsbD_shiftLeft, h1]
    simp only [h1, if_true, Act.reg, hd]
    exact vget_vset_same 0 A.w r.toNat x h1
  · simp only [h1, if_false, h, if_true, Act.reg]
    exact vget_vset_same 0 A.mb (r.toNat - 32) x (by omega)

/-- A write to a register slot leaves every other slot. -/
theorem reg_setReg_other (A : Act) (r r' : Reg) (x : Word) (h : r' ≠ r) : (A.setReg r x).reg r' = A.reg r' := by
  have hn : r'.toNat ≠ r.toNat := fun hc => h (BitVec.eq_of_toNat_eq hc)
  unfold Act.setReg
  by_cases h1 : r.toNat < 32
  · simp only [h1, if_true, Act.reg]
    by_cases h2 : r'.toNat < 32
    · have hd : (A.dead &&& ~~~(1#32 <<< r.toNat)).getLsbD r'.toNat = A.dead.getLsbD r'.toNat := by
        simp only [BitVec.getLsbD_and, BitVec.getLsbD_not, BitVec.getLsbD_shiftLeft]
        by_cases h3 : r'.toNat < r.toNat
        · simp [h2, h3]
        · have : (1#32).getLsbD (r'.toNat - r.toNat) = false := by
            have : r'.toNat - r.toNat ≠ 0 := by omega
            simp [BitVec.getLsbD_one, this]
          simp [h2, this]
      simp only [h2, if_true, hd, vget_vset_other 0 A.w r.toNat r'.toNat x hn]
    · simp [h2]
  · by_cases h2 : r.toNat < 40
    · simp only [h1, if_false, h2, if_true, Act.reg]
      by_cases h3 : r'.toNat < 32
      · simp [h3]
      · by_cases h4 : r'.toNat < 40
        · simp only [h3, if_false, h4, if_true]
          exact vget_vset_other 0 A.mb _ _ x (by omega)
        · simp [h3, h4]
    · simp [h1, h2]

/-- zr and the read-only slots discard a write (R33). -/
theorem setReg_discards (A : Act) (r : Reg) (x : Word) (h : 40 ≤ r.toNat) : A.setReg r x = A := by
  have h1 : ¬ r.toNat < 32 := by omega
  have h2 : ¬ r.toNat < 40 := by omega
  simp [Act.setReg, h1, h2]

@[simp] theorem setReg_chan (A : Act) (r : Reg) (x : Word) : (A.setReg r x).chan = A.chan := by
  unfold Act.setReg; repeat (first | rfl | split)
@[simp] theorem setReg_cont (A : Act) (r : Reg) (x : Word) : (A.setReg r x).cont = A.cont := by
  unfold Act.setReg; repeat (first | rfl | split)
@[simp] theorem setReg_frond (A : Act) (r : Reg) (x : Word) : (A.setReg r x).frond = A.frond := by
  unfold Act.setReg; repeat (first | rfl | split)
@[simp] theorem setReg_prio (A : Act) (r : Reg) (x : Word) : (A.setReg r x).prio = A.prio := by
  unfold Act.setReg; repeat (first | rfl | split)
@[simp] theorem setReg_floor (A : Act) (r : Reg) (x : Word) : (A.setReg r x).floor = A.floor := by
  unfold Act.setReg; repeat (first | rfl | split)
@[simp] theorem setReg_entry (A : Act) (r : Reg) (x : Word) : (A.setReg r x).entry = A.entry := by
  unfold Act.setReg; repeat (first | rfl | split)
@[simp] theorem setReg_pc (A : Act) (r : Reg) (x : Word) : (A.setReg r x).pc = A.pc := by
  unfold Act.setReg; repeat (first | rfl | split)
@[simp] theorem setReg_wp (A : Act) (r : Reg) (x : Word) : (A.setReg r x).wp = A.wp := by
  unfold Act.setReg; repeat (first | rfl | split)
@[simp] theorem setReg_inn (A : Act) (r : Reg) (x : Word) : (A.setReg r x).inn = A.inn := by
  unfold Act.setReg; repeat (first | rfl | split)
@[simp] theorem setReg_wdStart (A : Act) (r : Reg) (x : Word) : (A.setReg r x).wdStart = A.wdStart := by
  unfold Act.setReg; repeat (first | rfl | split)
@[simp] theorem setReg_wdHeld (A : Act) (r : Reg) (x : Word) : (A.setReg r x).wdHeld = A.wdHeld := by
  unfold Act.setReg; repeat (first | rfl | split)
@[simp] theorem setReg_digest (A : Act) (r : Reg) (x : Word) : (A.setReg r x).digest = A.digest := by
  unfold Act.setReg; repeat (first | rfl | split)
@[simp] theorem setReg_msg (A : Act) (r : Reg) (x : Word) : (A.setReg r x).msg = A.msg := by
  unfold Act.setReg; repeat (first | rfl | split)
@[simp] theorem adv_chan (A : Act) (n : Nat) : (A.adv n).chan = A.chan := rfl
@[simp] theorem adv_cont (A : Act) (n : Nat) : (A.adv n).cont = A.cont := rfl
@[simp] theorem adv_frond (A : Act) (n : Nat) : (A.adv n).frond = A.frond := rfl
@[simp] theorem adv_prio (A : Act) (n : Nat) : (A.adv n).prio = A.prio := rfl
@[simp] theorem adv_floor (A : Act) (n : Nat) : (A.adv n).floor = A.floor := rfl
@[simp] theorem adv_entry (A : Act) (n : Nat) : (A.adv n).entry = A.entry := rfl
@[simp] theorem adv_wp (A : Act) (n : Nat) : (A.adv n).wp = A.wp := rfl
@[simp] theorem adv_mb (A : Act) (n : Nat) : (A.adv n).mb = A.mb := rfl
@[simp] theorem adv_inn (A : Act) (n : Nat) : (A.adv n).inn = A.inn := rfl
@[simp] theorem adv_wdStart (A : Act) (n : Nat) : (A.adv n).wdStart = A.wdStart := rfl
@[simp] theorem adv_wdHeld (A : Act) (n : Nat) : (A.adv n).wdHeld = A.wdHeld := rfl
@[simp] theorem adv_digest (A : Act) (n : Nat) : (A.adv n).digest = A.digest := rfl
@[simp] theorem adv_msg (A : Act) (n : Nat) : (A.adv n).msg = A.msg := rfl
@[simp] theorem adv_w (A : Act) (n : Nat) : (A.adv n).w = A.w := rfl
@[simp] theorem adv_dead (A : Act) (n : Nat) : (A.adv n).dead = A.dead := rfl
@[simp] theorem adv_pc (A : Act) (n : Nat) : (A.adv n).pc = A.pc + BitVec.ofNat 64 n := rfl
@[simp] theorem reg_adv (A : Act) (n : Nat) (r : Reg) : (A.adv n).reg r = A.reg r := rfl

/-! ### The executing element -/

@[simp] theorem act_setAct (s : State) (A : Act) : (s.setAct A).act = some A := by simp [State.act, State.setAct]

theorem elem_setAct (s : State) (A : Act) (e : EId) :
    (s.setAct A).elem e = if e = s.cur then { s.elem e with act := some A } else s.elem e := by
  unfold State.setAct; rw [elem_updElem]; split <;> simp_all

theorem elem_setAct_other (s : State) (A : Act) (e : EId) (h : e ≠ s.cur) : (s.setAct A).elem e = s.elem e := by
  simp [elem_setAct, h]

@[simp] theorem elem_setAct_mode (s : State) (A : Act) (e : EId) : ((s.setAct A).elem e).mode = (s.elem e).mode := by
  rw [elem_setAct]; split <;> rfl
@[simp] theorem elem_setAct_haltReq (s : State) (A : Act) (e : EId) : ((s.setAct A).elem e).haltReq = (s.elem e).haltReq := by
  rw [elem_setAct]; split <;> rfl
@[simp] theorem elem_setAct_stepReq (s : State) (A : Act) (e : EId) : ((s.setAct A).elem e).stepReq = (s.elem e).stepReq := by
  rw [elem_setAct]; split <;> rfl
@[simp] theorem elem_setAct_stalled (s : State) (A : Act) (e : EId) : ((s.setAct A).elem e).stalled = (s.elem e).stalled := by
  rw [elem_setAct]; split <;> rfl
@[simp] theorem elem_setAct_v (s : State) (A : Act) (e : EId) : ((s.setAct A).elem e).v = (s.elem e).v := by
  rw [elem_setAct]; split <;> rfl
@[simp] theorem elem_setAct_k (s : State) (A : Act) (e : EId) : ((s.setAct A).elem e).k = (s.elem e).k := by
  rw [elem_setAct]; split <;> rfl
@[simp] theorem elem_setAct_regions (s : State) (A : Act) (e : EId) : ((s.setAct A).elem e).regions = (s.elem e).regions := by
  rw [elem_setAct]; split <;> rfl
@[simp] theorem elem_setAct_pregions (s : State) (A : Act) (e : EId) : ((s.setAct A).elem e).pregions = (s.elem e).pregions := by
  rw [elem_setAct]; split <;> rfl
@[simp] theorem elem_setAct_wcfg (s : State) (A : Act) (e : EId) : ((s.setAct A).elem e).wcfg = (s.elem e).wcfg := by
  rw [elem_setAct]; split <;> rfl
@[simp] theorem elem_setAct_wdlim (s : State) (A : Act) (e : EId) : ((s.setAct A).elem e).wdlim = (s.elem e).wdlim := by
  rw [elem_setAct]; split <;> rfl
@[simp] theorem elem_setAct_avail (s : State) (A : Act) (e : EId) : ((s.setAct A).elem e).avail = (s.elem e).avail := by
  rw [elem_setAct]; split <;> rfl
@[simp] theorem elem_setAct_nq (s : State) (A : Act) (e : EId) : ((s.setAct A).elem e).nq = (s.elem e).nq := by
  rw [elem_setAct]; split <;> rfl
@[simp] theorem elem_setAct_nen (s : State) (A : Act) (e : EId) : ((s.setAct A).elem e).nen = (s.elem e).nen := by
  rw [elem_setAct]; split <;> rfl
@[simp] theorem elem_setAct_ovf (s : State) (A : Act) (e : EId) : ((s.setAct A).elem e).ovf = (s.elem e).ovf := by
  rw [elem_setAct]; split <;> rfl
@[simp] theorem elem_setAct_undel (s : State) (A : Act) (e : EId) : ((s.setAct A).elem e).undel = (s.elem e).undel := by
  rw [elem_setAct]; split <;> rfl
@[simp] theorem elem_setAct_allowArm (s : State) (A : Act) (e : EId) : ((s.setAct A).elem e).allowArm = (s.elem e).allowArm := by
  rw [elem_setAct]; split <;> rfl
@[simp] theorem elem_setAct_notices (s : State) (A : Act) (e : EId) : ((s.setAct A).elem e).notices = (s.elem e).notices := by
  rw [elem_setAct]; split <;> rfl
@[simp] theorem elem_setAct_chans (s : State) (A : Act) (e : EId) : ((s.setAct A).elem e).chans = (s.elem e).chans := by
  rw [elem_setAct]; split <;> rfl
@[simp] theorem elem_setAct_lastStart (s : State) (A : Act) (e : EId) : ((s.setAct A).elem e).lastStart = (s.elem e).lastStart := by
  rw [elem_setAct]; split <;> rfl
@[simp] theorem elem_setAct_bins (s : State) (A : Act) (e : EId) : ((s.setAct A).elem e).bins = (s.elem e).bins := by
  rw [elem_setAct]; split <;> rfl
@[simp] theorem elem_setAct_combo (s : State) (A : Act) (e : EId) : ((s.setAct A).elem e).combo = (s.elem e).combo := by
  rw [elem_setAct]; split <;> rfl
@[simp] theorem elem_setAct_lastD (s : State) (A : Act) (e : EId) : ((s.setAct A).elem e).lastD = (s.elem e).lastD := by
  rw [elem_setAct]; split <;> rfl
@[simp] theorem elem_setAct_pseq (s : State) (A : Act) (e : EId) : ((s.setAct A).elem e).pseq = (s.elem e).pseq := by
  rw [elem_setAct]; split <;> rfl
@[simp] theorem elem_setAct_lastFault (s : State) (A : Act) (e : EId) : ((s.setAct A).elem e).lastFault = (s.elem e).lastFault := by
  rw [elem_setAct]; split <;> rfl
@[simp] theorem elem_setAct_evc (s : State) (A : Act) (e : EId) : ((s.setAct A).elem e).evc = (s.elem e).evc := by
  rw [elem_setAct]; split <;> rfl
@[simp] theorem elem_setAct_banks (s : State) (A : Act) (e : EId) : ((s.setAct A).elem e).banks = (s.elem e).banks := by
  rw [elem_setAct]; split <;> rfl
@[simp] theorem elem_setAct_tlb (s : State) (A : Act) (e : EId) : ((s.setAct A).elem e).tlb = (s.elem e).tlb := by
  rw [elem_setAct]; split <;> rfl
@[simp] theorem elem_setAct_fences (s : State) (A : Act) (e : EId) : ((s.setAct A).elem e).fences = (s.elem e).fences := by
  rw [elem_setAct]; split <;> rfl
@[simp] theorem elem_setAct_transfer (s : State) (A : Act) (e : EId) : ((s.setAct A).elem e).transfer = (s.elem e).transfer := by
  rw [elem_setAct]; split <;> rfl
@[simp] theorem elem_setAct_issued (s : State) (A : Act) (e : EId) : ((s.setAct A).elem e).issued = (s.elem e).issued := by
  rw [elem_setAct]; split <;> rfl
@[simp] theorem elem_setAct_hostTimeout (s : State) (A : Act) (e : EId) : ((s.setAct A).elem e).hostTimeout = (s.elem e).hostTimeout := by
  rw [elem_setAct]; split <;> rfl
@[simp] theorem elem_setAct_traced (s : State) (A : Act) (e : EId) : ((s.setAct A).elem e).traced = (s.elem e).traced := by
  rw [elem_setAct]; split <;> rfl
@[simp] theorem elem_setAct_tiles (s : State) (A : Act) (e : EId) : ((s.setAct A).elem e).tiles = (s.elem e).tiles := by
  rw [elem_setAct]; split <;> rfl
@[simp] theorem elem_setAct_mq (s : State) (A : Act) (e : EId) : ((s.setAct A).elem e).mq = (s.elem e).mq := by
  rw [elem_setAct]; split <;> rfl
@[simp] theorem elem_setAct_mseq (s : State) (A : Act) (e : EId) : ((s.setAct A).elem e).mseq = (s.elem e).mseq := by
  rw [elem_setAct]; split <;> rfl
@[simp] theorem elem_setAct_gang (s : State) (A : Act) (e : EId) : ((s.setAct A).elem e).gang = (s.elem e).gang := by
  rw [elem_setAct]; split <;> rfl
@[simp] theorem elem_setAct_holdArm (s : State) (A : Act) (e : EId) : ((s.setAct A).elem e).holdArm = (s.elem e).holdArm := by
  rw [elem_setAct]; split <;> rfl
@[simp] theorem elem_setAct_merrLog (s : State) (A : Act) (e : EId) : ((s.setAct A).elem e).merrLog = (s.elem e).merrLog := by
  rw [elem_setAct]; split <;> rfl
@[simp] theorem elem_setAct_lost (s : State) (A : Act) (e : EId) : ((s.setAct A).elem e).lost = (s.elem e).lost := by
  rw [elem_setAct]; split <;> rfl
@[simp] theorem elem_setAct_merr (s : State) (A : Act) (e : EId) : ((s.setAct A).elem e).merr = (s.elem e).merr := by
  rw [elem_setAct]; split <;> rfl
@[simp] theorem elem_setAct_weight (s : State) (A : Act) (e : EId) : ((s.setAct A).elem e).weight = (s.elem e).weight := by
  rw [elem_setAct]; split <;> rfl

end Sys2Proof.Machine
end

