-- ==== Sys2Proof/Laws/Memory.lean ====
section
/-!
SUPPORT. The laws of memory: the canonical form is kept, a read after a write, and consecutive bytes (R3, R4).
-/
namespace Sys2Proof.Machine

/-! ### The canonical form -/

theorem memWfFrom_mono {m : Memory} {lo lo' : Nat} (h : memWfFrom lo m = true) (hl : lo' ≤ lo) : memWfFrom lo' m = true := by
  cases m with
  | nil => rfl
  | cons p m =>
    obtain ⟨k, b⟩ := p
    simp only [memWfFrom, Bool.and_eq_true, decide_eq_true_eq] at h ⊢
    exact ⟨⟨Nat.le_trans hl h.1.1, h.1.2⟩, h.2⟩

theorem memSet_wfFrom {m : Memory} {lo : Nat} (k : Nat) (b : Byte) (hk : lo ≤ k) (h : memWfFrom lo m = true) :
    memWfFrom lo (memSet m k b) = true := by
  induction m generalizing lo with
  | nil =>
    by_cases hb : b = 0
    · simp [memSet, hb, memWfFrom]
    · simp only [memSet, hb, if_false, memWfFrom, Bool.and_eq_true, decide_eq_true_eq]
      exact ⟨⟨hk, hb⟩, trivial⟩
  | cons p m ih =>
    obtain ⟨k', b'⟩ := p
    have h' := h
    simp only [memWfFrom, Bool.and_eq_true, decide_eq_true_eq] at h
    obtain ⟨⟨h1, h2⟩, h3⟩ := h
    simp only [memSet]
    by_cases c1 : k < k'
    · by_cases hb : b = 0
      · simpa only [c1, hb, if_true] using h'
      · simp only [c1, hb, if_true, if_false, memWfFrom, Bool.and_eq_true, decide_eq_true_eq]
        exact ⟨⟨hk, hb⟩, ⟨c1, h2⟩, h3⟩
    · by_cases c2 : k = k'
      · by_cases hb : b = 0
        · simpa only [c2, Nat.lt_irrefl, hb, if_true, if_false] using memWfFrom_mono h3 (by omega)
        · subst c2
          simp only [Nat.lt_irrefl, hb, if_true, if_false, memWfFrom, Bool.and_eq_true, decide_eq_true_eq]
          exact ⟨⟨hk, hb⟩, h3⟩
      · simp only [c1, c2, if_false, memWfFrom, Bool.and_eq_true, decide_eq_true_eq]
        exact ⟨⟨h1, h2⟩, ih (by omega) h3⟩

/-- Writing a byte keeps the canonical form. -/
theorem memSet_wf {m : Memory} (k : Nat) (b : Byte) (h : m.wf = true) : (memSet m k b).wf = true :=
  memSet_wfFrom k b (Nat.zero_le _) h

/-- Writing consecutive bytes keeps the canonical form. -/
theorem memWrite_wf {m : Memory} (k : Nat) (bs : List Byte) (h : m.wf = true) : (memWrite m k bs).wf = true := by
  induction bs generalizing m k with
  | nil => exact h
  | cons b bs ih => exact ih (k + 1) (memSet_wf k b h)

theorem filter_wfFrom {m : Memory} {lo : Nat} (p : Host.Cell → Bool) (h : memWfFrom lo m = true) :
    memWfFrom lo (m.filter p) = true := by
  induction m generalizing lo with
  | nil => rfl
  | cons c m ih =>
    obtain ⟨k, b⟩ := c
    simp only [memWfFrom, Bool.and_eq_true, decide_eq_true_eq] at h
    obtain ⟨⟨h1, h2⟩, h3⟩ := h
    by_cases hp : p (k, b) = true
    · simp only [List.filter, hp, memWfFrom, Bool.and_eq_true, decide_eq_true_eq]
      exact ⟨⟨h1, h2⟩, ih h3⟩
    · simp only [List.filter, Bool.not_eq_true] at hp ⊢
      simp only [hp]
      exact ih (memWfFrom_mono h3 (by omega))

/-- Forgetting bytes (they read zero again) keeps the canonical form. -/
theorem filter_wf {m : Memory} (p : Host.Cell → Bool) (h : m.wf = true) : Memory.wf (m.filter p) = true := filter_wfFrom p h

/-! ### Reading and writing -/

theorem memGet_below {m : Memory} {lo k : Nat} (h : memWfFrom lo m = true) (hk : k < lo) : memGet m k = 0 := by
  induction m generalizing lo with
  | nil => rfl
  | cons p m ih =>
    obtain ⟨k', b⟩ := p
    simp only [memWfFrom, Bool.and_eq_true, decide_eq_true_eq] at h
    have hne : k ≠ k' := by omega
    simp only [memGet, hne, if_false]
    exact ih h.2 (by omega)

theorem memGet_memSet_from {m : Memory} {lo : Nat} (k k' : Nat) (b : Byte) (h : memWfFrom lo m = true) :
    memGet (memSet m k b) k' = if k' = k then b else memGet m k' := by
  induction m generalizing lo with
  | nil =>
    by_cases hb : b = 0
    · simp [memSet, memGet, hb]
    · simp only [memSet, hb, if_false, memGet]
  | cons p m ih =>
    obtain ⟨a, x⟩ := p
    have h' := h
    simp only [memWfFrom, Bool.and_eq_true, decide_eq_true_eq] at h
    obtain ⟨_, h3⟩ := h
    simp only [memSet]
    by_cases c1 : k < a
    · by_cases hb : b = 0
      · simp only [c1, hb, if_true]
        by_cases hk : k' = k
        · subst hk
          have hne : k' ≠ a := by omega
          simp only [if_true, memGet, hne, if_false]
          exact memGet_below h3 (by omega)
        · simp [hk]
      · simp only [c1, hb, if_true, if_false, memGet]
    · by_cases c2 : k = a
      · subst c2
        by_cases hb : b = 0
        · simp only [Nat.lt_irrefl, hb, if_true, if_false, memGet]
          by_cases hk : k' = k
          · subst hk; simpa using memGet_below h3 (by omega)
          · simp [hk]
        · simp only [Nat.lt_irrefl, hb, if_true, if_false, memGet]
          by_cases hk : k' = k <;> simp [hk]
      · simp only [c1, c2, if_false, memGet, ih h3]
        by_cases hk : k' = a
        · subst hk; simp [Ne.symm c2]
        · simp [hk]

/-- A byte read after a write of one byte. -/
theorem memGet_memSet {m : Memory} (k k' : Nat) (b : Byte) (h : m.wf = true) :
    memGet (memSet m k b) k' = if k' = k then b else memGet m k' := memGet_memSet_from k k' b h

/-- A write of consecutive bytes leaves every byte outside them. -/
theorem memGet_memWrite_other {m : Memory} (k k' : Nat) (bs : List Byte) (h : m.wf = true)
    (ho : k' < k ∨ k + bs.length ≤ k') : memGet (memWrite m k bs) k' = memGet m k' := by
  induction bs generalizing m k with
  | nil => rfl
  | cons b bs ih =>
    simp only [List.length_cons] at ho
    rw [memWrite, ih (k + 1) (memSet_wf k b h) (by omega), memGet_memSet k k' b h]
    have : k' ≠ k := by omega
    simp [this]

/-- A write of consecutive bytes is read back. -/
theorem memGet_memWrite_in {m : Memory} (k i : Nat) (bs : List Byte) (h : m.wf = true) (hi : i < bs.length) :
    memGet (memWrite m k bs) (k + i) = bs.getD i 0 := by
  induction bs generalizing m k i with
  | nil => simp at hi
  | cons b bs ih =>
    cases i with
    | zero =>
      rw [memWrite, memGet_memWrite_other (k + 1) (k + 0) bs (memSet_wf k b h) (by omega), memGet_memSet k (k + 0) b h]
      simp
    | succ i =>
      simp only [List.length_cons] at hi
      rw [memWrite]
      have := ih (k + 1) i (memSet_wf k b h) (by omega)
      rw [show k + (i + 1) = k + 1 + i by omega, this]
      simp

@[simp] theorem memRead_length (m : Memory) (k n : Nat) : (memRead m k n).length = n := by
  induction n generalizing k with
  | zero => rfl
  | succ n ih => simp [memRead, ih]

@[simp] theorem leBytes_length (n v : Nat) : (leBytes n v).length = n := by
  induction n generalizing v with
  | zero => rfl
  | succ n ih => simp [leBytes, ih]

/-- The value of the n low bytes of a number (R4). -/
theorem leNat_leBytes (n v : Nat) : leNat (leBytes n v) = v % 256 ^ n := by
  induction n generalizing v with
  | zero => simp [leBytes, leNat, Nat.mod_one]
  | succ n ih =>
    simp only [leBytes, leNat, ih, BitVec.toNat_ofNat]
    have e : 256 ^ (n + 1) = 256 * 256 ^ n := Nat.pow_succ'
    rw [e, Nat.mod_mul]

/-- A doubleword stored and read back is the doubleword (R4). -/
theorem leWord_wordBytes (x : Word) : leWord (wordBytes x) = x := by
  apply BitVec.eq_of_toNat_eq
  have h : x.toNat % 256 ^ 8 = x.toNat := Nat.mod_eq_of_lt (by have := x.isLt; omega)
  simp [leWord, wordBytes, leNat_leBytes, h]
  all_goals exact x.isLt

theorem memRead_memWrite_same {m : Memory} (k : Nat) (bs : List Byte) (h : m.wf = true) :
    memRead (memWrite m k bs) k bs.length = bs := by
  have key : ∀ (m : Memory) (k n : Nat) (l : List Byte), l.length = n → (∀ i, i < n → memGet m (k + i) = l.getD i 0) → memRead m k n = l := by
    intro m k n
    induction n generalizing k with
    | zero => intro l hl _; simpa [memRead] using (List.length_eq_zero_iff.mp hl).symm
    | succ n ih =>
      intro l hl hg
      cases l with
      | nil => simp at hl
      | cons b l =>
        have h0 := hg 0 (by omega)
        simp only [Nat.add_zero, List.getD_cons_zero] at h0
        simp only [memRead, h0]
        congr 1
        exact ih (k + 1) l (by simpa using hl) (fun i hi => by
          have := hg (i + 1) (by omega)
          rw [show k + 1 + i = k + (i + 1) by omega, this]
          simp)
  exact key _ k _ bs rfl (fun i hi => memGet_memWrite_in k i bs h hi)

end Sys2Proof.Machine
end

