-- ==== Sys2Proof/Laws/Ops.lean ====
section
/-!
SUPPORT. What the shared operations can do: running in an activation, finishing, retiring, stalling, taking a fault
(R7, R366–R369), starting a piece of traffic, and what a tag instruction and an abandoned activation leave.
-/
namespace Sys2Proof.Machine

/-! ### Running a meaning -/

theorem withAct_of {s : State} {A : Act} (k : Act → Host.Outcome State Fault Refusal) (h : s.act = some A) : withAct s k = k A := by
  simp [withAct, h]

/-- A meaning that needs an activation answers a next state only within one. -/
theorem withAct_next {s t : State} {k : Act → Host.Outcome State Fault Refusal} (h : withAct s k = .next t) :
    ∃ A, s.act = some A ∧ k A = .next t := by
  unfold withAct at h
  cases hA : s.act with
  | none => rw [hA] at h; cases h
  | some A => rw [hA] at h; exact ⟨A, rfl, h⟩

@[simp] theorem finish_none (s : State) : finish (s, none) = .next s := rfl
@[simp] theorem finish_some (s : State) (f : Flt) : finish (s, some f) = .next (s.takeFault s.cur f) := rfl
@[simp] theorem faultNow_eq (s : State) (c : Nat) (a x : Word) :
    faultNow s c a x = .next (s.takeFault s.cur { code := c, faddr := a, extra := x }) := rfl

/-- Finishing always answers a next state. -/
theorem finish_next (r : Res) : ∃ t, finish r = .next t := by
  unfold finish; cases r.2 <;> exact ⟨_, rfl⟩

theorem foldl_keeps {α β γ : Type} (g : β → γ) (f : β → α → β) (h : ∀ b a, g (f b a) = g b) (l : List α) (b : β) :
    g (l.foldl f b) = g b := by
  induction l generalizing b with
  | nil => rfl
  | cons a l ih => simp [ih, h]

/-- A property that every step of a fold keeps holds after the fold. -/
theorem foldl_inv {α β : Type} (P : β → Prop) (f : β → α → β) (h : ∀ b a, P b → P (f b a)) (l : List α) (b : β) (hb : P b) :
    P (l.foldl f b) := by
  induction l generalizing b with
  | nil => exact hb
  | cons a l ih => exact ih _ (h b a hb)

/-! ### Taking a fault -/

@[simp] theorem abandonShares_time (s : State) (e : EId) : (s.abandonShares e).time = s.time := by
  unfold State.abandonShares
  split
  · rfl
  · exact foldl_keeps (fun s : State => s.time) _ (fun b a => by dsimp only; split <;> simp) _ _
@[simp] theorem abandonShares_stepNo (s : State) (e : EId) : (s.abandonShares e).stepNo = s.stepNo := by
  unfold State.abandonShares
  split
  · rfl
  · exact foldl_keeps (fun s : State => s.stepNo) _ (fun b a => by dsimp only; split <;> simp) _ _
@[simp] theorem abandonShares_nextId (s : State) (e : EId) : (s.abandonShares e).nextId = s.nextId := by
  unfold State.abandonShares
  split
  · rfl
  · exact foldl_keeps (fun s : State => s.nextId) _ (fun b a => by dsimp only; split <;> simp) _ _
@[simp] theorem abandonShares_turns (s : State) (e : EId) : (s.abandonShares e).turns = s.turns := by
  unfold State.abandonShares
  split
  · rfl
  · exact foldl_keeps (fun s : State => s.turns) _ (fun b a => by dsimp only; split <;> simp) _ _
@[simp] theorem abandonShares_cur (s : State) (e : EId) : (s.abandonShares e).cur = s.cur := by
  unfold State.abandonShares
  split
  · rfl
  · exact foldl_keeps (fun s : State => s.cur) _ (fun b a => by dsimp only; split <;> simp) _ _
@[simp] theorem abandonShares_mem (s : State) (e : EId) : (s.abandonShares e).mem = s.mem := by
  unfold State.abandonShares
  split
  · rfl
  · exact foldl_keeps (fun s : State => s.mem) _ (fun b a => by dsimp only; split <;> simp) _ _
@[simp] theorem abandonShares_tags (s : State) (e : EId) : (s.abandonShares e).tags = s.tags := by
  unfold State.abandonShares
  split
  · rfl
  · exact foldl_keeps (fun s : State => s.tags) _ (fun b a => by dsimp only; split <;> simp) _ _
@[simp] theorem abandonShares_poison (s : State) (e : EId) : (s.abandonShares e).poison = s.poison := by
  unfold State.abandonShares
  split
  · rfl
  · exact foldl_keeps (fun s : State => s.poison) _ (fun b a => by dsimp only; split <;> simp) _ _
@[simp] theorem abandonShares_slots (s : State) (e : EId) : (s.abandonShares e).slots = s.slots := by
  unfold State.abandonShares
  split
  · rfl
  · exact foldl_keeps (fun s : State => s.slots) _ (fun b a => by dsimp only; split <;> simp) _ _
@[simp] theorem abandonShares_ctxs (s : State) (e : EId) : (s.abandonShares e).ctxs = s.ctxs := by
  unfold State.abandonShares
  split
  · rfl
  · exact foldl_keeps (fun s : State => s.ctxs) _ (fun b a => by dsimp only; split <;> simp) _ _
@[simp] theorem abandonShares_fabric (s : State) (e : EId) : (s.abandonShares e).fabric = s.fabric := by
  unfold State.abandonShares
  split
  · rfl
  · exact foldl_keeps (fun s : State => s.fabric) _ (fun b a => by dsimp only; split <;> simp) _ _
@[simp] theorem abandonShares_fronds (s : State) (e : EId) : (s.abandonShares e).fronds = s.fronds := by
  unfold State.abandonShares
  split
  · rfl
  · exact foldl_keeps (fun s : State => s.fronds) _ (fun b a => by dsimp only; split <;> simp) _ _
@[simp] theorem abandonShares_streams (s : State) (e : EId) : (s.abandonShares e).streams = s.streams := by
  unfold State.abandonShares
  split
  · rfl
  · exact foldl_keeps (fun s : State => s.streams) _ (fun b a => by dsimp only; split <;> simp) _ _
@[simp] theorem abandonShares_hostErrors (s : State) (e : EId) : (s.abandonShares e).hostErrors = s.hostErrors := by
  unfold State.abandonShares
  split
  · rfl
  · exact foldl_keeps (fun s : State => s.hostErrors) _ (fun b a => by dsimp only; split <;> simp) _ _
@[simp] theorem abandonShares_pkg (s : State) (e : EId) : (s.abandonShares e).pkg = s.pkg := by
  unfold State.abandonShares
  split
  · rfl
  · exact foldl_keeps (fun s : State => s.pkg) _ (fun b a => by dsimp only; split <;> simp) _ _

/-- Only matrix queues change where a ganged share is abandoned (R274). -/
theorem elem_abandonShares (s : State) (e x : EId) : ∃ q, (s.abandonShares e).elem x = { s.elem x with mq := q } := by
  unfold State.abandonShares
  split
  · exact ⟨_, rfl⟩
  · refine foldl_inv (fun t : State => ∃ q, t.elem x = { s.elem x with mq := q }) _ ?_ _ _ ⟨_, rfl⟩
    rintro b a ⟨q, hq⟩
    dsimp only
    split
    · exact ⟨q, hq⟩
    · rw [elem_updElem]
      split
      · rename_i h; subst h; rw [hq]; exact ⟨_, rfl⟩
      · exact ⟨q, hq⟩


@[simp] theorem takeFault_time (s : State) (e : EId) (f : Flt) : (s.takeFault e f).time = s.time := by
  dsimp only [State.takeFault]; split <;> simp
@[simp] theorem takeFault_stepNo (s : State) (e : EId) (f : Flt) : (s.takeFault e f).stepNo = s.stepNo := by
  dsimp only [State.takeFault]; split <;> simp
@[simp] theorem takeFault_turns (s : State) (e : EId) (f : Flt) : (s.takeFault e f).turns = s.turns := by
  dsimp only [State.takeFault]; split <;> simp
@[simp] theorem takeFault_cur (s : State) (e : EId) (f : Flt) : (s.takeFault e f).cur = s.cur := by
  dsimp only [State.takeFault]; split <;> simp
@[simp] theorem takeFault_mem (s : State) (e : EId) (f : Flt) : (s.takeFault e f).mem = s.mem := by
  dsimp only [State.takeFault]; split <;> simp
@[simp] theorem takeFault_tags (s : State) (e : EId) (f : Flt) : (s.takeFault e f).tags = s.tags := by
  dsimp only [State.takeFault]; split <;> simp
@[simp] theorem takeFault_poison (s : State) (e : EId) (f : Flt) : (s.takeFault e f).poison = s.poison := by
  dsimp only [State.takeFault]; split <;> simp
@[simp] theorem takeFault_slots (s : State) (e : EId) (f : Flt) : (s.takeFault e f).slots = s.slots := by
  dsimp only [State.takeFault]; split <;> simp
@[simp] theorem takeFault_fronds (s : State) (e : EId) (f : Flt) : (s.takeFault e f).fronds = s.fronds := by
  dsimp only [State.takeFault]; split <;> simp
@[simp] theorem takeFault_streams (s : State) (e : EId) (f : Flt) : (s.takeFault e f).streams = s.streams := by
  dsimp only [State.takeFault]; split <;> simp
@[simp] theorem takeFault_hostErrors (s : State) (e : EId) (f : Flt) : (s.takeFault e f).hostErrors = s.hostErrors := by
  dsimp only [State.takeFault]; split <;> simp

theorem elem_traceNote (s : State) (e x : EId) (k c : Nat) (A : Option Act) :
    ∃ n m, (s.traceNote e k c A).elem x = { s.elem x with traced := n, tstate := m } := by
  dsimp only [State.traceNote]
  split
  · rw [elem_updElem]
    have hc : ∀ (d c : Nat) (r : TraceRec) (y : EId), (s.collect d c r).elem y = s.elem y := by
      intro d c r y; simp [State.elem]
    split
    · rename_i h; subst h; rw [hc]; exact ⟨_, _, rfl⟩
    · rw [hc]; exact ⟨_, _, rfl⟩
  · exact ⟨_, _, rfl⟩

@[simp] theorem elem_sendPacket (s : State) (c : Nat) (e x : EId) (own : Bool) (ws : List Word) :
    (s.sendPacket c e own ws).elem x = s.elem x := by simp [State.elem]

/-- TAKING A FAULT freezes the element at its PC with every register kept, and records the code (R7, R366, R370): of the
other elements, only matrix queues may change. -/
theorem takeFault_elem (s : State) (e x : EId) (f : Flt) (A : Act) (h : (s.elem e).act = some A) :
    ∃ q n m, (s.takeFault e f).elem x =
      if x = e then { s.elem e with
        mode := .frozen, stalled := false, stepReq := false, pseq := (s.elem e).pseq + 1, lastFault := BitVec.ofNat 8 f.code,
        hostTimeout := (s.elem e).hostTimeout && f.code != 0x1C, traced := n, tstate := m, mq := q }
      else { s.elem x with traced := n, tstate := m, mq := q } := by
  dsimp only [State.takeFault]
  rw [h]
  dsimp only
  obtain ⟨q, hq⟩ := elem_abandonShares ((((s.updElem e (fun E => { E with
      mode := .frozen, stalled := false, stepReq := false, pseq := (s.elem e).pseq + 1, lastFault := BitVec.ofNat 8 f.code
      hostTimeout := E.hostTimeout && f.code != 0x1C })).sendPacket ((s.ctxOf e).getD 0) e true
      ((s.packetOf e A f.code 0 f.faddr f.extra ((s.elem e).pseq + 1).toNat).words ((s.ctxOf e).getD 0) s.time)).traceNote e 3 f.code (some A))) e x
  obtain ⟨n, m, hn⟩ := elem_traceNote ((s.updElem e (fun E => { E with
      mode := .frozen, stalled := false, stepReq := false, pseq := (s.elem e).pseq + 1, lastFault := BitVec.ofNat 8 f.code
      hostTimeout := E.hostTimeout && f.code != 0x1C })).sendPacket ((s.ctxOf e).getD 0) e true
      ((s.packetOf e A f.code 0 f.faddr f.extra ((s.elem e).pseq + 1).toNat).words ((s.ctxOf e).getD 0) s.time)) e x 3 f.code (some A)
  refine ⟨q, n, m, ?_⟩
  rw [hq, hn, elem_sendPacket, elem_updElem]
  split <;> simp_all

/-! ### Memory through the checked accesses (R155, R158) -/

@[simp] theorem noteOlds_mem (s : State) (t : EId) (o n : Nat) : (s.noteOlds t o n).mem = s.mem := by
  dsimp only [State.noteOlds]; split <;> simp
@[simp] theorem noteOlds_cur (s : State) (t : EId) (o n : Nat) : (s.noteOlds t o n).cur = s.cur := by
  dsimp only [State.noteOlds]; split <;> simp
@[simp] theorem dropOlds_mem (s : State) (e : EId) (p n : Nat) : (s.dropOlds e p n).mem = s.mem := by
  unfold State.dropOlds; split <;> simp
@[simp] theorem dropOlds_cur (s : State) (e : EId) (p n : Nat) : (s.dropOlds e p n).cur = s.cur := by
  unfold State.dropOlds; split <;> simp

@[simp] theorem noteStore_mem (s : State) (w t : EId) (o n : Nat) : (s.noteStore w t o n).mem = s.mem := by
  unfold State.noteStore; repeat' split
  all_goals simp
@[simp] theorem noteStore_cur (s : State) (w t : EId) (o n : Nat) : (s.noteStore w t o n).cur = s.cur := by
  unfold State.noteStore; repeat' split
  all_goals simp

/-- A piece that reaches memory writes its bytes at its key. -/
@[simp] theorem putPiece_mem (s : State) (pl : Place) (key : Nat) (bs : List Byte) :
    (s.putPiece pl key bs).mem = memWrite s.mem key bs := by
  unfold State.putPiece
  split <;> simp

@[simp] theorem putPiece_cur (s : State) (pl : Place) (key : Nat) (bs : List Byte) : (s.putPiece pl key bs).cur = s.cur := by
  unfold State.putPiece
  split <;> simp

/-- A store piece leaves memory as it was, or writes its bytes at its key. -/
theorem write_mem (p : Piece) (s : State) (bs : List Byte) :
    (p.write s bs).mem = s.mem ∨ ∃ key, p.key = .ok key ∧ (p.write s bs).mem = memWrite s.mem key bs := by
  unfold Piece.write
  split
  · exact .inl rfl
  · split
    · exact .inl rfl
    · exact .inr ⟨_, ‹_›, by simp⟩

theorem write_wf {s : State} (p : Piece) (bs : List Byte) (h : s.mem.wf = true) : (p.write s bs).mem.wf = true := by
  rcases write_mem p s bs with e | ⟨k, _, e⟩
  · rw [e]; exact h
  · rw [e]; exact memWrite_wf _ _ h

/-- Performing store pieces keeps the canonical form of memory. -/
theorem writePieces_wf (s : State) (ps : List Piece) (bs : List Byte) (d : Nat) (h : s.mem.wf = true) :
    (writePieces s ps bs d).1.mem.wf = true := by
  induction ps generalizing s bs d with
  | nil => exact h
  | cons p ps ih =>
    simp only [writePieces]
    split
    · exact h
    · exact ih _ _ _ (write_wf p _ h)

@[simp] theorem noteOwnLine_mem (s : State) (w e : EId) (l p n : Nat) : (s.noteOwnLine w e l p n).mem = s.mem := by
  unfold State.noteOwnLine; simp
@[simp] theorem noteOwn_mem (s : State) (w e : EId) (p n : Nat) : (s.noteOwn w e p n).mem = s.mem :=
  foldl_keeps (fun s : State => s.mem) _ (fun b a => by simp) _ _

theorem writeOwn_wf (s : State) (e : EId) (p : Nat) (bs : List Byte) (h : s.mem.wf = true) : (s.writeOwn e p bs).mem.wf = true := by
  induction bs generalizing s p with
  | nil => exact h
  | cons b bs ih => exact ih _ _ (memSet_wf _ _ h)

/-- A write of the device into an own scratchpad keeps the canonical form of memory. -/
theorem deviceWrite_wf (s : State) (w e : EId) (p : Nat) (bs : List Byte) (h : s.mem.wf = true) :
    (s.deviceWrite w e p bs).mem.wf = true := writeOwn_wf _ e p bs (by simpa using h)

/-! ### Firing a continuation (R138, R193, R262, R356) -/

@[simp] theorem fireSlot_mem (s : State) (e : EId) (fr : Bool) (q : Nat) (ws : Words8) : (s.fireSlot e fr q ws).mem = s.mem := by
  simp [State.fireSlot]
@[simp] theorem fireSlot_fabric (s : State) (e : EId) (fr : Bool) (q : Nat) (ws : Words8) : (s.fireSlot e fr q ws).fabric = s.fabric := by
  simp [State.fireSlot]

/-- What a firing can do: it sets the slot at once or, for the set-aside channel of a held member, sends that member a message. -/
theorem fire_cases (s : State) (ctx : Nat) (src e : EId) (fr : Bool) (q : Nat) (ws : List Word) :
    (s.fire ctx src e fr q ws = s.fireSlot e fr q (words8 ws) ∧ (fr = true ∨ s.holdsFirings e = false)) ∨
    (fr = false ∧ s.holdsFirings e = true ∧ ∃ m : Msg, m.kind = .firing ∧ m.words = words8 ws ∧
      s.fire ctx src e fr q ws = s.inject ctx src (some e) (.msg (BitVec.ofNat 4 q) m { credit := none, notice := none, cmd := none })) := by
  unfold State.fire
  split
  · exact .inr ⟨by simp_all, by simp_all, _, rfl, rfl, rfl⟩
  · exact .inl ⟨rfl, by cases fr <;> simp_all⟩

@[simp] theorem fire_mem (s : State) (ctx : Nat) (src e : EId) (fr : Bool) (q : Nat) (ws : List Word) :
    (s.fire ctx src e fr q ws).mem = s.mem := by
  unfold State.fire; split <;> simp

@[simp] theorem notePieces_mem (s : State) (e : EId) (ps : List Piece) : (notePieces s e ps).mem = s.mem :=
  foldl_keeps (fun s : State => s.mem) _ (fun b a => by split <;> simp) _ _

@[simp] theorem notePieces_cur (s : State) (e : EId) (ps : List Piece) : (notePieces s e ps).cur = s.cur :=
  foldl_keeps (fun s : State => s.cur) _ (fun b a => by split <;> simp) _ _

@[simp] theorem noteStopped_mem (s : State) (e : EId) (d : Need) (a : Word) (n : Nat) (f : Flt) :
    (noteStopped s e d a n f).mem = s.mem := by
  unfold noteStopped
  split
  · split <;> simp
  · rfl

/-- A store through the checks keeps the canonical form of memory. -/
theorem storeBytes_wf (s : State) (A : Act) (d : Need) (a : Word) (bs : List Byte) (h : s.mem.wf = true) :
    (storeBytes s A d a bs).1.mem.wf = true := by
  unfold storeBytes
  split
  · simpa using h
  · rename_i ps _
    have hw := writePieces_wf s ps bs 0 h
    split <;> simp_all

/-! ### The end of an activation (R89) -/

/-- Write-back keeps the canonical form of memory. -/
theorem writeBack_wf (s : State) (A : Act) (key : Nat → Nat) (off size : Nat) (h : s.mem.wf = true) :
    (writeBack s A key off size).1.mem.wf = true := by
  unfold writeBack
  refine foldl_inv (fun acc : State × Word => acc.1.mem.wf = true) _ ?_ _ _ h
  intro acc i hacc
  dsimp only
  split
  · exact hacc
  · exact foldl_inv (fun m : Memory => m.wf = true) _ (fun m j hm => memSet_wf _ _ hm) _ _ hacc

/-! ### LTAG and STAG, and an activation that ends without write-back -/

/-- LTAG and STAG change no state before their effect but by the translation of an address of aperture 8. -/
theorem noteTag_cases (s : State) (a : Word) :
    noteTag s a = s ∨ ∃ va, resolve s s.cur (apsLoad s.cur) a = .ok (.dev va) ∧ noteTag s a = noteXlate s s.cur va := by
  unfold noteTag
  split
  · next va h => exact .inr ⟨va, h, rfl⟩
  · exact .inl rfl

/-- An activation that was abandoned at a fence has ended when its element is remapped: DGRD reads its digest (R89, R396). -/
theorem elem_restoreAct (s : State) (e : EId) (A : Act) (h : (s.elem e).act = some A) :
    ((s.restoreAct e).elem e).act = none ∧ ((s.restoreAct e).elem e).lastD = A.digest := by
  unfold State.restoreAct
  simp [h]

end Sys2Proof.Machine
end

