-- ==== Sys2Proof/Laws/Engines.lean ====
section
/-!
SUPPORT. What the queues of the engines can do: which report is delivered next (R368), how long the records of formerly withheld tokens
are (R324), which breakpoint items outlive a wave or a program (R388), what a FENCE mark orders (R192, R194),
the cells that a range names (R237, R238), the pages of an access (R291), the scope table at a launch (R187), whose scratchpad holds the bytes of a window (R370), and the marks
of errors that a barred cell write leaves (R419).
-/
namespace Sys2Proof.Machine

/-! ### Reports -/

/-- The report that is delivered: it can be, no earlier one is of its engine, and the others keep their order. -/
theorem deliverFirst_cases {s t : State} {ctx : Nat} {C : Ctx} {seen : List EId} {l left : List Report}
    (h : s.deliverFirst ctx C seen l = some (t, left)) :
    ∃ pre r post, l = pre ++ r :: post ∧ left = pre ++ post ∧ s.deliverReport ctx C r = some t ∧ r.engine ∉ seen ∧
      ∀ x ∈ pre, x.engine ≠ r.engine := by
  induction l generalizing seen left with
  | nil => cases h
  | cons r rs ih =>
    unfold State.deliverFirst at h
    split at h
    · rename_i u hu
      obtain ⟨rfl, rfl⟩ : u = t ∧ rs = left := by simpa using h
      split at hu
      · cases hu
      · rename_i hns
        exact ⟨[], r, rs, rfl, rfl, hu, by simpa using hns, by simp⟩
    · obtain ⟨⟨u, left'⟩, hx, he⟩ := Option.map_eq_some_iff.mp h
      obtain ⟨rfl, rfl⟩ : u = t ∧ r :: left' = left := by simpa using he
      obtain ⟨pre, r', post, rfl, rfl, hd, hs, hp⟩ := ih hx
      obtain ⟨hr, hs'⟩ : r'.engine ≠ r.engine ∧ r'.engine ∉ seen := by simpa using hs
      refine ⟨r :: pre, r', post, rfl, rfl, hd, hs', ?_⟩
      intro x hx
      rcases List.mem_cons.mp hx with rfl | hx
      · exact fun e => hr e.symm
      · exact hp x hx

/-! ### Records of a ring -/

theorem ringRec_length (kind flags : Nat) (body : List Nat) : (ringRec kind flags body).length = 4 + 4 * body.length := by
  unfold ringRec
  induction body with
  | nil => rfl
  | cons n ns ih => simp [List.flatMap_cons, leBytes] at ih ⊢; omega

/-- LENGTH of a TOKENS RELEASED record fits its 16 bits, however many tokens were withheld. -/
theorem releasedRecs_length {c : Nat} {l : List (BitVec 32)} {r : List Byte} (h : r ∈ releasedRecs c l) : r.length < 2 ^ 16 := by
  unfold releasedRecs at h
  obtain ⟨i, -, rfl⟩ := List.mem_map.mp h
  have hn : ((l.drop (maxTokens * i)).take maxTokens).length ≤ 16381 := List.length_take_le _ _
  simp only [tokensRec, ringRec_length, List.length_cons, List.length_map]
  omega

@[simp] theorem releasedRecs_nil (c : Nat) : releasedRecs c [] = [] := rfl
@[simp] theorem ringNeed_nil (size w : Nat) : ringNeed size w [] = 0 := rfl

/-! ### Breakpoint items -/

@[simp] theorem Sheet.resume_halted (S : Sheet) : S.resume.halted = none := rfl
theorem Sheet.mem_resume_passed {S : Sheet} {it : BreakItem} (h : it ∈ S.resume.passed) :
    it ∈ S.passed ∨ S.halted = some it ∧ it ≠ .ended := by
  simp only [Sheet.resume, List.mem_append, List.mem_filter, Option.mem_toList] at h
  rcases h with ⟨h, hn⟩ | h
  · exact .inr ⟨h, by simpa using hn⟩
  · exact .inl h

/-- After its program has ended, a sheet lets no node pass unmatched, also where a node of it had halted the sheet. -/
theorem Sheet.endItems_resume_passed {S : Sheet} {sort : BreakItem → Bool} {it : BreakItem}
    (h : it ∈ (S.endItems sort).resume.passed) : sort it = false := by
  rcases Sheet.mem_resume_passed h with h | ⟨h, hn⟩
  · simpa [Sheet.endItems] using (List.mem_filter.mp h).2
  · obtain ⟨x, -, hx⟩ := Option.map_eq_some_iff.mp h
    split at hx
    · exact absurd hx.symm hn
    · rename_i hs
      subst hx; simpa using hs

/-! ### Marks of FENCE -/

/-- A message to members of a mark follows what the mark names, whatever the scope entry has become. -/
theorem afterOf_mark {s : State} {src : EId} {dst : Option EId} {b : Body} {m : FenceMark} {k : Nat} (hm : m ∈ (s.elem src).fences)
    (ht : (Flight.mk s.nextId 0 src dst b []).toMember m.members m.all = true) (hk : k ∈ m.ids) : k ∈ s.afterOf src dst b := by
  unfold State.afterOf
  refine List.mem_append_right _ (List.mem_flatMap.mpr ⟨m, List.mem_filter.mpr ⟨hm, ht⟩, hk⟩)

/-! ### Range expansion and pages -/

theorem joinAll_some {f : Nat × Bool → Option (List (Nat × Bool))} {g : Nat × Bool → List (Nat × Bool)}
    (hf : ∀ p l, f p = some l → g p = l) : ∀ {ps l}, joinAll f ps = some l → ps.flatMap g = l
  | [], l, h => by simpa [joinAll] using h
  | p :: ps, l, h => by
    unfold joinAll at h
    split at h
    · rename_i a b ha hb
      simp only [Option.some.injEq] at h
      rw [List.flatMap_cons, hf p a ha, joinAll_some hf hb, h]
    · cases h

/-- Where an expansion succeeds, it names what R237 asks readiness of. -/
theorem Sheet.members_of_expand {S : Sheet} {d : Nat} {lag : Bool} {p : Nat × Bool} {l : List (Nat × Bool)}
    (h : S.expand d lag p = some l) : S.members d lag p = l := by
  induction d generalizing lag p l with
  | zero =>
    unfold Sheet.expand at h
    split at h
    · cases h
    · split at h
      · cases h
      · simpa [Sheet.members] using h
  | succ d ih =>
    unfold Sheet.expand at h
    unfold Sheet.members
    split at h
    · cases h
    · rename_i c hc
      split at h
      · rename_i hr
        simpa [hc, hr] using joinAll_some (fun p l => ih) h
      · rename_i hr
        simpa [hc, hr] using h

/-- The slots of a cell are the members that R237 asks about. -/
theorem Sheet.slots_members {S : Sheet} {c : CellEntry} {l : List (Nat × Bool)} (h : S.slots c = some l) :
    c.precs.flatMap (S.members 4 false) = l := by
  unfold Sheet.slots at h
  split at h
  · rename_i x hx
    split at h
    · rw [joinAll_some (fun p l => Sheet.members_of_expand) hx]; simpa using h
    · cases h
  · cases h

/-- The parts of an access hold its bytes, in order. -/
theorem pageParts_bytes (va : Nat) (bs : List Byte) : (pageParts va bs).flatMap Prod.snd = bs := by
  unfold pageParts
  dsimp only
  split <;> simp

/-! ### The scope table at a launch (R80, R187) -/

@[simp] theorem emptyScopes_scopes (C : Ctx) : C.emptyScopes.scopes = [] := rfl
@[simp] theorem restoreScopes_scopes (C : Ctx) (L : Load) : (C.restoreScopes L).scopes = L.scopes := rfl
@[simp] theorem setScope_scopes (C : Ctx) (i : Nat) (S : Scope) : (C.setScope i S).scopes = tset C.scopes i S := rfl

/-- The loader writes the entries that the image lists, and no other. -/
theorem loadScopes_other (k : LoadCopy) (i : Nat) : ∀ (l : List (List Byte)) (C D : Ctx), C.loadScopes k l = some D →
    i ∉ l.map scopeIndex → tget D.scopes i = tget C.scopes i
  | [], C, D, h, _ => by cases h; rfl
  | bs :: l, C, D, h, hi => by
    simp only [List.map_cons, List.mem_cons, not_or] at hi
    simp only [Ctx.loadScopes] at h
    split at h
    · cases h
    · rw [loadScopes_other k i l _ D h hi.2, setScope_scopes, tget_tset_other _ _ _ _ hi.1]

/-- The byte of a window lies in the scratchpad of its holder (R348, R370). -/
theorem ownKey_windowHolder (s : State) (t : EId) (p : Nat) (h : s.frondOf t = none → p < 65536) :
    s.ownKey t p = scratchKey (s.windowHolder t p) (rawOf s t (.own p)).2 := by
  unfold State.ownKey State.windowHolder rawOf
  split
  · rfl
  · rename_i hf
    rw [Nat.mod_eq_of_lt (h hf)]

/-- A mark of an error stands where a byte of its unit is barred to the writer (R157, R419). -/
theorem bufClean_barred (s : State) (home : EId) (buf : Word) (o n k j : Nat) (hk : k ∈ s.poison) (hj : j < eccUnit k)
    (hb : s.barred (s.keyOf home) (k + j) 1 = true) : k ∈ (s.bufClean home buf o n).poison := by
  simp only [State.bufClean, List.mem_filter, Bool.not_eq_eq_eq_not, Bool.not_true, List.all_eq_false]
  refine ⟨hk, j, List.mem_range.2 hj, ?_⟩
  simp [List.mem_filter, hb]

end Sys2Proof.Machine
end

