-- ==== Sys2Proof/Laws/Moves.lean ====
section
/-!
SUPPORT. What the clock after a move can do: it keeps memory, the traffic in flight and the moves to come, also where a gang switch
takes place at its time (R104, R375).
-/
namespace Sys2Proof.Machine

@[simp] theorem State.stopElem_mem (t : Nat) (s : State) (e : EId) : (State.stopElem t s e).mem = s.mem := by
  unfold State.stopElem State.holdElem
  split <;> simp

@[simp] theorem State.stopElem_fabric (t : Nat) (s : State) (e : EId) : (State.stopElem t s e).fabric = s.fabric := by
  unfold State.stopElem State.holdElem
  split <;> simp

@[simp] theorem State.stopElem_time (t : Nat) (s : State) (e : EId) : (State.stopElem t s e).time = s.time := by
  unfold State.stopElem State.holdElem
  split <;> simp

@[simp] theorem State.gangStop_mem (s : State) (ctx : Nat) (C : Ctx) : (s.gangStop ctx C).mem = s.mem := by
  unfold State.gangStop
  exact (foldl_keeps (fun u : State => u.mem) _ (fun u e => by simp) _ _).trans (by simp)

@[simp] theorem State.gangStop_fabric (s : State) (ctx : Nat) (C : Ctx) : (s.gangStop ctx C).fabric = s.fabric := by
  unfold State.gangStop
  exact (foldl_keeps (fun u : State => u.fabric) _ (fun u e => by simp) _ _).trans (by simp)

@[simp] theorem State.gangStop_time (s : State) (ctx : Nat) (C : Ctx) : (s.gangStop ctx C).time = s.time := by
  unfold State.gangStop
  exact (foldl_keeps (fun u : State => u.time) _ (fun u e => by simp) _ _).trans (by simp)

@[simp] theorem State.gangStops_mem (s : State) : s.gangStops.mem = s.mem := by
  unfold State.gangStops
  exact foldl_keeps (fun u : State => u.mem) _ (fun u p => by split <;> simp) _ _

@[simp] theorem State.gangStops_fabric (s : State) : s.gangStops.fabric = s.fabric := by
  unfold State.gangStops
  exact foldl_keeps (fun u : State => u.fabric) _ (fun u p => by split <;> simp) _ _

@[simp] theorem State.gangStops_time (s : State) : s.gangStops.time = s.time := by
  unfold State.gangStops
  exact foldl_keeps (fun u : State => u.time) _ (fun u p => by split <;> simp) _ _

/-- The clock changes no byte of memory. -/
@[simp] theorem State.tick_mem (s : State) (n : Nat) : (s.tick n).mem = s.mem := by
  unfold State.tick
  simp

/-- The clock moves no traffic. -/
@[simp] theorem State.tick_fabric (s : State) (n : Nat) : (s.tick n).fabric = s.fabric := by
  unfold State.tick
  simp

/-- TIME rises with every step (R104). -/
theorem State.tick_time (s : State) (n : Nat) : (s.tick n).time = s.time + (1 + Config.elapsed n) := by
  unfold State.tick
  simp

end Sys2Proof.Machine
end

