-- ==== Sys2Proof/Laws/Vector.lean ====
section
/-!
SUPPORT. Lanes of vector registers (R210): what a register built from lanes reads back.
-/
namespace Sys2Proof.Machine

theorem packed_lane (w : Nat) (l : List Nat) (i : Nat) (hi : i < l.length) :
    l.foldr (fun x acc => acc * 2 ^ w + x % 2 ^ w) 0 / 2 ^ (w * i) % 2 ^ w = l.getD i 0 % 2 ^ w := by
  induction l generalizing i with
  | nil => simp at hi
  | cons x l ih =>
    have hp : 0 < 2 ^ w := Nat.pow_pos (by decide)
    have hx : x % 2 ^ w < 2 ^ w := Nat.mod_lt _ hp
    cases i with
    | zero =>
      simp only [List.foldr_cons, Nat.mul_zero, Nat.pow_zero, Nat.div_one, List.getD_cons_zero]
      rw [Nat.mul_comm, Nat.mul_add_mod, Nat.mod_mod]
    | succ i =>
      simp only [List.length_cons] at hi
      simp only [List.foldr_cons, List.getD_cons_succ]
      rw [Nat.mul_succ, Nat.pow_add, Nat.mul_comm (2 ^ (w * i)) (2 ^ w), ← Nat.div_div_eq_div_mul,
        Nat.mul_comm _ (2 ^ w), Nat.mul_add_div hp, Nat.div_eq_of_lt hx, Nat.add_zero]
      exact ih i (by omega)

theorem packed_lt (w : Nat) (l : List Nat) : l.foldr (fun x acc => acc * 2 ^ w + x % 2 ^ w) 0 < 2 ^ (w * l.length) := by
  induction l with
  | nil => simp
  | cons x l ih =>
    have hx : x % 2 ^ w < 2 ^ w := Nat.mod_lt _ (Nat.pow_pos (by decide))
    have h1 : l.foldr (fun x acc => acc * 2 ^ w + x % 2 ^ w) 0 + 1 ≤ 2 ^ (w * l.length) := ih
    have h2 := Nat.mul_le_mul_right (2 ^ w) h1
    rw [Nat.add_mul, Nat.one_mul] at h2
    simp only [List.foldr_cons, List.length_cons, Nat.mul_succ, Nat.pow_add]
    omega

/-- A lane of a register built from lanes that fit it. -/
theorem lane_ofLanes (w : Nat) (l : List Nat) (i : Nat) (hi : i < l.length) (hl : w * l.length ≤ 512) :
    lane (ofLanes w l) w i = l.getD i 0 % 2 ^ w := by
  have hlt : l.foldr (fun x acc => acc * 2 ^ w + x % 2 ^ w) 0 < 2 ^ 512 :=
    Nat.lt_of_lt_of_le (packed_lt w l) (Nat.pow_le_pow_right (by decide) hl)
  unfold lane ofLanes
  rw [BitVec.toNat_ofNat, Nat.mod_eq_of_lt hlt]
  exact packed_lane w l i hi

/-- The lanes of every lane type fill a register exactly. -/
theorem width_lanes (z : BitVec 3) : zWidth z.toNat * (512 / zWidth z.toNat) = 512 := by revert z; decide

theorem lane_lt (v : Vec) (w i : Nat) : lane v w i < 2 ^ w := Nat.mod_lt _ (Nat.pow_pos (by decide))

/-- What a lane-wise instruction does: the active lanes of d take the function's value modulo the lane width, the others
stand, and nothing else changes. -/
theorem vecOp_spec (s : State) (A : Act) (d : VReg) (k z : BitVec 3) (f : Nat → Nat) (h : s.act = some A) :
    ∃ V : Vec, vecOp s d k z f = .next ((s.setV d V).setAct (A.adv 4)) ∧
      ∀ j, j < lanesOf z → lane V (zWidth z.toNat) j =
        if active s k j then f j % 2 ^ zWidth z.toNat else lane (vreg s d) (zWidth z.toNat) j := by
  refine ⟨_, withAct_of _ h, ?_⟩
  intro j hj
  have hlen : ((List.range (512 / zWidth z.toNat)).map (fun i =>
      if active s k i then f i else lane (vreg s d) (zWidth z.toNat) i)).length = 512 / zWidth z.toNat := by simp
  rw [lane_ofLanes _ _ _ (by rw [hlen]; exact hj) (Nat.le_of_eq (by rw [hlen, width_lanes]))]
  have hj' : j < 512 / zWidth z.toNat := hj
  simp only [List.getD_eq_getElem?_getD, List.getElem?_map, List.getElem?_range hj', Option.map_some, Option.getD_some]
  split
  · rfl
  · exact Nat.mod_eq_of_lt (lane_lt _ _ _)

/-- The number whose bits are a condition on the numbers below n. -/
theorem bits_of_range (p : Nat → Bool) (n : Nat) :
    (List.range n).foldl (fun acc i => if p i then acc + 2 ^ i else acc) 0 < 2 ^ n ∧
    ∀ j, ((List.range n).foldl (fun acc i => if p i then acc + 2 ^ i else acc) 0).testBit j = (decide (j < n) && p j) := by
  induction n with
  | zero => simp
  | succ n ih =>
    obtain ⟨hlt, hb⟩ := ih
    rw [List.range_succ, List.foldl_append]
    simp only [List.foldl_cons, List.foldl_nil]
    generalize (List.range n).foldl (fun acc i => if p i then acc + 2 ^ i else acc) 0 = acc at hlt hb
    have h2 : 2 ^ (n + 1) = 2 ^ n + 2 ^ n := by rw [Nat.pow_succ]; omega
    constructor
    · split <;> omega
    · intro j
      by_cases hj : j = n
      · subst hj
        have h0 : acc.testBit j = false := by rw [hb]; simp
        by_cases hp : p j = true
        · simp only [hp, if_true]
          rw [Nat.add_comm, Nat.testBit_two_pow_add_eq, h0]; simp
        · simp [hp, h0]
      · have hd : decide (j < n + 1) = decide (j < n) := by
          by_cases h : j < n
          · have : j < n + 1 := by omega
            simp [h, this]
          · have : ¬ j < n + 1 := by omega
            simp [h, this]
        rw [hd, ← hb j]
        split
        · by_cases h : j < n
          · rw [Nat.add_comm, Nat.testBit_two_pow_add_gt h]
          · have hp : 2 ^ (n + 1) ≤ 2 ^ j := Nat.pow_le_pow_right (by decide) (by omega)
            rw [Nat.testBit_lt_two_pow (by omega), Nat.testBit_lt_two_pow (by omega)]
        · rfl

/-- What a mask instruction does: bit j of mask register d is set exactly where lane j is active and the condition holds. -/
theorem maskOp_spec (s : State) (A : Act) (d : VReg) (k z : BitVec 3) (f : Nat → Bool) (h : s.act = some A) :
    ∃ M : Word, maskOp s d k z f = .next ((s.setK d.toNat M).setAct (A.adv 4)) ∧
      ∀ j, M.getLsbD j = (decide (j < lanesOf z) && (active s k j && f j)) := by
  refine ⟨_, withAct_of _ h, ?_⟩
  intro j
  have hl : lanesOf z ≤ 64 := by revert z; decide
  obtain ⟨hlt, hb⟩ := bits_of_range (fun i => active s k i && f i) (lanesOf z)
  have h64 := Nat.lt_of_lt_of_le hlt (Nat.pow_le_pow_right (by decide : 0 < 2) hl)
  simp only [BitVec.getLsbD, BitVec.toNat_ofNat, Nat.mod_eq_of_lt h64]
  exact hb j

end Sys2Proof.Machine
end

