-- ==== Sys2Proof/Tests/Slice0.lean ====
section
/-!
SUPPORT. Tests of the model: ill-formed terms that WellFormed refuses, words written out from the encodings of the spec,
single steps with results worked out from the spec by hand, and a witness for the hypotheses of every statement.
-/
namespace Sys2Proof.Tests
open Sys2Proof Sys2Proof.Machine

-- one theorem after another: elaborated side by side, these wait for the kernel in a thread each
set_option Elab.async false

/-! ### Small states -/

/-- A machine in which element e runs an activation at PC 0 with the given w registers and WP 0x8000. Its context is 0, which
holds sorus 0 and the memory core at x 64, y 0; element 0 is the supervisor. -/
def mach (e : EId) (ws : List Word) : State :=
  let s := State.reset.withRunning e
  let s := s.updCtx 0 (fun C => { C with sup := some 0 })
  s.updElem e (fun E => { E with act := E.act.map (fun A => { A with w := Vector.ofFn (fun i : Fin 32 => ws.getD i.val 0) }) })

/-- The memory core of that context. -/
def mem0 : EId := mkE 0 64 0

def b0 : Binding := { prio := 3, floor := false, entry := 0x100, wp := 0x2000, rsize := 1 }
def bound : Chan := { Chan.reset with bind := some b0 }

def blankAct : Act := State.newAct State.reset 0 false 0 b0 false 0 (words8 []) none
def actOf (s : State) : Act := s.act.getD blankAct

/-- The state that an instruction or event answers meets a test. -/
def gives (i : Instr) (s : State) (p : State → Bool) : Bool := match exec i s with | .next t => p t | _ => false
/-- Register d of the executing activation after an instruction. -/
def puts (i : Instr) (s : State) (d : Reg) (v : Word) : Bool := gives i s (fun t => (actOf t).reg d == v)
/-- The executing element is frozen by a code, with a last packet that carries these words. -/
def freezes (i : Instr) (s : State) (code : Nat) : Bool :=
  gives i s (fun t => (t.elem s.cur).mode == .frozen && (t.elem s.cur).lastFault == BitVec.ofNat 8 code)

def withElem (s : State) (e : EId) (f : Elem → Elem) : State := s.updElem e f
def withChan (s : State) (e q : Nat) (c : Chan) : State := s.updElem e (fun E => { E with chans := vset E.chans q c })
def withAct (s : State) (f : Act → Act) : State := s.setAct (f (actOf s))
def withCtx (s : State) (f : Ctx → Ctx) : State := s.updCtx 0 f

/-- Context 0. -/
def ctx0 (s : State) : Ctx := (tget s.ctxs 0).getD (Ctx.blank [] [])

/-- Flight 0 of context 0. -/
def fl (src : EId) (dst : Option EId) (b : Body) : Flight := { id := 0, ctx := 0, src := src, dst := dst, body := b, after := [] }
def flown (f : Flight) : State := { mach 0 [] with fabric := [f] }
def ret0 : Ret := { credit := some 1, notice := some { in1 := 7, in2 := 0, rest := [] }, cmd := none }
def m0 : Msg := plainMsg [1, 2]

/-- A frond of sorus 0, joining or composed, that element 0 leads. -/
def frond1 (composed : Bool) : Frond :=
  { leader := 0, scope := 1, origin := 0, w := 4, h := 2, composed := composed, releasing := false, restart := none,
    binding := 0x0000200001000000, regs := Vector.replicate 32 0,
    starts := 1, chans := Vector.replicate 16 Chan.reset, lastStart := [] }

/-- A machine whose element 0 runs an activation of that frond. -/
def leading (f : Frond) (x : Word) : State :=
  { withAct (mach 0 [x]) (fun A => { A with frond := true }) with fronds := [f] }

/-! ### WellFormed refuses: one ill-formed term for each check -/

theorem test_wf_read_slot_48 : wfReason (.add 3 48 1) = 4 := by decide
theorem test_wf_read_slot_62 : wfReason (.send 3 62) = 4 := by decide
theorem test_wf_write_in0 : wfReason (.add 40 1 2) = 4 := by decide
theorem test_wf_zr_may_be_written : wfReason (.add 63 1 2) = 0 := by decide
theorem test_wf_region_number : wfReason (.regionRd 3 8) = 5 := by decide
theorem test_wf_spr_number : wfReason (.srd 3 12) = 5 := by decide
theorem test_wf_scope : wfReason (.fence 32) = 5 := by decide
theorem test_wf_ldm_count : wfReason (.ldm 30 1 3) = 5 := by decide
theorem test_wf_lane_type : wfReason (.fadd 0 0 4 1 2) = 5 := by decide
theorem test_wf_integer_lane_type : wfReason (.vadd 0 0 3 1 2) = 5 := by decide
theorem test_wf_reduction : wfReason (.vred 0 0 0 1 3) = 5 := by decide
theorem test_wf_mask_register : wfReason (.kand 8 1 2) = 5 := by decide
theorem test_wf_element : wfReason (.watchdog (mkE 0 68 0)) = 5 := by decide
theorem test_wf_context : wfReason (.launch 64) = 5 := by decide
theorem test_wf_register_before_range : wfReason (.regionRd 40 8) = 4 := by decide

/-! ### Words written out from R30, R37 and R41 -/

theorem test_decode_00 : decode32 0b000000_000011_0001_11_000001_000010_00#32 = .ok (.sub 3 1 2) := rfl
theorem test_decode_00_natural : decode32 0b000000_000011_0100_11_000001_000010_01#32 = .ok (.div 3 1 2 true) := rfl
theorem test_decode_01 : decode32 0b000001_000011_0000_11_000001_11111111#32 = .ok (.addi 3 1 255) := rfl
theorem test_decode_02_R : decode32 0b000010_000011_0011_11_000001_000000_00#32 = .ok (.popc 3 1) := rfl
theorem test_decode_02_L : decode32 0b000010_000010_1_1_10_11_11111011101111#32 = .ok (.lih 2 0xBEEF) := rfl
theorem test_decode_03 : decode32 0b000011_01_11111111_11_11111111111110#32 = .ok (.call 0x3FFFFE) := rfl
theorem test_decode_04_J : decode32 0b000100_000001_0001_11_11111111111100#32 = .ok (.brc 1 1 0x3FFC) := rfl
theorem test_decode_04_R : decode32 0b000100_000000_1011_11_000001_000010_00#32 = .ok (.yield 1 2) := rfl
theorem test_decode_05 : decode32 0b000101_000011_0011_11_000100_00000010#32 = .ok (.ld 3 3 4 2) := rfl
theorem test_decode_05_store : decode32 0b000101_000011_1000_11_000100_11111111#32 = .ok (.st 3 0 4 255) := rfl
theorem test_decode_06 : decode32 0b000110_000011_0000_11_000100_000101_10#32 = .ok (.ldx 3 4 5 2) := rfl
theorem test_decode_07 : decode32 0b000111_000011_0000_11_000001_000000_11#32 = .ok (.rld 3 1 3) := rfl
theorem test_decode_08 : decode32 0b001000_000011_0001_11_000001_000010_00#32 = .ok (.amo 3 1 1 2 0) := rfl
theorem test_decode_08_remote : decode32 0b001000_000011_1001_11_000001_000010_10#32 = .ok (.ramo 3 1 1 2 2) := rfl
theorem test_decode_09 : decode32 0b001001_000000_0000_11_000000_000011_00#32 = .ok (.fence 3) := rfl
theorem test_decode_0A : decode32 0b001010_000011_0000_11_000001_000000_00#32 = .ok (.send 3 1) := rfl
theorem test_decode_0B : decode32 0b001011_000000_0011_11_000001_000010_00#32 = .ok (.evset 1 2) := rfl
theorem test_decode_0C : decode32 0b001100_0011_010_001_11_0100_0101_000010#32 = .ok (.fmul 3 2 1 4 5) := rfl
theorem test_decode_0C_V4 : decode32 0b001100_0011_010_001_11_0100_0101_01_0110#32 = .ok (.fma 3 2 1 4 5 6) := rfl
theorem test_decode_0D : decode32 0b001101_0011_000_100_11_0100_0101_000000#32 = .ok (.vadd 3 0 4 4 5) := rfl
theorem test_decode_0E : decode32 0b001110_0011_000_001_11_0100_0000_010010#32 = .ok (.vred 3 0 1 4 2) := rfl
theorem test_decode_0F : decode32 0b001111_0011_000_001_11_0100_0000_000101#32 = .ok (.fexpo 3 0 1 4) := rfl
theorem test_decode_10 : decode32 0b010000_0011_001_000_11_000100_00000001#32 = .ok (.vld 3 1 4 1) := rfl
theorem test_decode_11_R : decode32 0b010001_0_00011_1001_11_000000_000000_00#32 = .ok (.mstat 3) := rfl
theorem test_decode_11_M : decode32 0b010001_1_0_01_00_0101_11_0000100_0001001#32 = .ok (.mma 1 0 5 4 9) := rfl
theorem test_decode_12 : decode32 0b010010_000000_0111_11_000001_000000_00#32 = .ok (.cwave 1) := rfl
theorem test_decode_13 : decode32 0b010011_000011_0010_11_000001_000000_00#32 = .ok (.sgen 3 1) := rfl
theorem test_decode_14 : decode32 0b010100_000011_0000_11_000001_000001_00#32 = .ok (.compose 3 1 1) := rfl
theorem test_decode_15 : decode32 0b010101_000011_0101_11_000000_000000_00#32 = .ok (.qcnt 3) := rfl
theorem test_decode_16 : decode32 0b010110_000011_0000_11_000000_00000101#32 = .ok (.srd 3 5) := rfl
theorem test_decode_17 : decode32 0b010111_000000_0000_11_000001_000010_00#32 = .ok (.trap 1 2) := rfl
theorem test_decode_compact_RR : decode 0b00001_00011_00001_0#16 0 = .ok (.movC 3 1) := rfl
theorem test_decode_compact_RI : decode 0b01000_00011_111111#16 0 = .ok (.liC 3 63) := rfl
theorem test_decode_compact_M : decode 0b01100_00011_001_010#16 0 = .ok (.ldDC 3 1 2) := rfl
theorem test_decode_compact_J : decode 0b01110_11111111111#16 0 = .ok (.brC 0x7FF) := rfl
theorem test_decode_compact_Z : decode 0b10001_00000000010#16 0 = .ok .endtC := rfl
theorem test_decode_zero_is_illegal : decode 0#16 0 = .error 6 := rfl
theorem test_decode_compact_unassigned : decode 0b10010_00000000000#16 0 = .error 7 := rfl
theorem test_decode_reserved_slot : decode32 0b001010_000011_0000_11_000001_000001_00#32 = .error 3 := rfl
theorem test_decode_lowest_reason_first : decode32 0b010101_000011_1000_11_110000_000000_00#32 = .error 2 := rfl

/-! ### Single steps, with results worked out from the spec -/

theorem test_add_wraps : puts (.add 3 0 1) (mach 0 [BitVec.allOnes 64, 2]) 3 1 = true := by decide
theorem test_sub_order : puts (.sub 3 0 1) (mach 0 [5, 7]) 3 (BitVec.ofInt 64 (-2)) = true := by decide
theorem test_mulh_signed : puts (.mulh 3 0 1 false) (mach 0 [BitVec.allOnes 64, 2]) 3 (BitVec.allOnes 64) = true := by decide
theorem test_mulh_natural : puts (.mulh 3 0 1 true) (mach 0 [BitVec.allOnes 64, 2]) 3 1 = true := by decide
theorem test_div_truncates : puts (.div 3 0 1 false) (mach 0 [BitVec.ofInt 64 (-7), 2]) 3 (BitVec.ofInt 64 (-3)) = true := by decide
theorem test_div_by_zero : freezes (.div 3 0 1 false) (mach 0 [9, 0]) 0x05 = true := by decide
theorem test_rem_sign_of_dividend : puts (.rem 3 0 1 false) (mach 0 [BitVec.ofInt 64 (-7), 2]) 3 (BitVec.ofInt 64 (-1)) = true := by decide
theorem test_shl_uses_six_bits : puts (.shl 3 0 1) (mach 0 [1, 65]) 3 2 = true := by decide
theorem test_sra_keeps_sign : puts (.sra 3 0 1) (mach 0 [BitVec.ofInt 64 (-8), 1]) 3 (BitVec.ofInt 64 (-4)) = true := by decide
theorem test_min_natural : puts (.min 3 0 1 true) (mach 0 [BitVec.allOnes 64, 2]) 3 2 = true := by decide
theorem test_sel_zero_takes_b : puts (.sel 3 0 1) (mach 0 [5, 7, 0, 0]) 3 7 = true := by decide
theorem test_andi_sign_extends : puts (.andi 3 0 0xF0) (mach 0 [BitVec.allOnes 64]) 3 0xFFFFFFFFFFFFFFF0 = true := by decide
theorem test_clz_of_zero : puts (.clz 3 0) (mach 0 [0]) 3 64 = true := by decide
theorem test_lih_example : puts (.lih 2 0xBEEF) (mach 0 [0, 0, 0xDEAD]) 2 0xDEADBEEF = true := by decide
theorem test_compact_advances_two : gives (.addiC 3 63) (mach 0 [0, 0, 0, 1]) (fun t => (actOf t).reg 3 == 0 && (actOf t).pc == 2) = true := by
  decide
theorem test_zr_discards : gives (.add 63 0 1) (mach 0 [1, 2]) (fun t => (actOf t).w == (actOf (mach 0 [1, 2])).w) = true := by decide
theorem test_call_links : gives (.call 8) (mach 0 []) (fun t => (actOf t).reg 31 == 4 && (actOf t).pc == 16) = true := by decide
theorem test_branch_beyond_window : freezes (.br 0x1FFFFF) (mach 0 []) 0x04 = true := by decide
theorem test_load_is_little_endian :
    puts (.ld 3 1 0 0) { mach 0 [0x100] with mem := [(0x100, 0x34), (0x101, 0x12)] } 3 0x1234 = true := by decide
theorem test_load_sign_extends :
    puts (.ldSigned 3 0 0 0) { mach 0 [0x100] with mem := [(0x100, 0x80)] } 3 0xFFFFFFFFFFFFFF80 = true := by decide
theorem test_acquire_misaligned : freezes (.ldAcq 3 0 3) (mach 0 [0x101]) 0x11 = true := by decide
theorem test_store_low_bytes : gives (.st 1 1 0 1) (mach 0 [0x100, 0xABCDEF]) (fun t => t.mem == [(0x102, 0xEF), (0x103, 0xCD)]) = true := by
  decide
theorem test_store_register_area : freezes (.st 1 3 0 0) (mach 0 [0x8000, 1]) 0x08 = true := by decide
theorem test_index_bound : freezes (.ldx 3 0 2 3) (mach 0 [0x100, 4, 4]) 0x13 = true := by decide
theorem test_amo_add : gives (.amo 3 1 0 1 0) { mach 0 [0x100, 5] with mem := [(0x100, 3)] }
    (fun t => (actOf t).reg 3 == 3 && t.mem == [(0x100, 8)]) = true := by decide
theorem test_amo_subtract_stops_at_zero : gives (.amo 3 7 0 1 0) { mach 0 [0x100, 5] with mem := [(0x100, 3)] }
    (fun t => (actOf t).reg 3 == 3 && t.mem == []) = true := by decide
theorem test_cas_fails : gives (.cas 3 0 1 0) { mach 0 [0x100, 9, 0, 4] with mem := [(0x100, 3)] }
    (fun t => (actOf t).reg 3 == 3 && t.mem == [(0x100, 3)]) = true := by decide
theorem test_dead_register_reads_zero : gives (.swr 0 6) (mach 0 [2, 7]) (fun t => (actOf t).reg 1 == 0 && (actOf t).dead == 2) = true := by
  decide
theorem test_write_back : gives .endt (withAct (mach 0 [0, 7, 9]) (fun A => { A with dead := 4 }))
    (fun t => (t.elem 0).act.isNone && t.mem == [(0x8008, 7)]) = true := by decide +kernel
theorem test_yield_now : gives (.yield 0 1) (withChan (mach 0 [0x10040]) 0 1 bound)
    (fun t => (t.elem 0).act.isNone && ((vget Chan.reset (t.elem 0).chans 1).cont.map (·.entry)) == some 0x40) = true := by decide
theorem test_send_to_itself : gives (.send 3 0) (mach 0 [5])
    (fun t => (t.elem 0).avail == 15 && (actOf t).reg 3 == 0 && t.fabric.length == 1) = true := by decide
theorem test_send_without_allowance :
    puts (.send 3 0) (withElem (mach 0 [5]) 0 (fun E => { E with avail := 0 })) 3 1 = true := by decide
theorem test_message_accept : gives (.messageAccept 0) (flown (fl 1 (some 0) (.msg 2 m0 ret0)))
    (fun t => (vget Chan.reset (t.elem 0).chans 2).queue == [m0] && t.fabric.map (·.dst) == [some 1]) = true := by decide
theorem test_activation_start :
    gives (.activationStart 1) (withChan (mach 0 []) 1 2 { bound with queue := [m0] })
      (fun t => ((t.elem 1).act.map (fun A => (A.pc, A.inn == m0.words, A.chan))) == some (0x100, true, 2)) = true := by decide
theorem test_vadd_lane : gives (.vadd 2 0 5 0 1) (withElem (mach 0 []) 0 (fun E => { E with v := vset (vset E.v 0 0xFFFFFFFF) 1 2 }))
    (fun t => (vget 0 (t.elem 0).v 2).toNat == 1) = true := by decide +kernel
theorem test_fadd_one_and_one :
    gives (.fadd 2 1 1 0 0) (withElem (mach 0 []) 0 (fun E => { E with v := vset E.v 0 0x3F800000, k := vset E.k 1 1 }))
      (fun t => (vget 0 (t.elem 0).v 2).toNat == 0x40000000) = true := by decide +kernel
theorem test_matrix_on_memory_core : freezes (.mstat 3) (mach mem0 []) 0x02 = true := by decide
theorem test_oclaim : gives (.oclaim 3 0) (mach 0 [0x204]) (fun t => (t.slot 0 5).state == .empty && (t.slot 0 6).state == .free) = true := by
  decide
theorem test_privileged : freezes (.bkpt 3 0) (mach 1 []) 0x03 = true := by decide
theorem test_trap_resumes_after : gives (.trap 0 1) (mach 1 [8, 9])
    (fun t => (t.elem 1).mode == .frozen && (actOf t).pc == 4 && t.fabric.map (·.dst) == [some 0]) = true := by decide
theorem test_thaw : gives (.thaw 0 1) (withElem (mach 0 [0x2000000100000000]) 1 (fun E => { E with mode := .frozen, act := some blankAct }))
    (fun t => (t.elem 1).mode == .normal) = true := by decide
theorem test_quarantine_count : puts (.qcnt 3) { mach mem0 [] with time := 77 } 3 77 = true := by decide
theorem test_event_set : gives (.eventRequest 0) (flown (fl 1 (some (enginePort 0)) (.evReq 0 6 9)))
    (fun t => ((t.ctxAt 0).bind (fun C => tget C.events 6)).map (·.value) == some 9) = true := by decide
theorem test_mailbox_closed : gives (.destroy 0) (mach 0 []) (fun t => t.ctxs.length == 1) = true := by decide

/-! ### Witnesses: the hypotheses of the statements are met -/

/-- A machine that is about to fetch ADD w3, w0, w1. -/
def fetching : State := (mach 0 [1, 2]).placeWord 32 0x0030C004

theorem witness_StepRunsDecoded : fetching.turns = [.core 0] ∧ (fetching.elem 0).act = some (actOf fetching) ∧
    State.mayIssue { fetching with turns := [], cur := 0 } 0 = true ∧
    State.watchdogDue { fetching with turns := [], cur := 0 } 0 (actOf fetching) = false ∧
    (match fetch { fetching with turns := [], cur := 0 } 0 (actOf fetching).pc.toNat with | .ok i => i == .add 3 0 1 | _ => false) = true ∧
    gives (.add 3 0 1) (State.issue { fetching with turns := [], cur := 0 } 0 (actOf fetching) (.add 3 0 1)) (fun t => (actOf t).begun) = true := by
  decide

theorem witness_StepOtherwise_fetch :
    (match fetch (withAct (mach 0 []) (fun A => { A with pc := 1 })) 0 1 with | .error f => f.code == 4 | _ => false) = true ∧
    (match fetch (mach 0 []) 0 0 with | .error f => f.code == 1 | _ => false) = true ∧
    (match fetch (withAct (mach 0 []) (fun A => { A with pc := 0xFFFE })) 0 0xFFFE with | .error f => f.code == 1 | _ => false) = true := by
  decide

theorem witness_StepOtherwise_event : encode .packagePowerLimit = [] ∧
    gives .packagePowerLimit { mach 0 [] with turns := [] } (fun _ => true) = true := by decide

theorem witness_DecodedBits : decode 0xC004#16 0x0030#16 = .ok (.add 3 0 1) ∧ isLong 0xC004#16 = true ∧ isLong 0x0842#16 = false := by
  exact ⟨rfl, rfl, rfl⟩

theorem witness_RoundTrip : encode (.add 3 0 1) ≠ [] ∧ wfReason (.add 63 47 63) = 0 := by decide

theorem witness_Runs : (mach 0 [7, 0]).Runs (actOf (mach 0 [7, 0])) ∧ (mach mem0 []).Runs (actOf (mach mem0 [])) := by decide

theorem witness_IntegerRegisters : (actOf (mach 0 [7, 0])).reg 0 ≠ 0 ∧ (actOf (mach 0 [7, 0])).reg 1 = 0 := by decide

theorem witness_RegistersAndFrame : integerDest (.sel 3 0 1) = some 3 ∧ integerDest (.sraC 31 63) = some 31 ∧
    gives (.rem 3 1 0 false) (mach 0 [7, 0]) (fun _ => true) = true ∧ (39 : Reg).toNat < 40 ∧ 40 ≤ (40 : Reg).toNat ∧
    (31 : Reg).toNat < 32 ∧ 48 ≤ (63 : Reg).toNat := by decide

theorem witness_lane_types : (3 : BitVec 3).toNat ≤ 3 ∧ 4 ≤ (4 : BitVec 3).toNat ∧ (7 : VReg).toNat ≤ 7 ∧ (1 : BitVec 3).toNat ≤ 1 ∧
    redOk 3 2 = true ∧ redOk 4 7 = true ∧ (5 : VReg).toNat ≤ 5 := by decide

/-- A machine whose mask register 1 selects lane 15 alone. -/
def oneLane (a : Word) : State := withElem (mach 0 [a]) 0 (fun E => { E with k := vset E.k 1 0x8000 })

/-- The window word that WCFG0–WCFG7 hold at launch: f32 elements as f32 lanes. -/
def win1 : Win := { cfg := wcfgReset, elem := 4, fmt := none }

theorem witness_VectorLoadStore_window0 : (oneLane 0x100).OwnVector (actOf (oneLane 0x100)) 0x100 1 win1 0 0x100 attrRD :=
  { addr := by decide, window := ⟨by decide, rfl⟩, some' := ⟨15, by decide, by decide⟩, start := by decide, inside := by decide,
    aligned := by decide, alone := by decide, permitted := by decide, unchecked := by decide, clear := by decide, sound := by decide,
    onMesh := by decide }
theorem witness_VectorLoadStore_window7 : (oneLane 0x7FFC0).OwnVector (actOf (oneLane 0x7FFC0)) 0x7FFC0 1 win1 7 0xFFC0 attrWR :=
  { addr := by decide, window := ⟨by decide, rfl⟩, some' := ⟨15, by decide, by decide⟩, start := by decide, inside := by decide,
    aligned := by decide, alone := by decide, permitted := by decide, unchecked := by decide, clear := by decide, sound := by decide,
    onMesh := by decide }

theorem witness_VectorLoadStore_no_lane : ∀ j, j < 512 / zWidth (fld (windowWord (mach 0 []) 0 0x100) 22 20) →
    active (mach 0 []) 1 j = false := by decide

theorem witness_VectorLoadStore : (match vecPlan (mach 0 []) 0 1 0x100 false with | .ok none => true | _ => false) = true ∧
    (match vecPlan (mach 0 []) 0 1 0x100 true with | .ok none => true | _ => false) = true ∧
    (match vecPlan (oneLane 0) 0 1 0x5000000000000000 false with | .error f => f.code == 0x10 | _ => false) = true ∧
    (match vecPlan (oneLane 0) 0 1 0x7FF0 true with | .error f => f.code == 0x08 | _ => false) = true ∧
    (match vecPlan (oneLane 0) 0 1 0x100 false with
      | .ok (some (_, _, l, ps)) => l == [15] && (match readPieces (oneLane 0) ps 0 with | .ok bs => bs.length == 4 | _ => false)
      | _ => false) = true ∧
    (match vecPlan (oneLane 0) 0 1 0x100 true with
      | .ok (some (_, _, l, ps)) => l == [15] && (writePieces (oneLane 0) ps [1, 2, 3, 4] 0).2.isNone
      | _ => false) = true := by
  decide +kernel

theorem witness_BranchesAndCalls : (mach 0 []).Fits 0xFFFE ∧ ¬ (mach 0 []).Fits 0x10000 ∧ ¬ (mach 0 []).Fits 3 ∧
    (5 : BitVec 3).toNat ≤ 5 ∧ (actOf (mach 0 [0, 1])).reg (BitVec.ofNat 6 (1 : BitVec 5).toNat) ≠ 0 := by
  unfold State.Fits; decide

theorem witness_Addresses : (actOf (mach 0 [])).frond = false ∧ (mach 0 []).frondOf 0 = none ∧ (mach 0 []).cur < 16384 ∧
    convert (mach 0 []) 0 0x5000000000000000 0 = none ∧ fld (0x0F0000000000FFFF : Word) 55 16 = 0 ∧
    (named (mach 0 []) 0 0x100).isSome = true := by decide

/-- An address in aperture 2 of a member of the own sorus, of a core of another one, of one too far for aperture 3, and in a window. -/
theorem witness_Addresses_named : isElem 0 = true ∧ named (mach 0 []) 0 0x2000000100000100 = some (1, 0x100, 0, false) ∧ sorusOf 0 = sorusOf 1 ∧
    named (mach 0 []) 0 0x2000010000000100 = some (mkE 0 4 0, 0x100, 0, false) ∧ sorusOf 0 ≠ sorusOf (mkE 0 4 0) ∧
    named (mach 0 []) 0 0x2000104000000000 = some (mkE 0 65 0, 0, 0, false) ∧ isElem (mkE 0 65 0) = true := by decide
theorem witness_Addresses_far : (63 : Int) < (eX (mkE 0 65 0) : Int) - (eX 0 : Int) ∧
    named (mach 0 []) 0 0x30100 = some (0, 0x100, 3, false) ∧ ((ctx0 (mach 0 [])).scopeMembers 0 1).contains 1 = true ∧
    named { mach 0 [] with fronds := [frond1 true] } 0 0x2000000100000100 = some (1, 0x100, 0, false) := by decide
theorem witness_Addresses_frond : (frond1 true).members.contains 1 = true ∧ (frond1 true).members.contains (mkE 0 4 0) = false := by decide

theorem witness_ActivationEnds : (mach 0 []).MemOk ∧ (mach 0 []).frondOf (mach 0 []).cur = none ∧
    (actOf (mach 0 [])).wp.toNat + 256 ≤ 65536 ∧ (actOf (mach 0 [])).dead.getLsbD 31 = false ∧
    (actOf (withAct (mach 0 []) (fun A => { A with dead := 1 }))).dead.getLsbD 0 = true := by decide

theorem witness_YieldArms : fld (0x1000000 : Word) 63 24 ≠ 0 ∧ 3 < fld (0x400000 : Word) 23 20 ∧ condOk 0x20000 = true ∧ condOk 0xC0000 = false ∧
    (vget Chan.reset ((withChan (mach 0 []) 0 15 bound).elem 0).chans 15).bind ≠ none ∧
    (vget Chan.reset ((withChan (mach 0 []) 0 15 bound).elem 0).chans 15).cont = none ∧
    (vget Chan.reset ((mach 0 []).elem 0).chans 15).bind = none := by decide

theorem witness_SpecialRegisters : sprReserved 9 (BitVec.allOnes 64) = true ∧ sprReserved 9 0x3F00 = false ∧ sprReserved 17 0x100000 = false ∧
    sprReserved 23 0x100000 = false ∧ sprReserved 5 1 = false ∧ fld (0xFFFFFFFF : Word) 63 32 = 0 ∧
    (actOf (mach 0 [])).wdHeld = none ∧ (actOf (withAct (mach 0 []) (fun A => { A with begun := true }))).begun = true ∧
    (mach 0 []).frondOf 0 = none := by decide

theorem witness_OwnAccess_byte : (mach 0 [0xFFFF]).OwnAccess (actOf (mach 0 [0xFFFF])) 0xFFFF 0xFFFF 1 [attrRD] :=
  { addr := by decide, size := by decide, inside := by decide, aligned := by decide, alone := by decide, permitted := by decide,
    unchecked := by decide, clear := by decide, sound := by decide, onMesh := by decide }
theorem witness_OwnAccess_below_area : (mach 0 [0x7FF8]).OwnAccess (actOf (mach 0 [0x7FF8])) 0x7FF8 0x7FF8 8 [attrRD, attrWR] :=
  { addr := by decide, size := by decide, inside := by decide, aligned := by decide, alone := by decide, permitted := by decide,
    unchecked := by decide, clear := by decide, sound := by decide, onMesh := by decide }
theorem witness_OwnAccess_above_area : (mach 0 [0x8100]).OwnAccess (actOf (mach 0 [0x8100])) 0x8100 0x8100 4 [attrWR] :=
  { addr := by decide, size := by decide, inside := by decide, aligned := by decide, alone := by decide, permitted := by decide,
    unchecked := by decide, clear := by decide, sound := by decide, onMesh := by decide }

/-- Is an answer an error? -/
def fails {α : Type} (r : Except Flt α) : Bool := match r with | .error _ => true | .ok _ => false

theorem witness_OwnAccesses : ((actOf (mach 0 [0x100, 4, 3])).reg 2).toNat < ((actOf (mach 0 [0x100, 4, 3])).reg 1).toNat ∧
    ((actOf (mach 0 [0x100, 4, 4])).reg 1).toNat ≤ ((actOf (mach 0 [0x100, 4, 4])).reg 2).toNat ∧
    (mach 0 []).postedOf 0 = [] ∧ fails (loadBytes (mach 0 []) { aps := apsLoad 0, rd := true } 0x8000 8).2 = true ∧
    fails (loadBytes (mach 0 []) { aps := apsLoad 0, rd := true } 0x7FF8 8).2 = false ∧
    fails (plan (mach 0 []) 0 { aps := apsLoad 0, wr := true } 0x8000 8) = true := by decide

theorem witness_MultipleTransfers_own : ∀ j, j < (2 : Reg).toNat →
    (mach 0 [0x100]).OwnAccess (actOf (mach 0 [0x100])) (0x100 + BitVec.ofNat 64 (8 * j)) (0x100 + 8 * j) 8 [attrRD] ∧
    (mach 0 [0x100]).OwnAccess (actOf (mach 0 [0x100])) (0x100 + BitVec.ofNat 64 (8 * j)) (0x100 + 8 * j) 8 [attrWR] := by
  intro j h
  match j, h with
  | 0, _ => constructor <;> constructor <;> decide
  | 1, _ => constructor <;> constructor <;> decide

/-- A machine whose doubleword at a key is in error. -/
def damaged (k : Nat) : State := { mach 0 [0x100] with poison := [k] }

/-- A store into a part of that doubleword stops. -/
theorem witness_stores_stopped : (writePieces (damaged 0x100) (planned (plan (damaged 0x100) 0 { aps := apsLoad 0, wr := true } 0x101 2)) [1, 2] 0).2.map
      (fun f => (f.code, f.faddr)) = some (0x18, 0x100) ∧
    (writePieces (damaged 0x104) (planned (plan (damaged 0x104) 0 { aps := apsLocal 0, wr := true, natural := true, piece := 8 } 0x100 8)) [] 0).2.isSome
      = true := by decide

/-- R155: an aligned access is one piece though its size is no power of two, here in one line and across two; a longer one has pieces
of 64 bytes; one that is not aligned has pieces of powers of two. The examples of the rule's loop and words. -/
theorem test_pieces : (splitAccess 24 12 64).map (fun x => (x.off, x.size, x.whole)) = [(0, 12, 12)] ∧
    (splitAccess 60 12 64).map (fun x => (x.off, x.size, x.whole, x.rest)) = [(0, 4, 12, false), (4, 8, 12, true)] ∧
    (splitAccess 0 100 64).map (fun x => (x.off, x.whole)) = [(0, 64), (64, 36)] ∧
    (splitAccess 0x3D 8 64).map (fun x => (x.off, x.whole)) = [(0, 1), (1, 2), (3, 4), (7, 1)] := by decide

/-- A store piece across two lines writes nothing where its second line stops it. -/
theorem test_piece_is_whole :
    let ps := planned (resolvePieces (damaged 0x40) 0 { aps := [0], wr := true } 0x3C (splitAccess 0x3C 12 64))
    ps.map Piece.count = [0, 1] ∧ (writePieces (damaged 0x44) ps (List.replicate 12 7) 0).1.mem = [] ∧
      ((writePieces (damaged 0x44) ps (List.replicate 12 7) 0).2.map (·.code)) = some 0x18 := by decide

/-- LDM w0, w0, 3: the base is loaded last; doubleword 2, and then doubleword 0, in error. -/
theorem witness_MultipleTransfers_stopped :
    (planned (plan (damaged 0x110) 0 { aps := apsLocal 0, rd := true, natural := true, piece := 8 } 0x100 24)).map (fun p =>
      match p.key with | .ok k => (k, poisonIn (damaged 0x110) k 8) | _ => (0, none)) = [(0x100, none), (0x108, none), (0x110, some 0x110)] ∧
    gives (.ldm 0 0 3) (damaged 0x110) (fun t => (t.elem 0).lastFault == 0x18 && (actOf t).reg 0 == 0x100) = true ∧
    gives (.ldm 0 0 3) { damaged 0x100 with mem := [(0x110, 9)] } (fun t => (t.elem 0).lastFault == 0x18 && (actOf t).reg 0 == 0x100 &&
      (actOf t).reg 2 == 9) = true := by decide +kernel

theorem witness_MultipleTransfers : fails (plan (mach 0 []) 0 { aps := apsLocal 0, rd := true, natural := true, piece := 8 } 0x100 256) = false ∧
    (planned (plan (mach 0 []) 0 { aps := apsLocal 0, rd := true, natural := true, piece := 8 } 0x100 256)).all (fun p =>
      match p.key with | .ok k => (poisonIn (mach 0 []) k p.size).isNone | _ => false) = true ∧
    (writePieces (mach 0 []) (planned (plan (mach 0 []) 0 { aps := apsLocal 0, wr := true, natural := true, piece := 8 } 0x100 8)) [1] 0).2
      = none ∧ (0 : Reg).toNat + (32 : Reg).toNat ≤ 32 := by decide +kernel

theorem witness_TagsAndRegions : (match tagLine (mach 0 []) 0 true 0x100 with | .ok (some k) => k == 0x100 | _ => false) = true ∧
    fails (tagLine (mach 0 []) 0 true 0x8000) = true ∧ fails (tagLine (mach 0 []) 0 false 0x8000) = true ∧
    fld (16 : Word) 63 4 ≠ 0 ∧ fld (15 : Word) 63 4 = 0 ∧ (mach 0 []).isSup = true ∧ (mach 1 []).isSup = false ∧
    (let ok : Word → Bool := fun x => decide (fld x 3 0 = 0) && decide (fld x 15 8 = 0) && decide (fld x 39 16 + fld x 63 40 ≤ 0x10000)
     ok regionAll = true ∧ ok (regionAll + 0x10000) = false) := by decide

theorem witness_frames : loads (.ldm 3 0 2) = true ∧ gives (.ldm 3 0 2) (mach 0 [0x100]) (fun _ => true) = true ∧
    stores (.stm 3 0 2) = true ∧ gives (.stm 3 0 2) (mach 0 [0x100]) (fun _ => true) = true ∧ (mach 0 [0x100]).MemOk := by decide +kernel

/-- A machine whose w0 names byte 0x100 of element 1, and one of its posted writes to it. -/
def far : State := mach 0 [0x2000000100000100]
def farPosted : State := { far with fabric := [fl 0 (some 1) (.rst 0 0x100 8 5)] }

theorem witness_RemoteLoads : (match remoteAt far 0 0x2000000100000100 8 false true with | .ok pl => rawOf far 0 pl == (1, 0x100) | _ => false) = true ∧
    far.postedTo 0 1 = [] ∧ farPosted.postedTo 0 1 ≠ [] ∧ far.isFenced 1 = false ∧
    (withElem far 1 (fun E => { E with mode := .fenced })).isFenced 1 = true ∧ poisonIn far (scratchKey 1 0x100) 8 = none := by decide

/-- The machine of far with no region, and with every own byte tag-checked; the element's own bytes and its own register area. -/
def bare (x : Word) : State := withElem (mach 0 [x]) 0 (fun E => { E with regions := Vector.replicate 8 0 })
def tagged (x : Word) : State := withElem (mach 0 [x]) 0 (fun E => { E with regions := Vector.replicate 8 (regionAll ||| 0x80) })

/-- The checks of a load that RLD makes: alignment, RD, the register area through aperture 0 and through the element's own name, the tag;
and a target that is fenced or damaged. -/
theorem witness_RemoteLoads_checks :
    fails (remoteAt (mach 0 [0x101]) 0 0x101 8 false true) = true ∧
    freezes (.rld 3 0 3) (bare 0x100) 0x14 = true ∧ freezes (.rld 3 0 3) (mach 0 [0x8000]) 0x08 = true ∧
    freezes (.rld 3 0 3) (mach 0 [0x2000000000008000]) 0x08 = true ∧ freezes (.rld 3 0 3) (bare 0x2000000000000100) 0x14 = false ∧
    freezes (.rld 3 0 3) (tagged 0x0500000000000100) 0x12 = true ∧ freezes (.rld 3 0 3) (tagged 0x100) 0x12 = false ∧
    freezes (.rld 3 0 3) (withElem far 1 (fun E => { E with mode := .fenced })) 0x17 = true ∧
    freezes (.rld 3 0 3) { far with poison := [scratchKey 1 0x100] } 0x18 = true := by decide +kernel

/-- The same machine, waiting for the answer of RLD.d w3, w0. -/
def waiting : State := { withElem far 0 (fun E => { E with stalled := true, insn := some (.rld 3 0 3) }) with turns := [.core 0] }

theorem witness_RemoteRead : (waiting.elem 0).stalled = true ∧ waiting.mayIssue 0 = true ∧
    (waiting.elem 0).insn = some (.rld 3 0 3) ∧ State.mayIssue { waiting with turns := [], cur := 0 } 0 = true ∧
    gives (.rld 3 0 3) (State.issue { waiting with turns := [], cur := 0 } 0 (actOf waiting) (.rld 3 0 3)) (fun _ => true) = true := by decide

theorem witness_PostedRequests : (far.elem 0).avail = 16 ∧ (far.elem 0).issued = none ∧ ramoDescOk 0x40 = true ∧ ramoDescOk 0x80 = false ∧
    rcopyOk 0x10000000 0xF000 = true ∧ rcopyOk 0x10000000 0xF001 = false ∧ ownDest far 0 4096 = none ∧
    fails (remoteAt far 0 0x2000000100000100 8 true true) = false ∧ (2 : BitVec 2).getLsbD 0 = false := by decide +kernel

/-- An acquire waits while its own request is in flight, and goes on when it has been applied. -/
theorem witness_PostedRequests_acquire :
    (1 : BitVec 2).getLsbD 0 = true ∧
    gives (.ramo 3 0 1 1 1) far (fun t => (t.elem 0).stalled && (t.elem 0).issued == some far.nextId && (actOf t).pc == 0) = true ∧
    gives (.ramo 3 0 1 1 1) (withElem (flown (fl 0 (some 1) (.ramo 0 0x100 1 3 0))) 0 (fun E => { E with issued := some 0 }))
      (fun t => (t.elem 0).stalled) = true ∧
    gives (.rcas 3 0 1 1) (withElem far 0 (fun E => { E with issued := some 0 }))
      (fun t => (t.elem 0).issued == none && (actOf t).pc == 4) = true := by decide +kernel

/-- The notifications that a descriptor asks for: MODE 2 at the issuer, and MODE 1, with bit 6 set, at the target. -/
theorem witness_PostedWritesApply_tells :
    (let f := fl 0 (some 1) (.ramo 0 0x100 1 3 0x20)
     (flown f).Arrives 0 f ∧ postedRefusal (flown f) 1 0x100 0 = none ∧ fld (0x20 : Word) 5 4 = 2) ∧
    (let f := fl 0 (some 1) (.ramo 0x2000000100000100 0x100 7 3 0x50)
     { flown f with mem := [(scratchKey 1 0x100, 3)] }.Arrives 0 f ∧ fld (0x50 : Word) 5 4 = 1 ∧ (0x50 : Word).getLsbD 6 = true ∧
       amoNew 7 3 3 = 0 ∧ fld (0x2000000100000100 : Word) 63 60 ≠ 0) ∧
    (let f := fl 0 (some 1) (.rcas 0 0x100 0 3 0x50)
     (flown f).Arrives 0 f ∧ leWord (memRead (flown f).mem (scratchKey 1 0x100) 8) = 0) := by
  unfold State.Arrives; decide

theorem witness_PostedWritesApply : farPosted.Arrives 0 (fl 0 (some 1) (.rst 0 0x100 8 5)) ∧ farPosted.MemOk ∧
    postedRefusal farPosted 1 0x100 8 = none ∧
    (flown (fl 0 (some 1) (.ramo 0 0x100 1 3 0))).Arrives 0 (fl 0 (some 1) (.ramo 0 0x100 1 3 0)) ∧
    (flown (fl 0 (some 1) (.rcas 0 0x100 0 3 0))).Arrives 0 (fl 0 (some 1) (.rcas 0 0x100 0 3 0)) ∧
    (flown (fl 0 (some 1) (.rcopy 0 0x100 0x80100 false))).Arrives 0 (fl 0 (some 1) (.rcopy 0 0x100 0x80100 false)) ∧
    (flown (fl 0 (some 1) (.rcopy 0 0x100 0x80100 false))).isFenced 1 = false ∧ poisonIn (mach 0 []) (scratchKey 1 0x100) 1 = none := by
  unfold State.Arrives; decide

/-- A target that is fenced, or whose doubleword is in error, refuses a posted write; a copy from a fenced source, or of the leader of
a frond. -/
theorem witness_PostedWritesApply_refused :
    (let no := fun s : State => withElem s 1 (fun E => { E with mode := .fenced })
     let hurt := fun s : State => { s with poison := [scratchKey 1 0x100] }
     let rst := flown (fl 0 (some 1) (.rst 0 0x100 4 5))
     let ramo := flown (fl 0 (some 1) (.ramo 0 0x100 1 3 0))
     let rcas := flown (fl 0 (some 1) (.rcas 0 0x100 0 3 0))
     let rcopy := flown (fl 0 (some 1) (.rcopy 0 0x100 0x80100 true))
     let noticed := fun (w : Word) (t : State) => t.mem == [] && t.fabric.any (fun f => match f.body with | .notice ws => vget 0 ws 2 == w | _ => false)
     gives (.remoteStore 0) (no rst) (noticed 0x1104) = true ∧ gives (.remoteStore 0) (hurt rst) (noticed 0x1109) = true ∧
     gives (.remoteAtomic 0) (no ramo) (noticed 0x2904) = true ∧ gives (.remoteAtomic 0) (hurt ramo) (noticed 0x2909) = true ∧
     gives (.remoteCas 0) (no rcas) (noticed 0x4704) = true ∧ gives (.remoteCas 0) (hurt rcas) (noticed 0x4709) = true ∧
     gives (.rcopyComplete 0) (no rcopy) (fun t => t.mem == [] &&
       t.fabric.any (fun f => match f.body with | .msg _ m _ => vget 0 m.words 2 == 4 | _ => false)) = true ∧
     poisonIn (hurt rcopy) (scratchKey 1 0x100) 1 ≠ none) := by decide +kernel

/-- Own, shared and device accesses of AMO and CAS that go on, wait or stop: alignment, a fenced and a damaged member, a release; a
memory core's address of aperture 8; an own doubleword in error. -/
theorem witness_OwnAtomics :
    (let far1 := fun w : Word => mach 0 [0x1000000100000100, w]
     let m := sorusMember 0 1
     (match resolve (far1 5) 0 [0, 1] 0x1000000100000100 with
       | .ok pl => pl == .raw m 0x100 && !touchesArea (far1 5) 0 pl 8 | _ => false) = true ∧
     (mach 0 [0x104]).frondOf 0 = none ∧ freezes (.amo 3 1 0 1 0) (mach 0 [0x104]) 0x11 = true ∧
     gives (.amo 3 1 0 1 0) (far1 5) (fun t => memGet t.mem (scratchKey m 0x100) == 5 && (actOf t).reg 3 == 0) = true ∧
     freezes (.cas 3 0 1 0) (withElem (far1 5) m (fun E => { E with mode := .fenced })) 0x17 = true ∧
     freezes (.cas 3 0 1 0) { far1 5 with poison := [scratchKey m 0x100] } 0x18 = true ∧
     (2 : BitVec 2).getLsbD 1 = true ∧
     gives (.amo 3 1 0 1 2) { far1 5 with fabric := farPosted.fabric } (fun t => (t.elem 0).stalled && t.mem == []) = true) ∧
    (let ps := planned (plan (damaged 0x100) 0 { aps := [0, 1], rd := true, wr := true, natural := true } 0x100 8)
     ps.length = 1 ∧ fails (readPieces (damaged 0x100) ps 0) = true ∧ fails (readPieces (mach 0 []) ps 0) = false ∧
       (writePieces (mach 0 []) ps (wordBytes 5) 0).2 = none ∧ (writePieces (damaged 0x104) ps (wordBytes 5) 0).2 ≠ none) ∧
    fails (plan (mach mem0 []) mem0 { aps := [0, 8], rd := true, wr := true, natural := true } 0x8000000000001000 8) = false ∧
    isMemCore (mach mem0 []).cur = true := by decide +kernel

/-- Nine members arrive at scope 3: all but element 1, which waits for its arrival on q3, have arrived. -/
def atBarrier (n : Nat) : State :=
  let f := fl 1 (some (enginePort 0)) (.barrier 3 false 3)
  withChan (withCtx (flown f) (fun C => { C with barriers := [{
    scope := 3, place := 0, episode := 0, counts := ((C.scopeMembers 0 3).filter (· != 1)).map (·, n), waiting := [] }] })) 1 3
    { bound with cont := some { entry := 0x40, kind := .barrier, fired := none } }

theorem witness_FencesBarriersScopes_arrival : (atBarrier 1).Arrives 0 (fl 1 (some (enginePort 0)) (.barrier 3 false 3)) ∧
    gives (.barrierArrival 0) (atBarrier 1) (fun t => ((t.chan 1 false 3).cont.bind (·.fired)) == some (words8 [1, 3, 9])) = true ∧
    gives (.barrierArrival 0) (atBarrier 0) (fun t => ((t.chan 1 false 3).cont.map (·.fired)) == some none) = true := by
  unfold State.Arrives; decide +kernel

/-- The same with element 1 a held member of a frond: its firing is a message of the engine port. -/
theorem witness_FencesBarriersScopes_held : (State.holdsFirings { atBarrier 1 with fronds := [frond1 true] } 1) = true ∧
    (State.holdsFirings { atBarrier 1 with fronds := [frond1 true] } 0) = false ∧
    gives (.barrierArrival 0) { atBarrier 1 with fronds := [frond1 true] } (fun t => ((t.chan 1 false 3).cont.map (·.fired)) == some none &&
      t.fabric.any (fun f => f.src == enginePort 0 && f.dst == some 1)) = true := by decide +kernel

theorem witness_FencesBarriersScopes_mark : (flown (fl 0 (some 1) (.msg 2 m0 ret0))).postedOf 0 = [] ∧
    (fl 0 (some 1) (.msg 2 m0 ret0)).toMember ((mach 0 []).members 0 3) true = true ∧
    (withChan (mach 0 []) 0 0 { bound with cont := some { entry := 0, kind := .now, fired := none } }).chan 0 false 0 ≠ bound ∧
    (mach 0 []).members 0 31 = [] := by decide

theorem witness_FencesBarriersScopes : farPosted.postedOf 0 ≠ [] ∧ 1 ∈ farPosted.members 0 3 ∧ 1 ∉ farPosted.members 0 0 ∧
    (barFault (withChan (mach 0 []) 0 0 bound) (actOf (mach 0 [])) 0x40 3).isNone = true ∧
    ((barFault (mach 0 []) (actOf (mach 0 [])) 0x40 3).map (·.code)) = some 0x07 ∧
    (flown (fl 0 (some 1) (.barrier 3 false 0))).flight 0 = some (fl 0 (some 1) (.barrier 3 false 0)) ∧
    (loadBytes (mach 0 []) { aps := [0], rd := true, align := 8 } 0x100 24).1 = mach 0 [] ∧
    scopeOk [4] = false ∧ fld (31 : Word) 63 5 = 0 ∧ (mach 0 []).ctxAt 0 ≠ none := by decide +kernel

theorem witness_Sends : fails (msgTarget 0 0x10) = true ∧ fails (msgTarget 0 0xF) = false ∧ ownCheck (mach 0 []) 0xF000 4096 = none ∧
    (ownCheck (withElem (mach 0 []) 0 (fun E => { E with regions := Vector.replicate 8 0 })) 0 1).isSome = true ∧
    fails (ownSource (mach 0 []) 0xF000 1) = false ∧ ((mach 0 []).elem 0).avail = 16 := by decide +kernel

theorem witness_WorkQueues : ((mach 0 []).ctxAt 0).any (fun C => (C.scopeMembers 0 3).length == 9 && (C.scopeMembers 0 31).isEmpty) = true ∧
    (flown (fl 0 (some (enginePort 0)) (.work 3 [0, 1] 2 m0 ret0))).flight 0 = some (fl 0 (some (enginePort 0)) (.work 3 [0, 1] 2 m0 ret0)) ∧
    (deliverable (withChan (withChan (mach 0 []) 1 0 bound) 0 0 bound) 0 [{ die := 0, scope := 3, members := [0, 1], q := 0, msg := m0 }] []).map
      (·.2) = [1] := by decide

theorem witness_MessageAcceptance : (flown (fl 1 (some 0) (.msg 2 m0 ret0))).refusal (fl 1 (some 0) (.msg 2 m0 ret0)) = none ∧
    waitsForRelease (mach 0 []) 0 m0 = false ∧ (mach 0 []).isHeldMember 0 = false ∧
    (flown (fl 1 none (.msg 2 m0 ret0))).refusal (fl 1 none (.msg 2 m0 ret0)) = some 1 ∧
    (withElem (mach 0 []) 0 (fun E => { E with mode := .fenced })).refusal (fl 1 (some 0) (.msg 2 m0 ret0)) = some 4 ∧
    256 * b0.rsize.toNat = 256 ∧ b0.wp.toNat + 256 * (1 + b0.rsize.toNat) ≤ 65536 ∧
    ({ base := 64, log2n := 4, en := true, w := 3 } : Ring).full (mach 0 []) 0 = false ∧
    ({ base := 64, log2n := 4, en := true, w := 16 } : Ring).full (mach 0 []) 0 = true ∧ (mach 0 []).releases 0 = false := by decide

/-- A firing for channel 3 of element 1: held while it is a member of the frond, and fired where it is not; a packet waits at a fence. -/
def firing : Flight := fl (enginePort 0) (some 1) (.msg 3 { m0 with kind := .firing } { ret0 with notice := none, credit := none })
theorem witness_MessageAcceptance_firing :
    (let s := withChan (flown firing) 1 3 { bound with cont := some { entry := 0x40, kind := .event 6, fired := none } }
     s.Arrives 0 firing ∧ s.refusal firing = none ∧ s.holdsFirings 1 = false ∧
     gives (.messageAccept 0) s (fun t => ((t.chan 1 false 3).cont.bind (·.fired)) == some m0.words && t.fabric == []) = true ∧
     gives (.messageAccept 0) { s with fronds := [frond1 true] } (fun t => ((t.chan 1 false 3).cont.map (·.fired)) == some none &&
       (t.chan 1 false 3).queue == [{ m0 with kind := .firing }]) = true) ∧
    (let f := fl 1 (some 0) (.msg 15 { m0 with kind := .packet } ret0)
     (withElem (flown f) 0 (fun E => { E with mode := .fenced })).refusal f = some 4) := by
  unfold State.Arrives; decide

theorem witness_AllowanceAndNotices : fld (0xF10 : Word) 63 12 = 0 ∧ fld (0x11 : Word) 4 0 = 17 ∧
    (flown (fl 1 (some 0) .credit)).flight 0 = some (fl 1 (some 0) .credit) ∧
    (flown (fl 1 (some 0) (.notice (words8 [1])))).flight 0 = some (fl 1 (some 0) (.notice (words8 [1]))) ∧
    (mach 0 []).moving (((mach 0 []).ctxOf 0).getD 0) = true ∧ (mach 0 []).isFenced 0 = false ∧ (mach 0 []).releases 0 = false ∧
    (mach 0 []).leads 0 = false := by decide

theorem witness_Bindings : (let x : Word := 0x0100200001000300
    fld x 7 4 = 0 ∧ fld x 63 56 = 1) ∧
    (let x : Word := 0x0001200001000300
     fld x 7 4 = 0 ∧ fld x 63 56 = 0 ∧ x.getLsbD 16 = false ∧ fld x 39 32 = 0 ∧ fld x 47 32 + 256 * (1 + fld x 55 48) ≤ 0x10000 ∧
       regionOverlap ((mach 0 []).chansOf (actOf (mach 0 []))) 0 (bindingOf x) = false) ∧
    regionOverlap ((withChan (mach 0 []) 0 1 bound).chansOf (actOf (mach 0 []))) 0 b0 = true ∧
    ContKind.awaitsFiring (.event 0) = true ∧ ContKind.awaitsFiring (.time 0) = false := by decide

/-- A sealed and an open bin set, of two bins at 0x1000. -/
def bins1 (shut : Bool) : BinSet := { kind := 1, capl := 0, count := 2, base := 0x1000, applied := 3, isSealed := shut }

theorem witness_Bins : (bins1 true).base + (bins1 true).extent ≤ 65536 ∧ 8 ≤ (bins1 true).stride ∧
    binOverlap ((mach 0 []).elem 0) 0 (bins1 false) = false ∧ (mach 0 []).isComposed 0 = false ∧ fld (0x21010 : Word) 28 16 = 2 ∧
    (flown (fl 1 (some 0) (.items 0 [(1, 5)] ret0))).flight 0 = some (fl 1 (some 0) (.items 0 [(1, 5)] ret0)) ∧
    ((actOf (mach 0 [0, 1])).reg 1).toNat < 2 ∧ 2 ≤ ((actOf (mach 0 [0, 2])).reg 1).toNat ∧ 0 < 2 ^ 32 - 1 := by decide

/-- BINCFG of two bins over another set, and over an open set of its own number; an item for key 5 goes to bin 1 of two. -/
theorem witness_Bins_refused : binOverlap (((mach 0 []).setElem 0 { Elem.reset with bins := vset Elem.reset.bins 1 (some (bins1 true)) }).elem 0) 0
      (bins1 false) = true ∧ (bins1 false).kind.toNat ≤ 4 ∧ (bins1 false).isSealed = false ∧ (0x21018 : Word).getLsbD 3 = true ∧
    ((mach 0 []).applyItem 0 (bins1 false) (5, 9)).mem = [(0x1008, 1), (0x100C, 9)] ∧ (mach 0 []).poison = [] := by decide

/-- BINSEAL and BINRD with a reserved bit and of an absent set; an item for it; a count that wraps. -/
theorem witness_Bins_absent : fld (0x8 : Word) 63 3 ≠ 0 ∧ freezes (.binseal 3 0) (mach 0 [0x8]) 0x26 = true ∧
    vget none ((mach 0 []).elem 0).bins 0 = none ∧ freezes (.binrd 3 0 1) (mach 0 []) 0x28 = true ∧
    (let f := fl 1 (some 0) (.items 0 [(1, 5)] ret0)
     (flown f).Arrives 0 f ∧ (flown f).refusal f = none ∧ ret0.notice ≠ none) ∧ binApply 0 0 [2 ^ 32 - 1, 7] 3 = [0, 7] := by
  unfold State.Arrives; decide +kernel

theorem witness_Bins_frond : (withAct (mach 0 []) (fun A => { A with frond := true })).Runs
    (actOf (withAct (mach 0 []) (fun A => { A with frond := true }))) ∧ farPosted.postedOf 0 ≠ [] ∧ (mach 0 []).postedOf 0 = [] := by decide

theorem witness_KeyRoutedSends : (mach 0 []).members 0 3 ≠ [] ∧ (mach 0 []).members 0 31 = [] ∧ fld (0x703 : Word) 15 11 = 0 ∧
    fld (0x803 : Word) 15 11 ≠ 0 ∧ fld (0x20 : Word) 7 5 ≠ 0 := by decide

theorem witness_Events : fld (0xFFFF : Word) 63 16 = 0 ∧ fld (0x10000 : Word) 63 16 ≠ 0 ∧ condOk 0x10000 = true ∧ fld (0x200040 : Word) 23 20 = 2 ∧
    (flown (fl 1 (some (enginePort 0)) (.evReq 0 6 9))).flight 0 = some (fl 1 (some (enginePort 0)) (.evReq 0 6 9)) ∧
    (flown (fl 1 (some (enginePort 0)) (.evArm 6 false 1))).flight 0 = some (fl 1 (some (enginePort 0)) (.evArm 6 false 1)) ∧
    condHolds 0x10006 9 = true := by decide

/-- A machine whose element 0 has a configured tile 0, owns the FULL slots 0 to 3, and has pushed a fill and a product. -/
def fillCmd : Cmd :=
  { seq := 0, bits := 0, q := 2, kind := .fill 0 0x03000100 false, held := false, started := false, ended := false, shares := [],
    replaced := 0, comps := [], after := [], startedAt := 0, filled := 0 }
def prodCmd : Cmd :=
  { seq := 1, bits := 0, q := 2, kind := .product 0 1 1 1 32 false (some (1, 3)), held := false, started := true, ended := false,
    shares := [{ pos := 0, elem := 0, aslot := 0, state := .running 0, bA := 1, fA := 3 }], replaced := 0, comps := [], after := [],
    startedAt := 0, filled := 0 }
def fullSlot : Slot := { state := .full, owner := some 0, fmt := 3, releasing := false }
def tiled (q : List Cmd) : State :=
  { withElem (mach 0 []) 0 (fun E => { E with tiles := vset E.tiles 0 { Tile.blank with shape := 1 }, mq := q }) with
    slots := [(0, fullSlot), (1, fullSlot), (2, fullSlot), (3, { fullSlot with releasing := true })] }

theorem witness_MatrixRegisters : isMatrix (.mstat 3) = true ∧ isCore mem0 = false ∧ isCore 0 = true ∧
    (tiled []).tileBusy 0 0 = false ∧ (tiled [prodCmd]).tileBusy 0 0 = true ∧ ((tiled []).tile 0 0).shape ≠ 0 ∧ ((tiled []).tile 0 1).shape = 0 ∧
    claimOk 0x278 = true ∧ claimOk 0x978 = false ∧ claimOk 0x27F = false ∧ gangOk 0 0x1 = true ∧ gangOk 0 0x2 = false ∧
    (claimRun 0x100).all (fun n => (tiled []).ownsSlot 0 n) = true ∧ (claimRun 0x105).all (fun n => (tiled []).ownsSlot 0 n) = false ∧
    sliceBitsOk 0x101F = true ∧ sliceOk true 1 0x101F = true ∧ sliceOk true 1 0x1020 = false ∧ fld (0x8 : Word) 7 3 ≠ 0 ∧
    fld (0x107 : Word) 7 3 = 0 ∧ ((tiled []).elem 0).heldCmd = none := by decide

/-- Slices that take code 0x34 or 0x30, and a read of a tile that a command writes. -/
theorem witness_MatrixRegisters_slices : fld (0x40 : Word) 7 6 ≠ 0 ∧ fld (0x4000 : Word) 63 14 ≠ 0 ∧
    freezes (.mrdr 3 0 0) (withAct (tiled []) (fun A => { A with w := vset A.w 0 0x40 })) 0x34 = true ∧ freezes (.mwrc 3 0 1) (tiled []) 0x30 = true ∧
    (let s := withElem (tiled [prodCmd]) 0 (fun E => { E with tiles := vset E.tiles 0 { shape := 1, kcnt := 0, hist := [(leBytes 4096 7, [])], doomed := false } })
     s.tileBusy 0 0 = true ∧ (s.tile 0 0).hist.all (fun h => h.2 == []) = true ∧ s.poison = [] ∧
     gives (.mrdr 3 0 0) s (fun _ => true) = true) := by decide +kernel

theorem witness_MatrixPushes : fillOk 0x03000100 = true ∧ fillOk 0x03000000 = false ∧
    (fillRun 0x03000100).all (fun n => (tiled []).ownsSlot 0 n) = true ∧ (fillRun 0x03000105).all (fun n => (tiled []).ownsSlot 0 n) = false ∧
    (fillSource (tiled []) 0x100 0x03000100).isNone = true ∧ (fillSource (tiled []) 0x101 0x03000100).isSome = true ∧
    gangMembers (0 : Word) = [] ∧ gangMembers 0x3 ≠ [] ∧ 16 ≤ (List.replicate 16 fillCmd).length ∧
    fld (0x10000 : Word) 27 16 < (bins1 true).count ∧ fillCmd.unstarted = true ∧ fillCmd.isGang = false ∧
    ((tiled [{ prodCmd with started := false, held := true }]).elem 0).heldCmd = some { prodCmd with started := false, held := true } := by decide +kernel

/-- MLEN.set by an element within a frond, of a descriptor with a reserved bit, of no command, of an absent and an open set, of a bin that
the set does not have, and of one that patches the held command. -/
theorem witness_MatrixPushes_patch :
    (let held := { prodCmd with started := false, held := true }
     let s := fun (q : List Cmd) (B : Option BinSet) (x : Word) =>
       withAct (withElem (tiled q) 0 (fun E => { E with bins := vset E.bins 0 B })) (fun A => { A with w := vset A.w 0 x })
     freezes (.mlenSet 0) (leading (frond1 true) 0) 0x63 = true ∧ freezes (.mlenSet 0) (s [held] none 8) 0x34 = true ∧
     freezes (.mlenSet 0) (s [] none 0) 0x35 = true ∧ freezes (.mlenSet 0) (s [held] none 0) 0x28 = true ∧
     freezes (.mlenSet 0) (s [held] (some (bins1 false)) 0x10000) 0x36 = true ∧
     freezes (.mlenSet 0) (s [held] (some (bins1 true)) 0x20000) 0x26 = true ∧
     gives (.mlenSet 0) (s [held] (some (bins1 true)) 0x10000) (fun t => (t.elem 0).mq.map (·.held) == [false]) = true) := by decide +kernel

theorem witness_MatrixWork : (tiled [fillCmd]).MemOk ∧ (((tiled [fillCmd]).elem 0).mq.find? Cmd.unstarted) = some fillCmd ∧
    (tiled [fillCmd]).ctxRuns 0 = true ∧ arithRunning ((tiled [fillCmd]).elem 0) = false ∧
    (match operandTest (tiled []) 0 none 0 1 (shapeM 1) with | .ok (some b) => b == 1 | _ => false) = true ∧
    sameFmt (tiled []) 0 0 1 = true ∧
    ((tiled [prodCmd]).elem 0).mq.find? (fun c' => c'.running && c'.seq.toNat == prodCmd.seq.toNat) = some prodCmd ∧
    prodCmd.shares.find? (fun h => h.pos == 0) = some { pos := 0, elem := 0, aslot := 0, state := .running 0, bA := 1, fA := 3 } ∧
    ((tiled [{ fillCmd with started := true }]).elem 0).mq.find? (fun c' => c'.running && c'.isFill) = some { fillCmd with started := true } ∧
    (match fillKeys (tiled []) 0 0x100 0x03000100 false with | .ok l => l.length == 2048 | _ => false) = true ∧
    ((tiled []).slot 0 3).releasing = true ∧ (tiled []).slotUsed 0 3 = false := by decide +kernel

/-- Products that do not start, or end at their start; the shares of one that is ganged. -/
theorem witness_MatrixWork_starts :
    (let waits := { prodCmd with started := false, kind := .product 0 1 1 1 32 false none, shares := prodCmd.shares.map (fun h => { h with state := .waiting }) }
     let gang := { waits with kind := .product 0 1 1 1 32 true none }
     let slots := fun (q : List Cmd) (x : Slot) => { tiled q with slots := [(0, fullSlot), (1, x)] }
     let status := fun (n : Nat) (t : State) => t.fabric.any (fun f => match f.body with | .msg _ m _ => fld (vget 0 m.words 2) 7 0 == n | _ => false)
     let start := Instr.matrixCommandStart 0 1
     ((tiled [waits]).elem 0).mq.find? Cmd.unstarted = some waits ∧ (tiled [waits]).ctxRuns 0 = true ∧
     arithRunning ((tiled [prodCmd, waits]).elem 0) = true ∧ arithRunning ((tiled [waits]).elem 0) = false ∧
     (match operandTest (slots [waits] { fullSlot with state := .filling }) 0 none 1 1 (shapeN 1) with | .ok none => true | _ => false) = true ∧
     gives start (slots [waits] { fullSlot with state := .empty }) (status 2) = true ∧ gives start (slots [waits] Slot.reset) (status 3) = true ∧
     sameFmt (slots [] { fullSlot with fmt := 0xFF }) 0 1 1 = false ∧
     gives start (slots [waits] { fullSlot with fmt := 0xFF }) (status 5) = true ∧
     gives start (slots [gang] fullSlot) (fun t => (t.elem 0).mq.map (·.started) == [true] && t.fabric == []) = true ∧
     gives start (slots [gang] Slot.reset) (status 3) = true ∧
     (let c := { gang with started := true, kind := .product 0 1 1 1 32 true (some (1, 3)) }
      (c.running = true ∧ (match shareTest (tiled [c]) 0 c { pos := 0, elem := 0, aslot := 0, state := .waiting, bA := 1, fA := 3 } with
        | .ok (some b) => b == 1 | _ => false) = true) ∧
      gives (.matrixStep 0 1 0) (tiled [c]) (fun t => (t.elem 0).mq.map (fun c => c.shares.map (·.state)) == [[.running 0]]) = true ∧
      gives (.matrixStep 0 1 0) (withElem (tiled [c]) 0 (fun E => { E with mode := .frozen })) (fun t =>
        (t.elem 0).mq.map (fun c => c.shares.map (·.state)) == [[.failed 1]]) = true ∧
      gives (.matrixStep 0 1 0) (withElem (tiled [c]) 0 (fun E => { E with tiles := vset E.tiles 0 Tile.blank })) (fun t =>
        (t.elem 0).mq.map (fun c => c.shares.map (·.state)) == [[.failed 2]]) = true ∧
      gives (.matrixStep 0 1 0) { tiled [c] with slots := [(1, fullSlot)] } (fun t =>
        (t.elem 0).mq.map (fun c => c.shares.map (·.state)) == [[.failed 3]]) = true ∧
      gives (.matrixStep 0 1 0) { tiled [c] with slots := [(0, { fullSlot with state := .empty }), (1, fullSlot)] } (fun t =>
        (t.elem 0).mq.map (fun c => c.shares.map (·.state)) == [[.failed 4]]) = true ∧
      gives (.matrixStep 0 1 0) { tiled [c] with slots := [(0, { fullSlot with fmt := 0xFF }), (1, fullSlot)] } (fun t =>
        (t.elem 0).mq.map (fun c => c.shares.map (·.state)) == [[.failed 5]]) = true)) := by decide +kernel

/-- The ends of a product: with a failed share, with replaced elements, and with neither. -/
theorem witness_MatrixWork_ends :
    (let ends := fun (st : ShareState) (n : Nat) => { prodCmd with shares := prodCmd.shares.map (fun h => { h with state := st }), replaced := n }
     let status := fun (n : Nat) (t : State) => t.fabric.any (fun f => match f.body with | .msg _ m _ => fld (vget 0 m.words 2) 7 0 == n | _ => false)
     gives (.matrixCommandEnd 0 1) (tiled [ends (.failed 2) 0]) (status 7) = true ∧ gives (.matrixCommandEnd 0 1) (tiled [ends .done 3]) (status 1) = true ∧
     gives (.matrixCommandEnd 0 1) (tiled [ends .done 0]) (status 0) = true) := by decide +kernel

/-- A block of a product whose sum is NaN: the element before it is a NaN with code 5, or an operand is a NaN (R206, R207). -/
theorem witness_MatrixWork_nan : Fmt.f32.decode 0x7FC00005 = .nan ∧ (prodCmd.shares.map (·.state)) = [.running 0] ∧ (tiled [prodCmd]).poison = [] ∧
    (let s := { tiled [prodCmd] with mem := memWrite [] (tileKey 0 0 0) (leBytes 4 0x7FC00005) }
     s.MemOk ∧ leNat (memRead s.mem (tileKey 0 0 0) 4) = 0x7FC00005 ∧ (s.tile 0 0).doomed = false) ∧
    (Fmt.f32.decode 0x7FC00005).add (.nan) = .nan := by decide +kernel

/-- A fill that waits for a posted write; one that is not the first of two; one whose source is fenced; one that is copied. -/
theorem witness_MatrixWork_fills :
    (let c := { fillCmd with after := [0] }
     ((tiled [c]).elem 0).mq.find? Cmd.unstarted = some c ∧ { tiled [c] with fabric := farPosted.fabric }.flight 0 ≠ none) ∧
    (let c := { fillCmd with started := true, startedAt := 5 }
     ((tiled [c, { c with seq := 7, startedAt := 4 }]).elem 0).mq.any (fun d => decide (d.startedAt < c.startedAt)) = true) ∧
    (match fillKeys (withElem (tiled []) 64 (fun E => { E with mode := .fenced })) 0 0x100000000 0x03100100 false with
      | .error st => st == 8 | _ => false) = true ∧
    fillCount 0x03000100 = 1 ∧ gives (.matrixStep 0 0 0) (tiled [{ fillCmd with started := true }]) (fun t =>
      (t.slot 0 0).state == .full && (t.elem 0).mq.map (·.filled) == [1]) = true := by decide +kernel

/-- A sheet of one input cell and one formula of it. -/
def cellIn : CellEntry :=
  { rows := 1, cols := 4, fmt := 8, home := 0, buf0 := 0x4000, buf1 := 0x4100, q := 2, entry := 0xFFFF, lag := 0, prec := [], state := .fresh,
    inWave := false, next := false, wpend := true, wtaken := false, cur := false, flipGen := 0 }
def cellF : CellEntry := { cellIn with buf0 := 0x4200, buf1 := 0x4300, entry := 0x100, prec := [1], state := .stale, wpend := false }
def sheet1 : Sheet := { Sheet.blank with gen := 5, cells := [(1, cellIn), (2, cellF)], reqs := [.core 0 3] }
def wave1 : Wave := { req := .core 0 3, set := [2], failed := [] }
def cellE : CellEntry := { cellF with inWave := true, state := .evaluating }
def withSheet (s : State) (S : Sheet) : State := withCtx s (fun C => { C with sheets := [(1, S)] })
/-- Words as bytes. -/
def bytesOf (l : List Word) : List Byte := l.flatMap wordBytes
/-- A record of 64 bytes that defines cell 3 of sheet 1 at element 0, and that binds it to entry 0x100 on q2. -/
def cellRecord : List Word := [0x0004000100010003, 0x0000010000000208, 0x2000000000000000, 0x4400, 0x4500, 0, 0, 0]

theorem witness_SheetInstructions :
    (match (withSheet (mach 0 []) sheet1).ctxAt 0 with | some C => (defineFault C (fun i => cellRecord.getD i 0)).isSome | none => false) = true ∧
    (bindFault (recWord (bytesOf cellRecord))).isNone = true ∧ repOk 0x40 = true ∧ repOk 0x41 = false ∧
    touchesArea (mach 0 []) 0 (.own 0x40) 64 = false ∧ (mach 0 []).engineBusy 1 = false ∧
    (withSheet (mach 0 []) sheet1).sheet 0 1 = some sheet1 ∧ sheet1.cell 1 = some cellIn ∧ cellIn.isInput = true ∧ cellF.isInput = false ∧
    sheet1.cell 3 = none ∧ sheet1.cycle 1 [(2, false)] ≠ [] ∧ sheet1.cycle 1 [(2, true)] = [] ∧ cellWordOk 0x10001 = true ∧
    ({ sheet1 with wave := some wave1 } : Sheet).cell 2 = some cellF ∧ ({ sheet1 with wave := some wave1 } : Sheet).edits.length < 64 ∧
    cellWordOk 0x40 = false ∧ fld (0x04000103 : Word) 15 10 = 0 ∧ fld (0x40 : Word) 15 6 ≠ 0 := by decide

/-- A sheet as the engine of element 0's die holds it, and that element with a record at 0x100 and register b. -/
def editing (S : Sheet) (rec : List Word) (y : Word) : State := { withSheet (mach 0 [0x100, y]) S with mem := memWrite [] (scratchKey 0 0x100) (bytesOf rec) }
/-- A record that binds cell 1 to entry 0x100 on q2, with one precedent, cell 2. -/
def bindRecord : List Word := [0x0004000100010001, 0x0000010000001208, 0, 0, 0, 0x2, 0, 0]

def edit1 : Edit :=
  { src := 0, op := 3, cell := 1, q := 0, entry := 0, lag := 0, prec := [], desc := 0x40, org := (mach 0 []).origin blankAct }

/-- Records and REP words that are malformed, a full edit queue, a cycle, and one that is no cycle where its edge is lagged. -/
theorem witness_SheetInstructions_bind :
    (match loadBytes (editing sheet1 bindRecord 0x40) { aps := [0], rd := true, align := 8 } 0x100 64 with
      | (t, .ok bs) => t == editing sheet1 bindRecord 0x40 && bs == bytesOf bindRecord | _ => false) = true ∧
    freezes (.cbind 3 0 1) (editing sheet1 (bindRecord.set 7 1) 0x40) 0x40 = true ∧
    freezes (.crebind 3 0 1) (editing sheet1 bindRecord 0x41) 0x40 = true ∧ freezes (.cbind 3 0 1) (editing sheet1 bindRecord 0x8000) 0x08 = true ∧
    freezes (.cbind 3 0 1) (mach 0 [0x100, 0x40]) 0x43 = true ∧
    freezes (.cbind 3 0 1) (editing { sheet1 with cells := [] } bindRecord 0x40) 0x43 = true ∧
    freezes (.cbind 3 0 1) (editing { sheet1 with cells := [(1, cellF)] } bindRecord 0x40) 0x43 = true ∧
    freezes (.cbind 3 0 1) (editing sheet1 bindRecord 0x40) 0x41 = true ∧
    puts (.cbind 3 0 1) (editing sheet1 (bindRecord.set 1 0x0000010000011208) 0x40) 3 0 = true ∧
    puts (.crebind 3 0 1) (editing { sheet1 with wave := some wave1 } bindRecord 0x40) 3 1 = true ∧
    puts (.cbind 3 0 1) (editing { sheet1 with edits := List.replicate 64 edit1 } bindRecord 0x40) 3 2 = true
    := by decide +kernel

/-- CRD, CWR, CDEF, CDROP and CSTAT of malformed operands, and CDEF of a cell that stands. -/
theorem witness_SheetInstructions_operands :
    (let crd := fun (h x : Word) (y : Word) => editing sheet1 [h, x, 0] y
     freezes (.crd 3 0 1) (crd 0x1 0 0x400040) 0x40 = true ∧ freezes (.crd 3 0 1) (crd 0x101 0x20001 0x400040) 0x40 = true ∧
     freezes (.crd 3 0 1) (crd 0x101 1 0x400041) 0x40 = true ∧ freezes (.crd 3 0 1) (crd 0x101 1 0x408000) 0x08 = true ∧
     puts (.crd 3 0 1) (crd 0x101 1 0x400040) 3 0 = true) ∧
    freezes (.cwr 3 0 1) (mach 0 [0x10001, 0x40]) 0x40 = true ∧ freezes (.cwr 3 0 1) (mach 0 [0x10001, 0x408000]) 0x08 = true ∧
    freezes (.cdrop 3 0 1) (mach 0 [0x10001, 0x1]) 0x40 = true ∧ freezes (.cdrop 3 0 1) (mach 0 [0x10001, 0x40]) 0x43 = true ∧
    freezes (.cstat 3 0 1) (mach 0 [0x40]) 0x40 = true ∧ freezes (.cstat 3 0 0) (mach 0 [0x40]) 0x40 = true ∧
    (let r := cellRecord.set 1 0x0000010000000201
     puts (.cdef 3 0) (editing sheet1 r 0) 3 0 = true ∧ freezes (.cdef 3 0) (editing sheet1 (r.set 0 0x0004000100010001) 0) 0x43 = true) ∧
    (match (editing sheet1 cellRecord 0).ctxAt 0 with | some C => (defineFault C (recWord (bytesOf (cellRecord.set 1 0x0000000000000008)))).isSome | none => false) = true ∧
    farPosted.engineBusy 1 = true := by decide +kernel

theorem witness_Waves : (withSheet (mach 0 []) sheet1).engineRuns 0 = true ∧ sheet1.wave = none ∧ sheet1.halted = none ∧
    sheet1.reqs = [.core 0 3] ∧
    (let S : Sheet := { sheet1 with wave := some wave1, reqs := [], cells := [(1, cellIn), (2, { cellF with inWave := true })] }
     sortBy (fun e => S.rank e * 65536 + e) (wave1.set.filter (S.cellReady wave1)) = [2] ∧ (S.slots cellF).isSome = true) ∧
    (let S : Sheet := { sheet1 with wave := some wave1, cells := [(1, cellIn), (2, cellE)] }
     S.evaluating 0x600020001 = true) ∧ fld (0x600020001 : Word) 5 0 = 1 ∧
    (let S : Sheet := { sheet1 with wave := some wave1, cells := [(1, cellIn), (2, { cellE with state := .fresh })] }
     (wave1.set.all (fun e => (S.cell e).all (fun c => c.state == .fresh))) = true ∧ S.edits = [] ∧ S.writes = [] ∧ S.reads = []) := by decide

theorem witness_SheetRequests : (flown (fl 0 (some (enginePort 0)) (.crd 1 [1] 0x00400040))).flight 0
      = some (fl 0 (some (enginePort 0)) (.crd 1 [1] 0x00400040)) ∧
    sheet1.holds 0 [1] = false ∧ ({ sheet1 with wave := some wave1 } : Sheet).holds 0 [2] = true ∧ cellIn.isRange = false ∧
    isMemCore cellIn.home = false ∧ cellIn.size ≤ 0x40 ∧ fld cellIn.nextBuf 15 0 + cellIn.size ≤ 65536 ∧ (mach 0 []).poison = [] ∧
    sheet1.queued < 16 := by decide

/-- A stream template over cells 1 to 3 of a sheet, and a stream of it that element 0 owns. -/
def tmpl1 : Template := { sheet := 1, kve := 1, kvn := 1, stateCell := 2, cke := 3, ckn := 1, kint := 4, ring := 12, fq := 2 }
def stream1 : Stream :=
  { ctx := 0, tmpl := tmpl1, owner := 0, q := 3, base := 0x1000, g := 4, p := 0, f := 0, c := 4, r := 0, seq := 0, cgen := 0, phase := .idle,
    ck := [], ckPend := [], queue := [], mask := none, prov := none, stepMode := 0, posted := [], fed := 0, isFeed := false, kept := [],
    trunc := none, w := 0, ovf := false }
def sheet2 : Sheet :=
  { sheet1 with cells := [(1, { cellIn with rows := 8 }), (2, { cellIn with buf0 := 0x4200 }), (3, { cellIn with buf0 := 0x4400 })], reqs := [] }
def streaming (st : Stream) : State := { withCtx (withSheet (mach 0 [5]) sheet2) (fun C => { C with sliceCount := 8, templates := [(7, tmpl1)] }) with
  streams := [(5, st)] }

theorem witness_Streams : (match ownedAt (streaming stream1) 5 with | .ok (sn, st) => sn == 5 && st == stream1 | _ => false) = true ∧
    (streaming stream1).streamBusy stream1 = false ∧ (streaming stream1).stream 6 = none ∧ fld (0x2005 : Word) 63 13 ≠ 0 ∧
    stream1.g < (streaming stream1).capacity stream1 ∧ stream1.p ≤ 0 ∧ stream1.frames < tmpl1.fq ∧
    ({ stream1 with queue := [{ seq := 1, kind := .frame 0 true [] }, { seq := 2, kind := .frame 0 true [] }] } : Stream).frames = tmpl1.fq ∧
    (frameFault (fun i => if i = 0 then 0x1000000000 else 0)).isNone = true ∧ (streaming stream1).cwrsInFlight 1 = false ∧
    2 * (8 + 4 * (1 + stream1.g - stream1.c)) + 64 ≤ (streaming stream1).ringFree stream1 ∧ (streaming stream1).sheetFull 0 1 = false ∧
    stream1.g % tmpl1.kint = 0 ∧ (streaming stream1).canCopy stream1 0 = true ∧ (stream1.bestSlot 0).isNone = true ∧
    ({ streaming stream1 with streams := [] } : State).templateOk 0 6 tmpl1 = true ∧
    sheet2.cell tmpl1.stateCell = some { cellIn with buf0 := 0x4200 } ∧ sheet2.cell (tmpl1.cke + stream1.ckSlot) = some { cellIn with buf0 := 0x4400 } ∧
    (streaming stream1).MemOk ∧ (streaming stream1).poison = [] ∧ isCore cellIn.home = true ∧ (streaming stream1).frondOf cellIn.home = none ∧
    fld cellIn.nextBuf 15 0 + cellIn.size ≤ 65536 ∧ cellIn.wtaken = false ∧ (streaming stream1).canCopy stream1 stream1.ckSlot = true ∧
    ({ streaming stream1 with streams := [] } : State).canCopy (Stream.opened 0 tmpl1 0 3 0) 0 = true ∧ (streaming stream1).engineBusy 1 = false ∧
    fails (msgTarget 0 3) = false := by decide

/-- The stream in a step at its capacity, with a frame that truncates; with a full ring, and with a full sheet. -/
theorem witness_Streams_statuses :
    (let st : Stream := { stream1 with phase := .step, queue := [{ seq := 1, kind := .frame 2 false [9] }] }
     st.queue.any st.truncates = true ∧ fails (readTokens (streaming st) 0x100 1).2 = false ∧ (readTokens (streaming st) 0 0).1 = streaming st) ∧
    (let st : Stream := { stream1 with phase := .step, w := 2 ^ 12 }
     (streaming st).ringFree st < 2 * (8 + 4 * (0 + st.g - st.c)) + 64) ∧
    (streaming { stream1 with g := 8 }).capacity { stream1 with g := 8 } ≤ 8 ∧ fld (0x200000 : Word) 63 21 ≠ 0 ∧
    State.sheetFull (withSheet (mach 0 []) { sheet2 with reqs := List.replicate 16 (.core 0 3) }) 0 1 = true ∧
    (match streamAt (streaming { stream1 with owner := 1 }) 5 with | .ok (_, st) => st.owner == 1 | _ => false) = true := by decide +kernel

theorem witness_StreamBoundaries : (let st : Stream := { stream1 with queue := [{ seq := 1, kind := .frame 4 true [9] }] }
    st.phase = .idle ∧ 4 ≤ st.c ∧ st.f ≤ 4) ∧ (streaming stream1).engineRuns 0 = true := by decide

theorem witness_ActivationStarts :
    (let s := withChan (withChan (mach 0 []) 1 2 { bound with queue := [m0] }) 1 9 { bound with queue := [m0], wait := 63 }
     s.canStart 1 = true ∧ s.frondOf 1 = none ∧ selectChan s (s.elem 1).chans (s.elem 1).lastStart = some (2, false)) ∧
    (let s := withChan (mach 0 []) 1 15 { bound with bind := some { b0 with floor := true }, queue := [m0], wait := 63 }
     selectChan s (s.elem 1).chans (s.elem 1).lastStart = some (15, true)) ∧
    selectChan (mach 0 []) ((mach 0 []).elem 1).chans [] = none ∧
    contHolds (mach 0 []) { bound with cont := some { entry := 0, kind := .now, fired := none } } = true ∧
    contHolds (mach 0 []) { bound with queue := [m0] } = false ∧ b0.wp.toNat + 256 ≤ 65536 := by decide

theorem witness_Fronds : bindFieldsOk 0x0000200001000000 = true ∧ bindFieldsOk 0x10 = false ∧
    (((mach 0 []).ctxAt 0).bind (fun C => frondRect C 0 1)).isSome = true ∧ (((mach 0 []).ctxAt 0).bind (fun C => frondRect C 0 31)).isNone = true ∧
    ({ mach 0 [] with fronds := [frond1 true] } : State).frondOf 0 = some (frond1 true) ∧
    ({ mach 0 [] with fronds := [frond1 false] } : State).frondWith 64 ≠ none ∧
    ({ mach 0 [] with fronds := [frond1 false] } : State).fronds.find? (fun f => f.leader == 0 && !f.composed && !f.releasing) = some (frond1 false) ∧
    (frond1 false).members.all (fun m => ((mach mem0 []).elem m).act.isNone) = true ∧ fld (0x100000 : Word) 63 21 = 0 := by decide

theorem witness_Fronds_first : (ctx0 { mach mem0 [] with fronds := [frond1 false] }).serial = false ∧ ((mach mem0 []).elem 0).haltReq = false ∧
    ((mach mem0 []).elem 0).mode = .normal ∧ ((mach mem0 []).elem 0).act = none ∧
    gives (.frondComposed 0) { mach mem0 [] with fronds := [frond1 false] } (fun t => ((t.elem 0).act.map (·.frond)) == some true) = true := by
  decide +kernel

theorem witness_Fronds_release : (leading (frond1 true) 0).releasingOf 0 = none ∧ (leading (frond1 true) 0).frondOf 0 = some (frond1 true) ∧
    (List.range 16).all (fun j => (vget Chan.reset (frond1 true).chans j).queue == []) = true ∧ (mach 0 []).MemOk ∧
    (leading { frond1 false with releasing := true } 0).releasingOf 0 = some { frond1 false with releasing := true } ∧
    gives (.release 3 0) (leading { frond1 false with releasing := true } 0x120000) (fun t => t.fronds == [] &&
      ((vget Chan.reset (t.elem 0).chans 2).queue.map (fun m => vget 0 m.words 0)) == [0x40]) = true := by decide +kernel

/-- The firing that a member's queue holds reaches its slot at the release. -/
theorem witness_Fronds_held : gives (.release 3 0) (withChan (leading { frond1 false with releasing := true } 0) 1 3
      { bound with queue := [{ m0 with kind := .firing }], cont := some { entry := 0x40, kind := .event 6, fired := none } })
    (fun t => (t.chan 1 false 3).queue == [] && ((t.chan 1 false 3).cont.bind (·.fired)) == some m0.words) = true := by decide +kernel

/-- The leader of a frond arms a frond channel; the same activation outside the frond's set would find no binding. -/
theorem witness_YieldArms_frond :
    (let f := { frond1 true with chans := vset (frond1 true).chans 3 bound }
     let s := leading f 0x330040
     s.Runs (actOf s) ∧ (actOf s).frond = true ∧ s.frondOf s.cur = some f ∧ (s.chan 0 true 3).bind ≠ none ∧ (s.chan 0 true 3).cont = none ∧
     gives (.yield 0 1) s (fun t => ((t.chan 0 true 3).cont.map (·.entry)) == some 0x40 && (t.chan 0 false 3).cont == none) = true) := by
  decide +kernel

/-- A stopped transfer goes on with its own instruction, and is over where another issues (R300). -/
theorem witness_BlockTransfers_again :
    (let s := withElem (mach mem0 []) mem0 (fun E => { E with transfer := some { insn := .mcld 0 1, pc := 0, granules := 1, digest := 5 } })
     ((s.issue mem0 (actOf s) (.mcld 0 1)).elem mem0).transfer.isSome = true ∧ ((s.issue mem0 (actOf s) (.mcld 0 2)).elem mem0).transfer = none) := by
  decide

theorem witness_BlockTransfers : isMemCore (mach mem0 []).cur = true ∧ transferOk 0x400040 false = true ∧ transferOk 0x400041 false = false ∧
    (match resolve (mach mem0 []) mem0 [8, 9] 0x9000000000000040 with | .ok p => p == .host 0x40 | _ => false) = true ∧
    fails (plan (mach mem0 []) mem0 { aps := [0], wr := true } 0x40 64) = false ∧
    (match transferFrom (mach mem0 []) mem0 false false 0x9000000000000040 0x40 64 0 0 1 with | (_, _, none) => true | _ => false) = true ∧
    (match granuleFar (mach mem0 []) mem0 false false 0x9000000000000040 64 0 with | .ok (_, k) => k == hostKey (hostAt (ctxFn 0) 0x40) | _ => false) = true ∧
    pushOk 0x0040000100400040 = false ∧ pushOk 0x0000004000400040 = true ∧ ownCheck (mach mem0 []) 0x40 64 = none ∧
    (flown (fl mem0 (some 0) (.push 2 m0 64 [1] ret0))).flight 0 = some (fl mem0 (some 0) (.push 2 m0 64 [1] ret0)) := by decide +kernel

theorem witness_MemoryCores : isMemCore 0 = false ∧ fld (0x8000000000001000 : Word) 63 60 = 8 ∧ fld (0x8000000000001000 : Word) 11 0 = 0 ∧
    (0x1000 : Word).toNat % 2 ^ pageLog2 0 = 0 ∧ (0x1000 : Word).toNat % 2 ^ pageLog2 1 ≠ 0 ∧ fld (0xFF : Word) 63 8 = 0 ∧ fld (0x100 : Word) 63 8 ≠ 0 ∧
    (({ Ctx.blank [0] [mem0] with } : Ctx).banksOk 0 0 64) = true ∧ fails (ownSource (mach mem0 []) 0x40 64) = false ∧
    isMemCore mem0 = true := by decide +kernel

/-- TLBINV, PGREL.q and WSWR of malformed operands. -/
theorem witness_MemoryCores_operands :
    (let m := fun (x y : Word) => mach mem0 [x, y]
     freezes (.tlbinv 0 1) (m 0x1000 1) 0x10 = true ∧ freezes (.tlbinv 0 1) (m 0x8010000000001000 1) 0x10 = true ∧
     freezes (.tlbinv 0 1) (m 0x8000000000001001 1) 0x19 = true ∧ freezes (.tlbinv 0 1) (m 0x8000000000001000 0x100001) 0x19 = true ∧
     freezes (.pgrelQ 3 0 1) (m 0x1001 0) 0x19 = true ∧ freezes (.pgrelQ 3 0 1) (m 0x1000 5) 0x19 = true ∧
     freezes (.pgrelQ 3 0 1) (m 0x1000 1) 0x19 = true ∧
     gives (.pgrelQ 3 0 1) (m 0x1000 0) (fun t => (t.elem mem0).lastFault == 0x16 || (ctx0 t).quarantine == [(0x1000, 0, 0)]) = true ∧
     freezes (.wswr 3 0 1) (m 0x1 0x400040) 0x19 = true ∧ freezes (.wswr 3 0 1) (m 0x40 0x400041) 0x19 = true ∧
     freezes (.wswr 3 0 1) (m 0x40 0x408000) 0x19 = false) := by decide +kernel

theorem witness_FaultTaken : ((mach 1 []).elem 1).act = some (actOf (mach 1 [])) ∧ ((mach 1 []).elem 1).mode ≠ .fenced ∧
    (mach 1 []).ctxOf 1 = some 0 ∧ ((mach 1 []).ctxAt 1).map (·.sup) = some (some 0) ∧ (mach 1 []).isFenced 0 = false ∧
    (withElem (mach 1 []) 0 (fun E => { E with mode := .fenced })).isFenced 0 = true := by decide

/-- A machine that element 0 supervises, with a frozen element 1 that its w0 names. -/
def frozen (ws : List Word) : State := withElem (mach 0 (0x2000000100000000 :: ws)) 1 (fun E => { E with mode := .frozen, act := some blankAct })

theorem witness_SystemForms : (mach 0 []).isSup = true ∧ (mach 1 []).isSup = false ∧ (mach 0 []).fenceHolds 0 3 = false ∧
    farPosted.fenceHolds 0 3 = true ∧ 0 % 2 ^ 64 + 1800 ≤ (1800 : Word).toNat ∧ apOf 0x8000000000001000 = 8 ∧ fld (0x103E : Word) 4 0 = 30 ∧
    fld (0x030C : Word) 63 13 = 0 ∧ bkptOk 0x3 = true ∧ bkptOk 0x20 = false ∧ bkptOk 0x50 = true ∧ bkptOk 0x13 = false := by decide

theorem witness_DebugForms : (match targetElem (frozen []) 0x2000000100000000 with | .ok t => t == 1 | _ => false) = true ∧
    fails (targetElem (frozen []) 0x2100000100000000) = true ∧ (frozen []).leads 0 = false ∧
    itemAt 65536 0xFFF8 = some (.mem 0xFFF8) ∧ itemAt 65536 0x10000 = none ∧ itemAt 65536 0x1000F8 = some (.w 31) ∧
    (frozen []).itemOpen 1 (.w 31) = true ∧ (mach 0 []).itemOpen 0 (.k 0) = false ∧ Item.writable .digest 1 = false ∧
    (frozen []).itemBad 1 .pc 3 = true ∧ (frozen []).isFenced 1 = false ∧ fld (4 : Word) 63 2 ≠ 0 ∧ fld (3 : Word) 63 2 = 0 ∧
    ((frozen []).elem 1).act = some blankAct ∧ blankAct.wdHeld = none ∧
    ((withElem (frozen []) 1 (fun E => { E with act := E.act.map (frozen []).holdWd })).elem 1).act.map (·.wdHeld) = some (some 0) ∧
    (frozen []).spareLeft 0 = some 0 ∧ isCore 1 = true ∧ (frozen []).isRunning 1 = false := by decide

/-- A fenced core with a slot and a doubleword in error: after REMAP the slot is free and the line wholly in error (R278, R374). -/
theorem witness_DebugForms_remap : (let s := withElem { mach 0 [0x2000000100000000] with poison := [scratchKey 1 0x108] } 1 (fun E => { E with mode := .fenced })
    gives (.remap 3 0) { s with slots := [(5, { fullSlot with owner := some 1, releasing := true })] } (fun t =>
      (t.slot 0 5).owner == none && t.poison == (List.range 8).map (fun i => scratchKey 1 (0x100 + 8 * i)))) = true := by decide +kernel

theorem witness_DebugForms_silent : (withElem (frozen []) 1 (fun E => { E with silent := true })).itemOpen 1 (.w 31) = true ∧
    freezes (.dbgrd 3 0 1) { withElem (frozen [0x1000F8]) 1 (fun E => { E with silent := true }) with time := 65536 } 0x79 = true ∧
    gives (.dbgrd 3 0 1) { withElem (frozen [0x1000F8]) 1 (fun E => { E with silent := true }) with time := 65535 }
      (fun t => (t.elem 0).stalled) = true := by decide

theorem witness_DebugStop : (let s := withElem (mach 0 []) 1 (fun E => { E with haltReq := true })
    (s.elem 1).haltReq = true ∧ (s.elem 1).mode = .normal ∧ (s.elem 1).act = none) ∧ (mach 0 []).ctxOf 1 = some 0 := by decide

/-- A partition whose switch at TIME 40 is overdue at TIME 50, and that runs an activation since TIME 0. -/
def due : State := withCtx { withAct (mach 1 []) (fun A => { A with begun := true }) with time := 50 } (fun C => { C with switchAt := some 40 })

theorem witness_DeviceEvents : (match (mach 0 []).ctxAt 0 with | some C => decide (C.switch = .running) && C.elems.contains 0 | none => false) = true ∧
    (mach 0 []).completesFirst 0 = false ∧ waiting.completesFirst 0 = true ∧ (mach 0 []).matrixWaits 0 = false ∧ (tiled [prodCmd]).matrixWaits 0 = true ∧ isElem mem0 = true ∧
    (let s := withElem (withAct { mach 1 [] with time := 9 } (fun A => { A with begun := true })) 1 (fun E => { E with wdlim := 9 })
     (s.elem 1).wdlim.toNat ≤ s.wdcnt (actOf s) ∧ s.mayIssue 1 = true ∧ (s.elem 1).stalled = false) ∧
    (mach 0 []).releases 0 = false ∧ (∃ C, tget due.ctxs 0 = some C ∧ C.switch = .running ∧ C.switchAt = some 40) ∧ due.completesFirst 1 = false ∧
    (∃ C, tget (withCtx due (fun C => { C with switch := .stopping })).ctxs 0 = some C ∧ C.switch ≠ .running) := by
  refine ⟨by decide, by decide, by decide, by decide, by decide, by decide, by decide, by decide, ⟨_, rfl, by decide, by decide⟩, by decide,
    ⟨_, rfl, by decide⟩⟩

/-- Reports of two engines, the supervisor fenced, full or free: the one that may go, and those that wait. -/
theorem witness_DeviceEvents_reports :
    (let r := fun (e : EId) (h : Bool) (w : Word) => ({ engine := e, toHost := h, words := words8 [w] } : Report)
     let s := fun rs => withCtx (mach 1 []) (fun C => { C with reports := rs })
     let no := fun s : State => withElem s 0 (fun E => { E with mode := .fenced })
     let full := fun s : State => withChan s 0 15 { Chan.reset with queue := List.replicate 4 m0 }
     let a := enginePort 0
     let b := enginePort 1
     gives (.engineReportDeliver 0) (s [r a false 1, r b true 2]) (fun t =>
       (ctx0 t).reports == [r b true 2] && (t.chan 0 false 15).queue.map (fun m => vget 0 m.words 0) == [1]) = true ∧
     gives (.engineReportDeliver 0) (s [r a true 1]) (fun t => (ctx0 t).reports == [] && (ctx0 t).held.length == 1) = true ∧
     gives (.engineReportDeliver 0) (no (s [r a false 1, r a true 2])) (fun t => (ctx0 t).reports == [r a false 1, r a true 2] && (ctx0 t).held == []) = true ∧
     gives (.engineReportDeliver 0) (full (s [r a false 1, r b false 2])) (fun t => (ctx0 t).reports == [r a false 1, r b false 2]) = true ∧
     gives (.engineReportDeliver 0) (full (s [r a false 1, r b true 2])) (fun t => (ctx0 t).reports == [r a false 1] && (ctx0 t).held.length == 1) = true) := by
  decide +kernel

def req1 : CreateReq :=
  { ctx := 1, soruses := [1], memcores := [], root := 0, allotBase := 0, allotSize := 0, sliceFirst := 0, sliceCount := 0, key := 0,
    weights := List.replicate 8 16 }

theorem witness_HostWindow : (mach 0 []).canCreate req1 = true ∧ (mach 0 []).canCreate { req1 with ctx := 0 } = false ∧
    (mach 0 []).canCreate { req1 with soruses := [0] } = false ∧ ctlOk { base := 0, log2n := 4, en := false, w := 0 } 0x8000000000000010 = true ∧
    ctlOk { base := 0, log2n := 4, en := true, w := 0 } 5 = false ∧ ctlOk { base := 0, log2n := 4, en := true, w := 0 } 3 = false := by decide

/-- A context whose launch window holds one posted record of a KIND, with the given words from doubleword 1 on. -/
def posting (kind : Nat) (ws : List Word) : State :=
  withCtx (mach 1 []) (fun C => { C with
    window := memWrite [] 0 (bytesOf (BitVec.ofNat 64 kind :: ws)), doorbell := 1 })

theorem witness_HostRecords_posts : ((posting 2 [0x2000000100000003]).canConsume 0 (ctx0 (posting 2 [0x2000000100000003]))) = true ∧
    fld ((ctx0 (posting 2 [0x2000000100000003])).record 0) 7 0 = 2 ∧ ((ctx0 (posting 2 [0x2000000100000003])).workTarget 0x2000000100000003).isSome = true ∧
    ((ctx0 (posting 2 [])).workTarget 0x1000000100000003).isNone = true ∧ (mach 0 []).canConsume 0 (ctx0 (mach 0 [])) = false ∧
    fld ((ctx0 (posting 6 [])).record 0) 7 0 = 6 ∧ ((ctx0 (mach 0 [])).scopeMembers hostLink 3).length = 9 := by decide

/-- A record of each KIND with a header bit of [31:16], and with a flag that it does not define; one of another KIND stands. -/
theorem witness_HostRecords_headers :
    (let all : List (Instr × Nat × Nat) := [(.launch 0, 1, 8), (.work 0, 2, 2), (.frame 0, 3, 1), (.reset 0, 4, 1), (.xfer 0, 5, 1)]
     let refused := fun (i : Instr) (k : Nat) => gives i (posting k []) (fun t =>
       (ctx0 t).consumed == 1 && (ctx0 t).held.any (fun ws => fld (ws.getD 0 0) 7 0 == 3 && ws.getD 1 0 == 1))
     all.all (fun x => refused x.1 (x.2.1 + 0x10000) && refused x.1 (x.2.1 + x.2.2 * 0x100)) = true ∧
     gives (.work 0) (posting 3 []) (fun t => (ctx0 t).consumed == 0) = true) := by decide +kernel

theorem witness_HostRecords_ports : (mach 0 []).pkg.ports[15]? = some Port.reset ∧
    crc64 0 ((List.replicate 256 (0 : Byte)).take 248) = leWord ((List.replicate 256 (0 : Byte)).drop 248) ∧
    (List.replicate 256 (0 : Byte)).length = 256 ∧ crc64 0 (List.replicate 248 (0 : Byte)) ≠ leWord (List.replicate 8 (1 : Byte)) := by
  have h : ∀ n, crc64 0 (List.replicate n (0 : Byte)) = 0 := by
    intro n
    induction n with
    | zero => rfl
    | succ n ih => simpa [List.replicate_succ, crc64, crcBits] using ih
  refine ⟨by decide, ?_, List.length_replicate, ?_⟩
  · rw [List.take_replicate, h]; decide
  · rw [h]; decide

/-- A flit in a replay buffer that carries a granule of transfer 9 of context 0. -/
def flit0 (n : Nat) : TxFlit :=
  { seq := BitVec.ofNat 16 n, ack := 0, body := { ctx := 0, vc := 0, credits := 0, payload := List.replicate 232 0 }, tag := 9 }

/-- A transfer of one granule to peer 3, which port 2 leads to; `sent` granules have left. -/
def xfer1 (sent : Nat) : XferRun := { tag := 9, words := [0x8000000000001000, 3, 0, 64, 0], sent := sent }
def group1 : ProcGroup := { share := 0, rank := 0, nrank := 4, group := 0, peers := [0xFFFF, 0xFFFF, 3] }

theorem witness_HostRecords_transfer : (xfer1 1).len = 64 ∧ ((mach 0 []).port 2).up = true ∧ ((mach 0 []).port 2).unacked = [] ∧
    (group1.peers.getD 2 0xFFFF) = 3 ∧ (xfer1 1).port (ctx0 (mach 0 [])) = none ∧
    ({ Port.reset with next := 5, unacked := [flit0 3, flit0 4] } : Port).acked 4 = { Port.reset with next := 5, unacked := [flit0 4] } ∧
    scaleOutPort 9 = mkE 1 64 33 ∧ (msgTarget (scaleOutPort 9) 0x2000000100000003).toOption.isSome = true ∧
    (flit0 3).body.payload.length = 232 := by
  decide +kernel

theorem witness_Launches_refusals : (posting 1 []).canConsume 0 (ctx0 (posting 1 [])) = true ∧ fld (0x300 : Word) 15 8 % 4 = 3 ∧
    (posting 1 [0, 63]).hostFails 0 63 = false ∧ checkImage (List.replicate 64 0) ≠ none := by decide

/-- A linked image of one core role, placed on two cores, with a boot tree, eight bytes of text and channel 0, written out from R58–R67. -/
def image0 : List Word :=
  [0xB0020001004F4B49, 0x0000000500000040, 0x01010101, 0x9863F4FBF4CB18D0, 0, 0, 0, 0,
   0x4FFFF000F, 224, 16, 0, 0x4FFFF0010, 240, 16, 0, 0x4FFFF0011, 256, 32, 0, 0x500000001, 288, 8, 0, 0x400000004, 296, 8, 0,
   0x0000080000000000, 0, 0x0000010100000000, 0, 0x0000FFFF, 1, 0x00010000, 1, 0, 0x0000800000000300]

theorem crc64_append (a b : List Byte) : ∀ c, crc64 c (a ++ b) = crc64 (crc64 c a) b := by
  induction a with
  | nil => intro c; rfl
  | cons x a ih => intro c; exact ih _

theorem test_image_check : crc64 0 (bytesOf [0xB0020001004F4B49, 0x0000000500000040, 0x01010101, 0, 0, 0, 0, 0] ++
    (bytesOf (image0.drop 8 |>.take 8) ++ (bytesOf (image0.drop 16 |>.take 8) ++ (bytesOf (image0.drop 24 |>.take 8) ++
      bytesOf (image0.drop 32))))) = 0x9863F4FBF4CB18D0 := by
  rw [crc64_append, crc64_append, crc64_append, crc64_append]
  rw [show crc64 0 (bytesOf [0xB0020001004F4B49, 0x0000000500000040, 0x01010101, 0, 0, 0, 0, 0]) = 0x7b4ba8f0eb3d4b22#64 by decide +kernel]
  rw [show crc64 0x7b4ba8f0eb3d4b22#64 (bytesOf (image0.drop 8 |>.take 8)) = 0x98c3fca7537f19e8#64 by decide +kernel]
  rw [show crc64 0x98c3fca7537f19e8#64 (bytesOf (image0.drop 16 |>.take 8)) = 0x0bdcf7ba4b397a7e#64 by decide +kernel]
  rw [show crc64 0x0bdcf7ba4b397a7e#64 (bytesOf (image0.drop 24 |>.take 8)) = 0x7e26ce9af1187813#64 by decide +kernel]
  decide +kernel

theorem witness_Launches_image : checkImage (bytesOf image0) = none := by
  unfold checkImage
  have h : (bytesOf image0).take 24 ++ List.replicate 8 0 ++ (bytesOf image0).drop 32 =
      bytesOf [0xB0020001004F4B49, 0x0000000500000040, 0x01010101, 0, 0, 0, 0, 0] ++
      (bytesOf (image0.drop 8 |>.take 8) ++ (bytesOf (image0.drop 16 |>.take 8) ++ (bytesOf (image0.drop 24 |>.take 8) ++
        bytesOf (image0.drop 32)))) := by decide +kernel
  rw [h, test_image_check, if_neg (by decide +kernel), if_neg (by decide +kernel), if_neg (by decide +kernel), if_neg (by decide +kernel),
    if_neg (by decide +kernel), if_neg (by decide +kernel), if_neg (by decide +kernel)]

theorem witness_Launches_translation :
    State.chooseTranslations (mach mem0 []) (ctx0 (mach mem0 [])) (bytesOf image0) false = some [(0, 0, 0)] ∧
    (copyFor (bytesOf image0) (0, 0, 0)).isSome = true ∧ moveE 0 0 0 1 = some 1 ∧ isCore 1 = true ∧ (ctx0 (mach mem0 [])).owns 1 = true ∧
    (match State.loadTables (mach mem0 []) 0 { image := bytesOf image0, dieOff := 0, ox := 0, oy := 0 } with | .ok u => (tget u.ctxs 0).isSome | _ => false)
      = true := by decide +kernel

/-- The load of that image, with its chunk still to come at element 1. -/
def load0 : Load :=
  { tag := 1, flags := 0, args := words8 [], digtab := none, group := none, sup := 0,
    copies := [{ image := bytesOf image0, dieOff := 0, ox := 0, oy := 0 }], scopes := [], barriers := [], sheets := [], templates := [],
    pending := [(0, []), (1, [(0, 0), endRecord])], chunks := [(0, [(0, 0), endRecord]), (1, [(0, 0), endRecord])], complete := [], saved := [],
    posted := false, completed := false, phase := .first }
def loading0 (L : Load) : State := withCtx { mach mem0 [] with elems := [] } (fun C => { C with load := some L })

theorem witness_Launches_load : (loading0 load0).loading 0 = some load0 ∧ tget load0.pending 1 = some [(0, 0), endRecord] ∧
    (match load0.copyOf 1 with | some (_, e, p) => e == 1 && p.role == 0 | none => false) = true ∧
    (match edgeTo (bytesOf image0) 1 with | some x => x.parent == 0 && (frameE x.parent) == 0 | none => false) = true ∧
    (match edgeTo (bytesOf image0) 0 with | some x => x.parent == 0xFFFF | none => false) = true ∧
    (loading0 load0).hasBinding 1 = false ∧ (withChan (loading0 load0) 1 0 bound).hasBinding 1 = true ∧ (loading0 load0).isFenced 1 = false ∧
    (roleAt (bytesOf image0) 0).kind = 0 ∧ (entries (bytesOf image0) 4 0 8).length = 1 ∧ load0.targets = [0, 1] ∧
    load0.phase = .first := by decide +kernel

theorem witness_Launches_complete :
    (let L := { load0 with posted := true, pending := [], complete := [0, 1] }
     (loading0 L).launchDone 0 (ctx0 (loading0 L)) = true ∧ (ctx0 (loading0 L)).switch = .running) := by decide +kernel

theorem witness_Launches_reruns :
    (let L := { load0 with posted := true, pending := [], complete := [0, 1], flags := 2, digtab := some 0x1000 }
     (loading0 L).launchDone 0 (ctx0 (loading0 L)) = true ∧ L.flags.getLsbD 1 = true ∧ L.flags.getLsbD 0 = false ∧ L.flags.getLsbD 2 = false) ∧
    (let L := { load0 with posted := true, pending := [], complete := [0, 1], phase := .serial 1 7 }
     gives (.launchComplete 0) (loading0 L) (fun t => (ctx0 t).held.map (fun ws => fld (ws.getD 0 0) 7 0) == [6]) = true) ∧
    (let L := { load0 with posted := true, pending := [], complete := [0, 1], phase := .third 0 1 }
     gives (.launchComplete 0) (loading0 L) (fun t => (ctx0 t).held.map (fun ws => (fld (ws.getD 0 0) 7 0, ws.getD 1 0)) == [(7, 2)]) = true) := by
  decide +kernel

/-- A twin launch that replays: it is over, and its copies agree (R383, R384). -/
theorem witness_Launches_twin_replays :
    (let L := { load0 with posted := true, pending := [], complete := [0, 1], flags := 6, digtab := some 0x1000 }
     let s := withCtx (loading0 L) (fun C => { C with twin := [[0], [1]] })
     s.launchDone 0 (ctx0 s) = true ∧ (ctx0 s).switch = .running ∧ L.flags.getLsbD 2 = true ∧ L.flags.getLsbD 1 = true ∧ L.phase = .first ∧
       L.digtab ≠ none ∧ s.comboOf [0] = s.comboOf [1]) := by decide +kernel

/-- A completion timeout of the management core refuses the one launch whose image it copies (R409). -/
theorem witness_Launches_timeout :
    (let s := withElem (posting 1 [0, 64]) mgmtCore (fun E => { E with hostTimeout := true })
     let status := fun (t : State) => (ctx0 t).held.map (fun ws => (fld (ws.getD 0 0) 7 0, ws.getD 1 0))
     gives (.hostCompletionTimeout mgmtCore) (mach 1 []) (fun t => (t.elem mgmtCore).hostTimeout) = true ∧
     s.hostFails (hostAt mgmtFn 0) 64 = false ∧
     gives (.launch 0) s (fun t => status t == [(1, 0x0C)] && !(t.elem mgmtCore).hostTimeout) = true ∧
     gives (.launch 0) (posting 1 [0, 64]) (fun t => status t == [(1, 0x01)]) = true) := by decide +kernel

/-- Entry 5 of an earlier launch is empty at the next, one whose image names no scope (R187), and stands again where that is refused (R80). -/
theorem witness_Launches_scopes :
    (let S : Scope := { mem := false, rects := [] }
     let k : LoadCopy := { image := bytesOf image0, dieOff := 0, ox := 0, oy := 0 }
     let s := withCtx (mach mem0 []) (fun C => { C with scopes := [(5, S)] })
     (match s.loadTables 0 k with | .ok u => (ctx0 u).scopes.length == 0 | _ => false) = true ∧
     (entries (bytesOf image0) 0x12 wholeFile 24).map scopeIndex = [] ∧
     gives (.loadChunk 0 1) (withChan (loading0 { load0 with scopes := [(5, S)] }) 1 0 bound) (fun t => (ctx0 t).scopes == [(5, S)]) = true) := by
  decide +kernel

/-- A message held for a member of a composed frond makes none of its channels ready, and the launch is over (R85, R410). -/
theorem witness_Launches_composed :
    (let L := { load0 with posted := true, pending := [], complete := [0, 1] }
     let s := withChan (loading0 L) 1 0 { bound with queue := [m0] }
     let t := { s with fronds := [frond1 true] }
     s.launchDone 0 (ctx0 s) = false ∧ s.ownReady 1 { bound with queue := [m0] } = true ∧
     t.launchDone 0 (ctx0 t) = true ∧ t.ownReady 1 { bound with queue := [m0] } = false) := by decide +kernel

theorem test_load_chunk_writes_text : gives (.loadChunk 0 1) (loading0 { load0 with copies := [{ image := bytesOf (image0.take 36 ++ [0x1122, 0]), dieOff := 0, ox := 0, oy := 0 }] })
    (fun t => t.mem == [(scratchKey 1 0, 0x22), (scratchKey 1 1, 0x11)]) = true := by decide +kernel

theorem test_load_complete_binds : gives (.loadComplete 0 1) (loading0 { load0 with pending := [] })
    (fun t => (vget Chan.reset (t.elem 1).chans 0).bind == some (bindingOf 0x0000800000000300)) = true := by decide +kernel

/-! ### Gang switches, own writes and translations -/

/-- WDCNT counts to T and no further, whatever the time at which the model notices T (R96, R375). -/
theorem test_gang_stop_holds_the_count_at_T : (ctx0 due.gangStops).switch = .stopping ∧
    ((due.gangStops.elem 1).act.map (·.wdHeld)) = some (some 40) ∧ due.gangStops.mayIssue 1 = false ∧
    due.gangStops.time = 50 := by decide

/-- Of two flights of a stopping partition the one for which an RLD stalls moves, and the other does not (R375, R376). -/
def stoppingLoad : State :=
  withCtx { waiting with fabric := [fl 0 (some 1) (.rst 0x2000000100000100 0x100 8 5), { fl 0 (some 2) (.rst 0 0 8 5) with id := 1 }] }
    (fun C => { C with switch := .stopping })
theorem test_stopping_moves_what_a_stall_needs : stoppingLoad.fabric.map stoppingLoad.mayMove = [true, false] ∧
    stoppingLoad.fabric.map waiting.mayMove = [true, true] := by decide

/-- A message that is sent while its partition is switched out: it counts as parked, and the counters agree after the resume (R377, R410). -/
theorem test_parked_message_counts_once :
    let s := withCtx (mach 1 []) (fun C => { C with switch := .out })
    let t := s.inject 0 hostLink (some 1) (.msg 2 m0 ret0)
    let u := (t.countParked 0 1 0).updCtx 0 (fun C => { C with switch := .running })
    (ctx0 s).quiet = true ∧ (ctx0 t).quiet = true ∧ (ctx0 u).quiet = false ∧
      u.fabric.map (fun f => (ctx0 (u.land f)).quiet) = [true] := by decide

/-- A write to the issuer itself through aperture 0 is fetched in its new value, and FENCE 0 waits for it, also at a member that holds
the pooled byte (R28, R176, R192). -/
theorem test_own_write_is_fetched_new : gives (.remoteStore 0)
    (withElem (flown (fl 0 (some 0) (.rst 0x100 0x100 8 5))) 0 (fun E => { E with olds := [(0x100, 7)] }))
    (fun t => (t.elem 0).olds == [] && t.mem == [(0x100, 5)]) = true := by decide
theorem test_fence_zero_waits_for_own_write :
    (flown (fl 0 (some 1) (.rst 0x100 0x100 8 5))).fenceHolds 0 0 = true ∧
    (flown (fl 0 (some 1) (.rst 0x2000000100000100 0x100 8 5))).fenceHolds 0 0 = false := by decide

/-- The end of an evaluation's activation does not overtake its CDONE (R253); a write of a frond to its pooled bytes follows the
frond's earlier one, though they lie in two members (R181, R352). -/
theorem test_orders : (flown (fl 1 (some (enginePort 0)) (.cdone 0x600020001 0 { pc := 0, chan := 0, frond := none, cont := false, wp := 0, entry := 0, wd := 0 }))).afterOf 1 (some (enginePort 0))
      (.evalLost 0x600020001 2 0) = [0] ∧
    (flown (fl 0 (some 1) (.rst 0x40 0 8 5))).afterOf 0 (some 2) (.rst 0x80 0 8 6) = [0] ∧
    (flown (fl 0 (some 1) (.rst 0x2000000100000000 0 8 5))).afterOf 0 (some 2) (.rst 0x2000000200000000 0 8 6) = [] := by decide

/-- A write of the debug window to a member that does not lead keeps the old halfwords for the leader's activation; the leader's own
write drops them (R28, R357, R391). -/
theorem test_member_code : (let s := leading (frond1 true) 0
    ((s.deviceWrite 5 1 0x20 [1, 2, 3, 4]).elem 0).olds.map Prod.fst = [288, 290] ∧
    (((s.deviceWrite 5 1 0x20 [1, 2, 3, 4]).deviceWrite 0 1 0x20 [5, 6, 7, 8]).elem 0).olds = []) := by decide

/-- The table of R371: no code both freezes and reports, and these are among those that are never produced. -/
theorem test_codes : (List.range 256).all (fun c => !(codeFreezes c && codeReports c)) = true ∧
    [0x00, 0x0A, 0x1B, 0x1F, 0x2D, 0x37, 0x46, 0x57, 0x64, 0x7A, 0x80].all (fun c => !(codeFreezes c || codeReports c)) = true ∧
    (List.range 256).countP codeFreezes = 61 := by decide +kernel

/-- A TLB entry that was walked from another root serves no access (R293). -/
theorem test_tlb_of_another_root :
    tlbHit (withElem (mach mem0 []) mem0 (fun E => { E with
      tlb := [(1, { va := 0, log2 := 12, pa := 0, ro := false, xn := false, tc := false })] })) mem0 5 = none := by decide

/-- The pooled bytes of a store to a leader's own raw bytes, across a line of 64 bytes (R348, R380). -/
theorem test_fold_across_a_line :
    let s := leading (frond1 true) 0
    s.ownOffset 0 0 0x3F = some 0x3F ∧ s.ownOffset 0 0 0x40 = some 0x200 ∧
    foldLines s 0 0 0x3F [some 1, some 2] 0 = foldMasked (foldMasked 0 (locOwn (s.ownSize 0)) 0x3F [some 1]) (locOwn (s.ownSize 0)) 0x200 [some 2] := by
  decide +kernel

/-- A FENCE orders by the members that its scope had when it was issued, after an SCW too. -/
theorem test_fence_mark_keeps_its_members :
    (match exec (.fence 4) (withCtx (flown (fl 0 (some 1) (.msg 2 m0 ret0))) (fun C => C.setScope 4 ({ mem := false, rects := [{ die := 0, x0 := 0, y0 := 1, w := 1, h := 1 }] }))) with
      | .next t => (withCtx t (fun C => { C with scopes := [] })).afterOf 0 (some 1) (.msg 5 m0 ret0) == [0] | _ => false) = true := by decide +kernel

/-- R388: a sheet that a node halted, and whose program then ends, resumes with no node passed. -/
theorem test_ended_program_passes_no_node :
    ({ Sheet.blank with halted := some (.node 2), passed := [.node 1, .cell 4] }.endItems BreakItem.isNode).resume.passed = [.cell 4] := by decide

/-! ### Witnesses of the clauses on stores in every aperture, on RCOPY from the own scratchpad, and on fetches -/

/-- A memory core whose context maps the page at 0x8000 of device memory to frame 0x9000, and the next to frame 0xB000 (R291, R292). -/
def pages : Memory :=
  memWrite (memWrite (memWrite (memWrite (memWrite [] (hbmKey 0x2000) (wordBytes 0x4001)) (hbmKey 0x4000) (wordBytes 0x5001))
    (hbmKey 0x5000) (wordBytes 0x6001)) (hbmKey (0x6000 + 8 * 8)) (wordBytes 0x9003)) (hbmKey (0x6000 + 8 * 9)) (wordBytes 0xB003)
def mapped (s : State) : State := withCtx { s with mem := pages } (fun C => { C with root := 0x2000, allotSize := 2 ^ 30 })

/-- ST.h through apertures 1, 8 and 9 leaves the low bytes of the register where the address leads. -/
theorem witness_OwnAccesses_apertures :
    gives (.st 1 1 0 0) (mach 0 [0x1000000100000100, 0xABCDEF]) (fun t => memRead t.mem (scratchKey (sorusMember 0 1) 0x100) 3 == [0xEF, 0xCD, 0]) = true ∧
    gives (.st 1 1 0 0) (mapped (mach mem0 [0x8000000000008010, 0xABCDEF])) (fun t => memRead t.mem (hbmKey 0x9010) 3 == [0xEF, 0xCD, 0]) = true ∧
    gives (.stRel 1 0 1) (mach mem0 [0x9000000000000040, 0xABCDEF]) (fun t => memRead t.mem (hostKey (hostAt 1 0x40)) 3 == [0xEF, 0xCD, 0]) = true ∧
    (let ps := planned (plan (mach 0 []) 0 { aps := apsLoad 0, wr := true } 0x100000010000003F 2)
     ps.map Piece.size = [1, 1] ∧ (writePieces (mach 0 []) ps [1, 2] 0).2 = none) := by decide +kernel

/-- The same page through LTAG and STAG: an address in its second granule, a page that is RO, one that is absent; another context's allotment
over its frame bars the write, and its own does not (R296, R419). -/
def otherAllot (s : State) (key : Word) : State :=
  { s with ctxs := s.ctxs ++ [(1, { Ctx.blank [] [] with key := key, allotSize := 2 ^ 30 })] }
theorem witness_TagsAndRegions_granule :
    (let s := mapped (mach mem0 [0x8000000000008035, 9, 0x8000000000007000])
     let ro := { s with mem := memWrite s.mem (hbmKey (0x6000 + 8 * 8)) (wordBytes 0x900B) }
     let own := (ctx0 s).key
     (match tagLine s mem0 true 0x8000000000008035 with | .ok (some k) => k == hbmKey 0x9020 | _ => false) = true ∧
     gives (.stag 0 1) s (fun t => t.tags == [(hbmKey 0x9020, 9)] && (actOf t).pc == 4) = true ∧
     gives (.ltag 3 0) { s with tags := [(hbmKey 0x9020, 9)] } (fun t => (actOf t).reg 3 == 9) = true ∧
     freezes (.stag 0 1) ro 0x16 = true ∧ gives (.ltag 3 0) ro (fun t => (actOf t).pc == 4) = true ∧
     freezes (.stag 2 1) s 0x15 = true ∧ freezes (.ltag 3 2) s 0x15 = true ∧
     State.barred (otherAllot s (own + 1)) (State.keyOf (otherAllot s (own + 1)) mem0) (hbmKey 0x9020) 1 = true ∧
     gives (.stag 0 1) (otherAllot s (own + 1)) (fun t => t.tags == [] && (actOf t).pc == 4) = true ∧
     gives (.stag 0 1) (otherAllot s own) (fun t => t.tags == [(hbmKey 0x9020, 9)]) = true) := by decide +kernel

/-- The line of another member, of a fenced one, and of the own register area; host memory holds no tag (R92, R165, R295). -/
theorem witness_TagsAndRegions_member :
    (let s := mach 0 [0x1000000100000100, 9]
     let t := sorusMember 0 1
     gives (.stag 0 1) s (fun u => u.tags == [(scratchKey t 0x100, 9)]) = true ∧
     freezes (.stag 0 1) (withElem s t (fun E => { E with mode := .fenced })) 0x17 = true ∧
     freezes (.ltag 3 0) (mach 0 [0x1000000000008000]) 0x08 = true ∧ freezes (.ltag 3 0) (bare 0x100) 0x14 = true ∧
     puts (.ltag 3 0) (mach mem0 [0x9000000000000040]) 3 0 = true ∧ freezes (.stag 0 1) (mach mem0 [0x9000000000000040, 1]) 0x19 = true) := by
  decide +kernel

/-- REGION of the leader of a frond reads and writes the pooled set, up to 0x10_0000 (R350). -/
theorem witness_TagsAndRegions_frond :
    (let s := leading (frond1 true) (regionAll + 0x10000)
     s.frondOf 0 ≠ none ∧ freezes (.regionWr 0 2) s 0x19 = false ∧
     gives (.regionWr 0 2) s (fun t => vget 0 (t.elem 0).pregions 2 == regionAll + 0x10000 && vget 0 (t.elem 0).regions 2 == 0) = true ∧
     freezes (.regionWr 0 2) (leading (frond1 true) (0x100000 * 2 ^ 40 + 0x10030)) 0x19 = true ∧
     freezes (.regionWr 0 2) (mach 0 [regionAll + 0x10000]) 0x19 = true) := by decide +kernel

/-- ST.rel that passes its checks waits, with nothing done, while a posted write is in flight; one that fails takes its fault (R195). -/
theorem witness_OwnAccesses_release :
    (let s := fun a : Word => { mach 0 [a, 5] with fabric := [fl 0 (some 1) (.rst 0 0x100 8 5)] }
     (s 0x100).postedOf 0 ≠ [] ∧ fails (plan (s 0x100) 0 { aps := apsLoad 0, wr := true, natural := true } 0x100 8) = false ∧
     gives (.stRel 1 0 3) (s 0x100) (fun t => (t.elem 0).stalled && (actOf t).pc == 0 && t.mem == []) = true ∧
     freezes (.stRel 1 0 3) (s 0x101) 0x11 = true) := by decide +kernel

/-- DGRD 2 after the target's activation was retired, or abandoned at a fence and remapped: its digest, while COMBO stands (R89, R396). -/
theorem witness_DebugForms_digest :
    (let s := fun m : Mode => withElem (mach 0 [0x2000000100000000]) 1 (fun E =>
       { E with mode := m, lastD := 5, combo := 6, act := some { blankAct with digest := 9 } })
     let nine := fun t : State => (t.elem 1).act == none && (t.elem 1).lastD == 9 && (t.elem 1).combo == 6
     gives (.retire 0 2) (s .frozen) nine = true ∧ gives (.remap 3 0) (s .fenced) nine = true) := by decide +kernel

/-- A WORK record of a work item: a reserved bit of its descriptor gives reason 1, an empty scope reason 3 (R408, R411). -/
theorem witness_HostRecords_item :
    (let refused := fun (x r : Word) => gives (.work 0) (posting 0x102 [x]) (fun t =>
       (ctx0 t).consumed == 1 && (ctx0 t).held.any (fun ws => fld (ws.getD 0 0) 7 0 == 3 && ws.getD 1 0 == r))
     refused 0x23 1 = true ∧ refused 0x1003 1 = true ∧ refused 0x20 1 = true ∧ refused 5 3 = true ∧ refused 1 3 = true ∧
     gives (.work 0) (posting 0x102 [3]) (fun t => (ctx0 t).held.isEmpty && t.fabric.length == 1) = true) := by decide +kernel

/-- An RCOPY from the own scratchpad, of another window, and to an offset that lacks WR (R145, R172). -/
theorem witness_PostedRequests_own :
    (match remoteAt (mach 0 [0x100]) 0 0x100 1 false true with | .ok pl => pl == .own 0x100 | _ => false) = true ∧
    localOffset (mach 0 []) 0 0x20100 = 0x20100 ∧ rcopyOk 0x1000200 0x100 = true ∧ rcopyOk 0x1000200 0x20100 = false ∧
    gives (.rcopy 3 0 1) (mach 0 [0x100, 0x1000200]) (fun t => (t.elem 0).avail == 15 && (actOf t).reg 3 == 0 && t.fabric.length == 1) = true ∧
    freezes (.rcopy 3 0 1) (mach 0 [0x20100, 0x1000200]) 0x19 = true ∧ (ownDest (bare 0) 0x200 16).isSome = true := by decide +kernel

/-- The second halfword of a 32-bit instruction at 0xFFFE is out of range, and that comes before a first halfword that may not be fetched;
a 16-bit one there takes the region fault (R27, R47). -/
theorem witness_StepOtherwise_last :
    (let s := fun h : List Byte => { bare 0 with mem := memWrite [] (scratchKey 0 0xFFFE) h }
     let ends := fun (r : Except Flt Instr) (c : Nat) (a : Word) => match r with | .error f => f.code == c && f.faddr == a | .ok _ => false
     ends (fetch (s [4, 0xC0]) 0 0xFFFE) 0x04 0x10000 = true ∧ ends (fetch (s [4, 0x08]) 0 0xFFFE) 0x14 0xFFFE = true ∧
     ends (fetch (s []) 0 0xFFFD) 0x04 0xFFFD = true ∧ (s []).poison = []) := by decide +kernel

/-! ### Witnesses of the clauses on what a commit and an abandonment settle (R241–R247, R253) -/

/-- The sheet in its wave: the write of cell 1 taken, cell 2 of the set fresh or faulted; its value in the next buffer. -/
def waving (st : CellState) (f : Sheet → Sheet) : State :=
  { withSheet (mach 0 []) (f { sheet1 with
      wave := some { wave1 with failed := if st = .faulted then [(2, 1)] else [] }, reqs := []
      cells := [(1, { cellIn with wpend := false, wtaken := true }), (2, { cellF with inWave := true, state := st })] }) with
    mem := memWrite (memWrite [] (scratchKey 0 0x4100) [1, 2, 3, 4]) (scratchKey 0 0x4300) [5, 6, 7, 8] }
def cellNow (t : State) (e : Nat) : Option CellEntry := (t.sheet 0 1).bind (·.cell e)
/-- A message of the engine to element 0 with these words. -/
def told (t : State) (ws : List Word) : Bool := t.fabric.any (fun f => match f.body with | .msg _ m _ => m.words == words8 ws | _ => false)
def heldRead : HeldRead := { src := 0, head := 0x101, cells := [2], desc := 0x0000000300040200 }
def heldWrite : HeldWrite := { cell := 1, doff := 1, bytes := [9], checkpoint := none }

/-- A held read of cell 2 is answered with its new value, or with the old one after an abandonment. -/
theorem witness_Waves_reads :
    gives (.waveCommit 0 1) (waving .fresh (fun S => { S with reads := [heldRead] })) (fun t =>
      memRead t.mem (scratchKey 0 0x200) 4 == [5, 6, 7, 8] && told t [0x10, 6, 0x40000, 0x101] && told t [0x12, 6, 0x10000] &&
      ((t.sheet 0 1).map (·.gen)) == some 6 && ((cellNow t 1).map (fun c => (c.cur, c.wtaken))) == some (true, false)) = true ∧
    gives (.waveAbandon 0 1) (waving .faulted (fun S => { S with reads := [heldRead] })) (fun t =>
      memRead t.mem (scratchKey 0 0x200) 4 == [0, 0, 0, 0] && told t [0x10, 5, 0x40000, 0x101] && told t [0x12, 5, 0x10001, 0x20001] &&
      ((cellNow t 2).map (·.state)) == some .faulted && ((cellNow t 1).map (fun c => (c.cur, c.wpend, c.wtaken))) == some (false, true, false)) = true := by
  decide +kernel

/-- Queued edits: one applied, one that closes a cycle, one whose cell is gone, and a drop. -/
theorem witness_Waves_edits :
    (let bind := { edit1 with op := 2, cell := 2, q := 7, entry := 0x200, prec := [1], desc := 0x30040 }
     let with1 := fun d => waving .fresh (fun S => { S with edits := [d] })
     let report := fun (t : State) => leNat (memRead t.mem (scratchKey 0 0x40) 16)
     gives (.waveCommit 0 1) (with1 bind) (fun t => report t == 2 * 2 ^ 48 + 1 * 2 ^ 16 + 6 * 2 ^ 64 && told t [0x15, 0x40, 0, 0x20001] &&
       ((cellNow t 2).map (fun c => (c.q, c.entry, c.state))) == some (7, 0x200, .stale)) = true ∧
     gives (.waveCommit 0 1) (with1 { bind with prec := [2] }) (fun t => report t % 2 ^ 16 == 0x101 && told t [0x15, 0x40, 1, 0x20001] &&
       told t [0x12, 6, 0x10000, 0, 1] && (ctx0 t).reports.map (fun r => fld (vget 0 r.words 0) 7 0) == [0x42] &&
       ((cellNow t 2).map (·.entry)) == some 0x100) = true ∧
     gives (.waveCommit 0 1) (with1 { bind with cell := 9 }) (fun t => report t % 2 ^ 16 == 2 && told t [0x15, 0x40, 2, 0x90001]) = true ∧
     gives (.waveAbandon 0 1) (waving .faulted (fun S => { S with edits := [{ bind with op := 3, cell := 1 }] })) (fun t =>
       (cellNow t 1).isNone && ((cellNow t 2).map (·.state)) == some .stale) = true) := by decide +kernel

/-- A held write over a copy of the committed value; a cell marked NEXT. -/
theorem witness_Waves_writes :
    gives (.waveCommit 0 1) (waving .fresh (fun S => { S with writes := [heldWrite] })) (fun t =>
      memRead t.mem (scratchKey 0 0x4000) 4 == [1, 9, 3, 4] && ((cellNow t 1).map (fun c => (c.cur, c.wpend))) == some (true, true) &&
      ((cellNow t 2).map (·.state)) == some .stale) = true ∧
    gives (.waveAbandon 0 1) (waving .faulted (fun S => { S with writes := [heldWrite] })) (fun t =>
      memRead t.mem (scratchKey 0 0x4100) 4 == [1, 9, 3, 4] && ((cellNow t 1).map (fun c => (c.cur, c.wpend))) == some (false, true)) = true ∧
    gives (.waveCommit 0 1) (waving .fresh (fun S => S.updCell 2 (fun c => { c with next := true }))) (fun t =>
      ((cellNow t 2).map (fun c => (c.state, c.next))) == some (.stale, false)) = true := by decide +kernel

/-- A cell whose one precedent is not defined is ready only when the other is fresh, and then fails with reason 4 (R237, R253). -/
theorem witness_Waves_dangling :
    (let w : Wave := { wave1 with set := [2, 3] }
     let S := fun (st : CellState) => { sheet1 with wave := some w, reqs := [], cells := [(1, cellIn),
       (2, { cellF with inWave := true, state := st }), (3, { cellF with inWave := true, prec := [2, 9] })] : Sheet }
     (S .evaluating).cellReady w 3 = false ∧ (S .fresh).cellReady w 3 = true ∧ (S .fresh).slots { cellF with prec := [2, 9] } = none ∧
     gives (.evalDispatch 0 1) (withSheet (mach 0 []) (S .fresh)) (fun t => ((cellNow t 3).map (·.state)) == some .faulted &&
       (ctx0 t).reports.map (fun r => (fld (vget 0 r.words 0) 7 0, vget 0 r.words 4)) == [(0x45, 4)]) = true) := by decide +kernel

/-- The fields of a report record (R247). -/
theorem test_report_record : leNat (reportBytes 1 3 7 5 [7, 8]) = 0x80007 * 2 ^ 128 + 5 * 2 ^ 64 + 7 * 2 ^ 48 + 3 * 2 ^ 16 + 0x201 := by
  decide +kernel

/-! ### Witnesses of the clauses on what commits and frames do to a stream (R316, R317, R319, R323–R327) -/

/-- The sheet of stream 5, whose wave asked for by a request may commit. -/
def closing (st : Stream) (r : WaveReq) : State :=
  withCtx (streaming st) (fun C => { C with sheets := [(1, { sheet2 with wave := some { req := r, set := [], failed := [] } })] })
def stream5 (t : State) : Stream := (t.stream 5).getD stream1
/-- The words of the ring from the record area on, and W. -/
def ringWords (t : State) (n : Nat) : List Nat := (List.range n).map (fun i => leNat (memRead t.mem (hostKey (hostAt 1 (0x1040 + 4 * i))) 4))
def ringW (t : State) : Nat := leNat (memRead t.mem (hostKey (hostAt 1 0x1000)) 8)
/-- A notice to the owner with this cause and these words 2 and 3. -/
def noticed (t : State) (cause : Nat) (w2 w3 : Word) : Bool := t.fabric.any (fun f => match f.body with
  | .msg 3 m _ => vget 0 m.words 0 == 0x30 && fld (vget 0 m.words 1) 19 16 == cause && fld (vget 0 m.words 1) 63 32 == 6 &&
      vget 0 m.words 2 == w2 && vget 0 m.words 3 == w3
  | _ => false)
def prov1 : Provisional := { v := 4, n := 2, committed := true, found := false, mask := { sheet := 1, cell := 3, gen := 6, deadline := 0 } }

/-- A step that publishes its two tokens, and one that is withheld; a refeed chunk (R319, R328). -/
theorem witness_Streams_steps :
    (let st := { stream1 with phase := .committing, posted := [7, 8] }
     gives (.waveCommit 0 1) (closing st (.stream 5)) (fun t => ringWords t 4 == [16 + 2 ^ 16, 4, 7, 8] && ringW t == 16 &&
       ((stream5 t).g, (stream5 t).c, (stream5 t).r, (stream5 t).cgen) == (6, 6, 6, 6) && noticed t 1 0x600000006 6) = true ∧
     gives (.waveCommit 0 1) (closing { st with stepMode := 2, prov := some { prov1 with n := 0, committed := false, mask := { prov1.mask with gen := 7 } } }
       (.stream 5)) (fun t => ringW t == 0 && ((stream5 t).g, (stream5 t).c, (stream5 t).kept) == (6, 4, [7, 8]) &&
         (stream5 t).prov == some { prov1 with mask := { prov1.mask with gen := 7 } } && noticed t 1 0x400000006 6) = true ∧
     gives (.waveCommit 0 1) (closing { st with isFeed := true, fed := 3 } (.stream 5)) (fun t =>
       ((stream5 t).r, (stream5 t).phase) == (3, .refeed) && ringW t == 0 && noticed t 2 0x400000004 3) = true) := by decide +kernel

/-- A truncation to position 2 with one input token: the cursors, RETRACT and TOKENS INPUT; and STATE taken at its start (R317). -/
theorem witness_Streams_truncation :
    (let st := { stream1 with phase := .truncating, p := 3, trunc := some { s := 2, toks := [9], cause := 3, slot := 0, ck := 1, disc := true } }
     gives (.waveCommit 0 1) (closing st (.truncation 5)) (fun t => ringWords t 7 == [16 + 2 * 2 ^ 16, 2, 4, 4, 12 + 2 ^ 16 + 2 ^ 24, 2, 9] &&
       ringW t == 28 && ((stream5 t).g, (stream5 t).c, (stream5 t).r, (stream5 t).p, (stream5 t).phase) == (3, 3, 1, 2, .refeed) &&
       noticed t 3 0x300000003 0x200000001) = true ∧
     gives (.waveStart 0 1) (withCtx { streaming st with mem := memWrite [] (scratchKey 0 0x4400) [1, 2, 3, 4] }
         (fun C => { C with sheets := [(1, { sheet2 with reqs := [.truncation 5] })] })) (fun t =>
       memRead t.mem (scratchKey 0 0x4100) 4 == [1, 2, 3, 4] && ((t.sheet 0 1).bind (·.cell 2)).map (fun c => (c.wtaken, c.wpend)) == some (true, false))
       = true) := by decide +kernel

/-- A ready mask that allows both withheld tokens, and one that allows the first alone (R322, R323); the violation beyond C publishes the
tokens before it; with no record it is dropped. -/
theorem witness_Streams_masks :
    (let st := { stream1 with phase := .step, g := 6, kept := [0, 1], prov := some prov1 }
     let s := fun (v : Byte) => { closing st (.core 0 3) with mem := memWrite [] (scratchKey 0 0x4400) [v] }
     let drains := fun (p : Option Provisional) => streaming { st with phase := .idle, prov := p, queue := [{ seq := 1, kind := .violation 5 }] }
     let mask3 := fun (s : State) => withCtx s (fun C => { C with sheets := tmap (fun S => S.updCell 3 (fun c => { c with wtaken := false, wpend := false })) C.sheets })
     gives (.waveCommit 0 1) (mask3 (s 3)) (fun t => ringWords t 4 == [16 + 2 ^ 16 + 2 * 2 ^ 24, 4, 0, 1] && ((stream5 t).c, (stream5 t).kept, (stream5 t).prov) == (6, [], none) &&
       noticed t 6 0x600000006 0) = true ∧
     gives (.waveCommit 0 1) (mask3 (s 1)) (fun t => ringW t == 0 && (stream5 t).queue == [{ seq := 1, kind := .violation 5 }] && (stream5 t).c == 4) = true ∧
     gives (.maskResolutionApply 5) (drains (some prov1)) (fun t => ringWords t 3 == [12 + 2 ^ 16 + 2 * 2 ^ 24, 4, 0] && ringW t == 12 &&
       ((stream5 t).c, (stream5 t).phase) == (5, .truncating) && ((stream5 t).trunc.map (fun tr => (tr.s, tr.cause))) == some (5, 5)) = true ∧
     gives (.maskResolutionApply 5) (drains none) (fun t => (stream5 t).queue == [] && (stream5 t).phase == .idle && ringW t == 0) = true ∧
     gives (.maskResolutionApply 5) { drains (some prov1) with mem := memWrite [] (hostKey (hostAt 1 0x1008)) [1] } (fun t =>
       (stream5 t).ovf && ringW t == 0 && (stream5 t).c == 5) = true) := by decide +kernel

/-- A late frame raises P and leaves FAULT 1; one beyond C leaves FAULT 2 (R316). -/
theorem witness_Streams_refused_frames :
    (let s := fun (pos : Nat) => streaming { stream1 with f := 2, p := 2, queue := [{ seq := 9, kind := .frame pos false [] }] }
     gives (.frameApply 5) (s 1) (fun t => ringWords t 4 == [16 + 3 * 2 ^ 16, 1, 1, 9] && ((stream5 t).p, (stream5 t).phase) == (2, .idle)) = true ∧
     gives (.frameApply 5) (s 5) (fun t => ringWords t 4 == [16 + 3 * 2 ^ 16, 2, 5, 9] && (stream5 t).p == 2) = true) := by decide +kernel

/-- TROFF counts the records that the collectors held, one of lost records, and its own (R397). -/
theorem witness_SystemForms_troff :
    (let T : TraceSession := { base := 0x8000, log2 := 12, wrap := true, scope := 0, opener := 0, w := 32 }
     let s := withCtx (mach 0 []) (fun C => { C with trace := some T })
     let u := { s with pkg := { s.pkg with collectors := vset (vset s.pkg.collectors 0 [(0, 0), (1, 0), (0, 0)]) 1 [(0, 0)], traceLost := [(64, 7)] } }
     puts (.troff 3) s 3 48 = true ∧ puts (.troff 3) u 3 (32 + 16 * 5) = true ∧
     puts (.troff 3) (withCtx { u with pkg := { u.pkg with traceLost := [] } } (fun C => { C with trace := some { T with wrap := false, w := 4064 } })) 3 4096 = true) := by
  decide +kernel

/-! ### Further witnesses -/

/-- At the peer: a granule of the context's GROUP is written, across a page at two frames; of another GROUP nothing is (R418). -/
theorem witness_HostRecords_peer :
    (let s := withCtx (mapped (mach mem0 [])) (fun C => { C with load := some { load0 with group := some { group1 with group := 7 } } })
     let peer := fun (gr va : Word) => Instr.xferComplete (.peer 0 gr 2 va (List.replicate 64 1) 0x2000000100000003 9)
     (ctx0 s).groupNo = some 7 ∧
     gives (peer 7 0x8000000000008040) s (fun t => memRead t.mem (hbmKey 0x9040) 64 == List.replicate 64 1 && t.fabric.length == 1) = true ∧
     gives (peer 7 0x8000000000008FF8) s (fun t => memRead t.mem (hbmKey 0x9FF8) 9 == List.replicate 8 1 ++ [0] &&
       memRead t.mem (hbmKey 0xB000) 57 == List.replicate 56 1 ++ [0]) = true ∧
     gives (peer 8 0x8000000000008040) s (fun t => t.mem == s.mem && t.fabric.isEmpty) = true) := by decide +kernel

/-- A launch leaves no memory tag in an element of its context, placed or not (R154). -/
theorem test_launch_clears_tags : gives (.postLaunch 0) { loading0 { load0 with pending := [], complete := [0, 1] } with
      tags := [(scratchKey 64 0x40, 3), (hbmKey 0, 5)] } (fun t => t.tags == [(hbmKey 0, 5)]) = true := by decide +kernel

/-- A work item keeps the members of its scope in their order at its acceptance. -/
theorem witness_WorkQueues_members : gives (.workItemAccept 0) (flown (fl 0 (some (enginePort 0)) (.work 3 [5] 2 m0 ret0)))
      (fun t => (ctx0 t).work.map (·.members) == [(ctx0 t).scopeMembers 0 3]) = true ∧
    gives (.workItemAccept 0) (flown (fl 0 (some (enginePort 0)) (.work 31 [5] 2 m0 ret0))) (fun t => (ctx0 t).work.map (·.members) == [[5]]) = true := by
  decide +kernel

/-- Conditions and their actions (R137), the index of a key (R139), and the values of a bin at its configuration (R141). -/
theorem test_conditions : condOk 0x10000 = true ∧ condHolds 0x10006 9 = true ∧ condAct 0x10006 9 = 9 ∧
    keyIndex 0xFFFFFFFF 9 < 9 ∧ keyIndex 0 9 = 0 ∧ binInit 3 0 = [0, 0xFFFFFFFF] ∧ binInit 4 1 = [0, 0xFFFFFFFF] := by decide +kernel

/-- A launch with WDLIM 0 counts past 2^32 clocks, and reads the count modulo 2^32; a limit near 2^32 is passed all the same (R96, R103). -/
theorem test_watchdog_past_32_bits :
    (let s := { withElem (withAct (mach 1 []) (fun A => { A with begun := true })) 1 (fun E => { E with wdlim := 0xFFFFFFFF }) with time := 2 ^ 32 + 5 }
     s.wdcnt (actOf s) = 5 ∧ s.wdClocks (actOf s) = 2 ^ 32 + 5 ∧ s.watchdogDue 1 (actOf s) = true) := by decide

/-- A floored channel that is ready counts the start of another; the last-started number follows a start by priority alone (R86). -/
theorem test_wait_counts :
    (let w := { bound with bind := some { b0 with floor := true, prio := 2 }, queue := [m0], wait := 5 }
     gives (.activationStart 1) (withChan (withChan (mach 0 []) 1 2 { bound with queue := [m0], wait := 7 }) 1 9 w) (fun t =>
       (t.chan 1 false 9).wait == 6 && (t.chan 1 false 2).wait == 0 && (t.elem 1).lastStart == [(3, 2)]) = true ∧
     gives (.activationStart 1) (withChan (withChan (mach 0 []) 1 2 { bound with queue := [m0] }) 1 9 { w with wait := 63 }) (fun t =>
       (t.chan 1 false 9).wait == 0 && (t.elem 1).lastStart == []) = true) := by decide +kernel

/-- SRD reads what SWR wrote (R84). -/
theorem test_spr_reads_back : gives (.swr 0 17) (mach 0 [0x100000]) (fun t => puts (.srd 3 17) t 3 0x100000) = true ∧
    gives (.swr 0 6) (mach 0 [4]) (fun t => puts (.srd 3 6) t 3 4) = true := by decide +kernel

/-- MFLUSH of a command of a gang that has not started, and of one whose second share has not (R289); MSTAT says that a command is held. -/
theorem witness_MatrixPushes_gang :
    (let sh := fun (p : Nat) (e : EId) (st : ShareState) => ({ pos := p, elem := e, aslot := 0, state := st, bA := 1, fA := 3 } : Share)
     let gang := fun (on : Bool) (st : ShareState) => { prodCmd with
       started := on, kind := .product 0 1 1 1 32 true (some (1, 3)), shares := [sh 0 0 st, sh 1 64 .waiting] }
     let told := fun (t : State) => t.fabric.filterMap (fun f => match f.body with | .msg _ m _ => some (f.dst, fld (vget 0 m.words 2) 7 0) | _ => none)
     (gang false .waiting).unstarted = true ∧ (gang false .waiting).isGang = true ∧
     gives .mflush (tiled [gang false .waiting]) (fun t => told t == [(some 0, 6), (some 64, 6)] && (t.elem 0).mq.all (·.ended)) = true ∧
     gives .mflush (tiled [gang true (.running 0)]) (fun t => told t == [] &&
       (t.elem 0).mq.map (fun c => c.shares.map (·.state)) == [[.running 0, .failed 6]]) = true ∧
     ((tiled [{ prodCmd with started := false, held := true }]).mstat 0).getLsbD 7 = true ∧ ((tiled [prodCmd]).mstat 0).getLsbD 7 = false ∧
     fld ((tiled [prodCmd]).mstat 0) 63 48 = 0) := by decide +kernel

theorem witness_StepKeepsMemory : fetching.MemOk ∧ (match step fetching with | .next _ => true | _ => false) = true := by
  decide +kernel

/-- The leader of a running frond reads byte 0x40 of its window, which member 1 holds: it waits for its own posted write to that member,
and not for one to another; with none in flight it reads the member's bytes (R170, R348, R391). -/
theorem witness_DebugForms_frond :
    (let m1 := mkE 0 1 0
     let s := fun l : List Flight => { leading (frond1 true) 0 with mem := memWrite [] (scratchKey m1 0) [7], fabric := l }
     let sent := fun t : EId => [fl 0 (some t) (.rst 0x40 0 8 5)]
     let reads := fun l => withAct (s l) (fun A => A.setReg 1 0x40)
     State.windowHolder (s []) 0 0x40 = m1 ∧ (s []).isRunning 0 = true ∧ 0x40 + 8 ≤ (s []).ownSize 0 ∧
     State.postedTo (s (sent m1)) 0 m1 ≠ [] ∧ gives (.dbgrd 3 0 1) (reads (sent m1)) (fun t => (t.elem 0).stalled && (actOf t).pc == 0) = true ∧
     puts (.dbgrd 3 0 1) (reads (sent (mkE 0 2 0))) 3 7 = true ∧ puts (.dbgrd 3 0 1) (reads []) 3 7 = true) := by decide +kernel

/-- A short evaluation message enters with WP + 256 in in7, a plain one with its own word (R240). -/
theorem witness_ActivationStarts_eval :
    (let m : Msg := { m0 with kind := .eval 0 1 2 6 }
     let start := fun m : Msg => gives (.activationStart 1) (withChan (mach 0 []) 1 2 { bound with queue := [m] })
       (fun t => ((t.elem 1).act.map (fun A => vget 0 A.inn 7)) == some (vget 0 (entryWords b0 m) 7))
     m.region = false ∧ vget 0 (entryWords b0 m) 7 = 0x2100 ∧ vget 0 (entryWords b0 m0) 7 = 0 ∧ start m = true ∧ start m0 = true) := by
  decide +kernel

/-- A cell write into another context's allotment is barred: it leaves the mark of an error, and clears that of its own (R157, R419). -/
theorem test_barred_write_keeps_error :
    (let s := { mapped (mach mem0 []) with poison := [hbmKey 0x9000] }
     let w := fun t : State => (t.cellWrite mem0 0x8000000000008000 0 (List.replicate 32 5)).poison
     w s = [] ∧ w (otherAllot s (ctx0 s).key) = [] ∧ w (otherAllot s ((ctx0 s).key + 1)) = [hbmKey 0x9000]) := by decide +kernel

/-- A checkpoint is copied while its cell has the size of STATE, and not where the cell was made anew with another (R310, R320; log 34). -/
theorem test_checkpoint_sizes :
    (let s := fun rows : Nat => withSheet (streaming stream1) (sheet2.updCell 3 (fun c => { c with rows := rows, wpend := false, wtaken := false }))
     let pend := fun t : State => (t.sheet 0 1).bind (fun S => (S.cell 3).map (·.wpend))
     pend ((s 1).copyState 5 stream1 0) = some true ∧ pend ((s 2).copyState 5 stream1 0) = some false) := by decide +kernel

end Sys2Proof.Tests
end

section
/-!
Scalar accesses through the checks of R158: an access to the own scratchpad is one piece, which is read or written where it lies
(R155, R158, R163), and what a load or store answers for each answer of the checks and of its pieces (R146, R160).
-/
namespace Sys2Proof.Machine

/-! ### Addresses of the own scratchpad (R145) -/

theorem fld_ofNat (p hi lo : Nat) (h : p < 2 ^ 64) : fld (BitVec.ofNat 64 p) hi lo = p / 2 ^ lo % 2 ^ (hi + 1 - lo) := by
  rw [fld, BitVec.toNat_ofNat, Nat.mod_eq_of_lt h]

/-- An offset below 64 KiB is an address of aperture 0, window 0 and tag 0. -/
theorem fields_of_offset {p : Nat} (h : p < 65536) :
    apOf (BitVec.ofNat 64 p) = 0 ∧ ptagOf (BitVec.ofNat 64 p) = 0 ∧ fld (BitVec.ofNat 64 p) 55 19 = 0 ∧
    fld (BitVec.ofNat 64 p) 15 0 = p := by
  have h64 : p < 2 ^ 64 := by omega
  simp only [apOf, ptagOf, fld_ofNat p _ _ h64]
  omega

theorem resolve_offset {s : State} {e : EId} {aps : List Nat} {p : Nat} (haps : aps.contains 0 = true) (hf : s.frondOf e = none)
    (hp : p < 65536) : resolve s e aps (BitVec.ofNat 64 p) = .ok (.own p) := by
  obtain ⟨hap, -, hhigh, hlow⟩ := fields_of_offset hp
  simp only [resolve, zeroBitsOk, hap, haps, hf, hhigh, hlow]
  rfl

theorem scratchKey_lt {e p : Nat} (he : e < 16384) (hp : p < 65536) : scratchKey e p < 2 ^ 60 := by
  unfold scratchKey
  omega

/-! ### An own access is one piece that passes the checks (R155, R158) -/

theorem splitAccess_aligned {p n : Nat} (hn : n = 1 ∨ n = 2 ∨ n = 4 ∨ n = 8) (hp : p % n = 0) : splitAccess p n 64 = [part 0 n] := by
  have hcount : (n + 64 - 1) / 64 = 1 := by omega
  have hmin : Nat.min 64 n = n := by rcases hn with rfl | rfl | rfl | rfl <;> rfl
  have hline : n ≤ 64 - p % 64 := by rcases hn with rfl | rfl | rfl | rfl <;> omega
  have hn0 : n ≠ 0 := by omega
  simp only [splitAccess, hn0, hp, hcount, if_false, ne_eq, not_true_eq_false, List.range_one, List.flatMap_singleton, Nat.zero_mul,
    Nat.add_zero, Nat.sub_zero, hmin, cutLine, hline, if_true]

theorem lacking_eq_none {rs : List Word} {attr size p n : Nat} (h : ∀ j, j < n → hasAttr rs ((p + j) % size) attr = true) :
    lacking rs attr size p n = none := by
  induction n with
  | zero => rfl
  | succ n ih =>
    simp only [lacking, ih (fun j hj => h j (by omega)), h n (by omega), if_true]

/-- The piece of an own access. -/
def State.ownPiece (s : State) (p n : Nat) : Piece :=
  { addr := BitVec.ofNat 64 p, size := n, whole := n, rest := false, place := .own p, key := .ok (scratchKey s.cur p) }

theorem firstFault_singleton {q : Piece} {chk : Piece → Option Flt} (h : chk q = none) : firstFault [q] chk = none := by
  simp [firstFault, h]

theorem roFault_ownPiece (s : State) (e : EId) (p n : Nat) : roFault s e (s.ownPiece p n) = none := rfl

section OwnAccess

variable {s : State} {A : Act} {a : Word} {p n : Nat} {attrs : List Nat}

theorem State.OwnAccess.offset_lt (h : s.OwnAccess A a p n attrs) : p < 65536 := by
  have := h.size
  have := h.inside
  omega

theorem State.OwnAccess.ownSize_eq (h : s.OwnAccess A a p n attrs) : s.ownSize s.cur = 65536 := by
  simp [State.ownSize, h.alone]

theorem State.OwnAccess.regionsOf_eq (h : s.OwnAccess A a p n attrs) : s.regionsOf s.cur = (s.elem s.cur).regions.toList := by
  simp [State.regionsOf, h.alone]

theorem State.OwnAccess.key_lt (h : s.OwnAccess A a p n attrs) : scratchKey s.cur p < 2 ^ 60 :=
  scratchKey_lt h.onMesh h.offset_lt

theorem State.OwnAccess.resolvePieces_eq (h : s.OwnAccess A a p n attrs) {d : Need} (haps : d.aps.contains 0 = true) :
    resolvePieces s s.cur d a [part 0 n] = .ok [s.ownPiece p n] := by
  have hkey : s.ownKey s.cur p = scratchKey s.cur p := by simp [State.ownKey, h.alone, Nat.mod_eq_of_lt h.offset_lt]
  have hr := resolve_offset haps h.alone h.offset_lt
  simp only [resolvePieces, part, h.addr, BitVec.add_zero, hr, placeKey, hkey, State.ownPiece]

theorem State.OwnAccess.regionFault_eq_none (h : s.OwnAccess A a p n attrs) {attr : Nat} (wr : Bool) (ha : attr ∈ attrs) :
    regionFault s s.cur wr attr (s.ownPiece p n) = none := by
  have hl : lacking (s.elem s.cur).regions.toList attr 65536 p n = none := lacking_eq_none fun j hj => by
    have := h.inside
    rw [Nat.mod_eq_of_lt (by omega)]
    exact h.permitted j hj attr ha
  simp [regionFault, State.ownPiece, h.regionsOf_eq, h.ownSize_eq, hl]

theorem State.OwnAccess.touchesArea_eq_false (h : s.OwnAccess A a p n attrs) (hA : s.Runs A) :
    touchesArea s s.cur (.own p) n = false := by
  have hA' : (s.elem s.cur).act = some A := hA
  simp only [touchesArea, h.ownSize_eq, hA', List.any_eq_false, List.mem_range]
  intro j hj
  have := h.inside
  have := h.clear j hj
  simp only [inArea, Nat.mod_eq_of_lt (show p + j < 65536 by omega), Bool.and_eq_true, decide_eq_true_eq]
  omega

theorem State.OwnAccess.tagFault_eq_none (h : s.OwnAccess A a p n attrs) (wr : Bool) : tagFault s s.cur wr (s.ownPiece p n) = none := by
  have hnone : (List.range n).any (fun i => hasAttr (s.elem s.cur).regions.toList ((p + i) % 65536) attrTC) = false := by
    rw [List.any_eq_false]
    intro j hj
    have hj := List.mem_range.mp hj
    have := h.inside
    rw [Nat.mod_eq_of_lt (by omega), h.unchecked j hj]
    simp
  simp [tagFault, State.ownPiece, h.regionsOf_eq, h.ownSize_eq, hnone]

theorem State.OwnAccess.checkPieces_eq_none (h : s.OwnAccess A a p n attrs) (hA : s.Runs A) {d : Need} (hrd : d.rd = true → attrRD ∈ attrs)
    (hwr : d.wr = true → attrWR ∈ attrs) : checkPieces s s.cur d a [s.ownPiece p n] = none := by
  have hr : (if d.rd then firstFault [s.ownPiece p n] (regionFault s s.cur d.write attrRD) else none) = none := by
    split
    · next hd => exact firstFault_singleton (h.regionFault_eq_none _ (hrd hd))
    · rfl
  have hw : (if d.wr then firstFault [s.ownPiece p n] (regionFault s s.cur d.write attrWR) else none) = none := by
    split
    · next hd => exact firstFault_singleton (h.regionFault_eq_none _ (hwr hd))
    · rfl
  have ha : [s.ownPiece p n].any (fun q => touchesArea s s.cur q.place q.size) = false := by
    simp [State.ownPiece, h.touchesArea_eq_false hA]
  have ht := firstFault_singleton (h.tagFault_eq_none d.write)
  have hro := firstFault_singleton (roFault_ownPiece s s.cur p n)
  simp only [checkPieces, hr, hw, ha, ht, hro, Bool.false_eq_true, if_false, ite_self]

/-- An own access is one piece, which passes the checks. -/
theorem State.OwnAccess.plan_eq (h : s.OwnAccess A a p n attrs) (hA : s.Runs A) {d : Need} (haps : d.aps.contains 0 = true)
    (hpiece : d.piece = 0) (halign : d.align = 0) (hrd : d.rd = true → attrRD ∈ attrs) (hwr : d.wr = true → attrWR ∈ attrs) :
    plan s s.cur d a n = .ok [s.ownPiece p n] := by
  have hlt := h.offset_lt
  obtain ⟨hap, -, -, hlow⟩ := fields_of_offset hlt
  rw [← h.addr] at hap hlow
  have hbase : splitBase s s.cur a = p := by simp [splitBase, hap, h.alone, hlow]
  have hparts : partsOf s s.cur d a n = [part 0 n] := by
    simp [partsOf, hpiece, hbase, atomOf, hap, splitAccess_aligned h.size h.aligned]
  have haddr : a.toNat % n = 0 := by
    rw [h.addr, BitVec.toNat_ofNat, Nat.mod_eq_of_lt (show p < 2 ^ 64 by omega), h.aligned]
  simp [plan, hparts, h.resolvePieces_eq haps, hpiece, halign, haddr, h.checkPieces_eq_none hA hrd hwr]

/-! ### Its piece is read or written where it lies -/

theorem State.OwnAccess.readPieces_eq (h : s.OwnAccess A a p n attrs) :
    readPieces s [s.ownPiece p n] 0 = .ok (memRead s.mem (scratchKey s.cur p) n) := by
  simp [readPieces, State.ownPiece, h.sound]

theorem eccUnit_pos (k : Nat) : 0 < eccUnit k := by unfold eccUnit; split <;> decide

/-- A store clears no error where none stands. -/
theorem clearPoison_of_sound {s : State} {key n : Nat} (h : poisonIn s key n = none) : clearPoison s key n = s := by
  unfold clearPoison
  unfold poisonIn at h
  split
  · rfl
  · next hk =>
    rw [if_neg hk, List.find?_eq_none] at h
    have hf : s.poison.filter (fun k => !(decide (key ≤ k) && decide (k + eccUnit key ≤ key + n))) = s.poison := by
      rw [List.filter_eq_self]
      intro k hkm
      have hk := h k hkm
      have := eccUnit_pos key
      have := eccUnit_pos k
      simp only [Bool.and_eq_true, decide_eq_true_eq, not_and, Bool.not_eq_true', Bool.and_eq_false_iff, decide_eq_false_iff_not] at hk ⊢
      omega
    rw [hf]

theorem State.OwnAccess.not_barred (h : s.OwnAccess A a p n attrs) (w : Word) : s.barred w (scratchKey s.cur p) n = false := by
  have := h.key_lt
  simp only [State.barred, Bool.and_eq_false_iff, decide_eq_false_iff_not]
  omega

theorem State.OwnAccess.writePieces_eq (h : s.OwnAccess A a p n attrs) {bs : List Byte} (hbs : bs.length = n) :
    writePieces s [s.ownPiece p n] bs 0 =
      ({ s.dropOlds s.cur p n with mem := memWrite s.mem (scratchKey s.cur p) bs }, none) := by
  have hb := h.not_barred (s.keyOf s.cur)
  have hc := clearPoison_of_sound h.sound
  have hblocked : (s.ownPiece p n).blocked s 0 = none := by simp [Piece.blocked, State.ownPiece, hb, hc, h.sound]
  have hwrite : (s.ownPiece p n).write s bs = { s.dropOlds s.cur p n with mem := memWrite s.mem (scratchKey s.cur p) bs } := by
    simp [Piece.write, State.ownPiece, hb, hc, State.putPiece, hbs]
  have htake : bs.take (s.ownPiece p n).size = bs := List.take_of_length_le (Nat.le_of_eq hbs)
  have hmore : (s.ownPiece p n).more = false := by simp [Piece.more, State.ownPiece]
  simp [writePieces, hblocked, hmore, htake, hwrite]

theorem State.OwnAccess.foldPieces_eq (h : s.OwnAccess A a p n attrs) (d : Word) (bs : List Byte) :
    foldPieces s s.cur d [s.ownPiece p n] bs = foldStore d (locOwn 65536) p bs := by
  simp [foldPieces, foldPlace, foldAt, State.ownPiece, h.ownSize_eq, foldStore]

theorem notePieces_ownPiece (t s : State) (e : EId) (p n : Nat) : notePieces t e [s.ownPiece p n] = t := rfl

/-- A load of the own scratchpad answers the bytes at the offset, and changes nothing. -/
theorem State.OwnAccess.loadBytes_eq (h : s.OwnAccess A a p n [attrRD]) (hA : s.Runs A) {d : Need} (haps : d.aps.contains 0 = true)
    (hpiece : d.piece = 0) (halign : d.align = 0) (hwr : d.wr = false) :
    loadBytes s d a n = (s, .ok (memRead s.mem (scratchKey s.cur p) n)) := by
  have hp := h.plan_eq hA haps hpiece halign (by simp) (by simp [hwr])
  simp only [loadBytes, hp, notePieces_ownPiece, h.readPieces_eq]

/-- A store to the own scratchpad writes its bytes at the offset and folds them into the digest. -/
theorem State.OwnAccess.storeBytes_eq (h : s.OwnAccess A a p n [attrWR]) (hA : s.Runs A) {d : Need} (haps : d.aps.contains 0 = true)
    (hpiece : d.piece = 0) (halign : d.align = 0) (hrd : d.rd = false) {bs : List Byte} (hbs : bs.length = n) :
    storeBytes s A d a bs = ({ s.dropOlds s.cur p n with mem := memWrite s.mem (scratchKey s.cur p) bs },
      { A with digest := foldStore A.digest (locOwn 65536) p bs }, none) := by
  have hp := h.plan_eq hA haps hpiece halign (by simp [hrd]) (by simp)
  simp only [storeBytes, hbs, hp, h.writePieces_eq hbs, notePieces_ownPiece, h.foldPieces_eq]

end OwnAccess

end Sys2Proof.Machine
end

section
/-!
Scalar loads and stores as the shared `loadTo` and `storeFrom`, with the addresses of R161, R163 and R38, and what those two
answer for each answer of the checks and of the pieces (R146, R160).
-/
namespace Sys2Proof.Machine

/-! ### Addresses (R38, R161, R163) -/

theorem scaled_eq (base : Word) (i : BitVec 8) (n : Nat) : scaled base i n = base + BitVec.ofInt 64 (i.toInt * n) := by
  rw [scaled, immS, BitVec.signExtend, BitVec.ofInt_mul, BitVec.ofInt_natCast]

theorem indexed_eq (x : Word) (n : Nat) : x * BitVec.ofNat 64 n = BitVec.ofNat 64 (x.toNat * n) := by
  rw [BitVec.ofNat_mul, BitVec.ofNat_toNat, BitVec.setWidth_eq]

theorem compactOffset_eq (i : BitVec 3) : immN i * 8 = BitVec.ofNat 64 (8 * i.toNat) := by
  rw [BitVec.ofNat_mul, BitVec.ofNat_toNat, immN, BitVec.mul_comm]
  rfl

theorem c3_eq (a : BitVec 3) : c3 a = BitVec.ofNat 6 a.toNat := (BitVec.ofNat_toNat 6 a).symm

theorem c5_eq (d : BitVec 5) : c5 d = BitVec.ofNat 6 d.toNat := (BitVec.ofNat_toNat 6 d).symm

/-- The sign-extension of a value of n bytes (R161). -/
theorem sextFrom_eq {n v : Nat} (h : v < 2 ^ (8 * n)) :
    sextFrom n v = BitVec.ofInt 64 (if v < 2 ^ (8 * n - 1) then (v : Int) else v - 2 ^ (8 * n)) := by
  rw [sextFrom, sextNat, Nat.mod_eq_of_lt h]
  push_cast
  rfl

theorem leNat_lt (bs : List Byte) : leNat bs < 2 ^ (8 * bs.length) := by
  induction bs with
  | nil => simp [leNat]
  | cons b bs ih =>
    have hb := b.isLt
    have hpow : 2 ^ (8 * (bs.length + 1)) = 256 * 2 ^ (8 * bs.length) := by rw [Nat.mul_succ, Nat.pow_add, Nat.mul_comm]
    simp only [leNat, List.length_cons, hpow]
    omega

@[simp] theorem wordBytes_length (x : Word) : (wordBytes x).length = 8 := leBytes_length 8 x.toNat

/-! ### The instructions as `loadTo` and `storeFrom` -/

section Instructions

variable {s : State} {A : Act} (hA : s.Runs A)
include hA

theorem exec_ld (d : Reg) (z : BitVec 2) (a : Reg) (i : BitVec 8) :
    exec (.ld d z a i) s = loadTo s A { aps := apsLoad s.cur, rd := true } (A.reg a + BitVec.ofInt 64 (i.toInt * (2 ^ z.toNat : Nat)))
      (2 ^ z.toNat) d zextTo 4 := by
  rw [← scaled_eq]
  exact withAct_of _ hA

theorem exec_ldSigned (d : Reg) (z : BitVec 2) (a : Reg) (i : BitVec 8) :
    exec (.ldSigned d z a i) s = loadTo s A { aps := apsLoad s.cur, rd := true }
      (A.reg a + BitVec.ofInt 64 (i.toInt * (2 ^ z.toNat : Nat))) (2 ^ z.toNat) d (sextFrom (2 ^ z.toNat)) 4 := by
  rw [← scaled_eq]
  exact withAct_of _ hA

theorem exec_ldAcq (d a : Reg) (z : BitVec 2) :
    exec (.ldAcq d a z) s = loadTo s A { aps := apsLoad s.cur, rd := true, natural := true } (A.reg a) (2 ^ z.toNat) d zextTo 4 :=
  withAct_of _ hA

theorem exec_ldDC (d : BitVec 5) (a i : BitVec 3) :
    exec (.ldDC d a i) s = loadTo s A { aps := apsLoad s.cur, rd := true }
      (A.reg (BitVec.ofNat 6 a.toNat) + BitVec.ofNat 64 (8 * i.toNat)) 8 (BitVec.ofNat 6 d.toNat) zextTo 2 := by
  rw [← compactOffset_eq, ← c3_eq, ← c5_eq]
  exact withAct_of _ hA

theorem exec_st (d : Reg) (z : BitVec 2) (a : Reg) (i : BitVec 8) :
    exec (.st d z a i) s = storeFrom s A { aps := apsLoad s.cur, wr := true }
      (A.reg a + BitVec.ofInt 64 (i.toInt * (2 ^ z.toNat : Nat))) (2 ^ z.toNat) (A.reg d) 4 := by
  rw [← scaled_eq]
  exact withAct_of _ hA

theorem exec_stDC (d : BitVec 5) (a i : BitVec 3) :
    exec (.stDC d a i) s = storeFrom s A { aps := apsLoad s.cur, wr := true }
      (A.reg (BitVec.ofNat 6 a.toNat) + BitVec.ofNat 64 (8 * i.toNat)) 8 (A.reg (BitVec.ofNat 6 d.toNat)) 2 := by
  rw [← compactOffset_eq, ← c3_eq, ← c5_eq]
  exact withAct_of _ hA

omit hA in
/-- The bounds check of R163 passes an index below the bound. -/
theorem bounded_ok {a b : Reg} (h : (A.reg b).toNat < (A.reg (a + 1)).toNat) (n : Nat) :
    bounded A a b n = .ok (A.reg a + BitVec.ofNat 64 ((A.reg b).toNat * n)) := by
  rw [bounded, if_neg (Nat.not_le.mpr h), indexed_eq]

omit hA in
theorem bounded_error {a b : Reg} (h : (A.reg (a + 1)).toNat ≤ (A.reg b).toNat) (n : Nat) :
    bounded A a b n = .error { code := 0x13, faddr := A.reg b, extra := A.reg (a + 1) } := if_pos h

theorem exec_ldx {d a b : Reg} {z : BitVec 2} (h : (A.reg b).toNat < (A.reg (a + 1)).toNat) :
    exec (.ldx d a b z) s = loadTo s A { aps := apsLocal s.cur, rd := true }
      (A.reg a + BitVec.ofNat 64 ((A.reg b).toNat * 2 ^ z.toNat)) (2 ^ z.toNat) d zextTo 4 := by
  refine (withAct_of _ hA).trans ?_
  simp only [bounded_ok h, sizeOf2]

theorem exec_stx {d a b : Reg} {z : BitVec 2} (h : (A.reg b).toNat < (A.reg (a + 1)).toNat) :
    exec (.stx d a b z) s = storeFrom s A { aps := apsLocal s.cur, wr := true }
      (A.reg a + BitVec.ofNat 64 ((A.reg b).toNat * 2 ^ z.toNat)) (2 ^ z.toNat) (A.reg d) 4 := by
  refine (withAct_of _ hA).trans ?_
  simp only [bounded_ok h, sizeOf2]

/-- An index that is not below its bound takes code 0x13 with both (R163). -/
theorem exec_ldx_outOfBounds {d a b : Reg} {z : BitVec 2} (h : (A.reg (a + 1)).toNat ≤ (A.reg b).toNat) :
    Traps s (.ldx d a b z) 0x13 (A.reg b) (A.reg (a + 1)) := by
  refine (withAct_of _ hA).trans ?_
  simp only [bounded_error h, finish_some]

theorem exec_stx_outOfBounds {d a b : Reg} {z : BitVec 2} (h : (A.reg (a + 1)).toNat ≤ (A.reg b).toNat) :
    Traps s (.stx d a b z) 0x13 (A.reg b) (A.reg (a + 1)) := by
  refine (withAct_of _ hA).trans ?_
  simp only [bounded_error h, finish_some]

theorem exec_stRel_refused {d a : Reg} {z : BitVec 2} {f : Flt}
    (h : plan s s.cur { aps := apsLoad s.cur, wr := true, natural := true } (A.reg a) (2 ^ z.toNat) = .error f) :
    exec (.stRel d a z) s = finish (noteStopped s s.cur { aps := apsLoad s.cur, wr := true, natural := true } (A.reg a) (2 ^ z.toNat) f,
      some f) := by
  refine (withAct_of _ hA).trans ?_
  simp only [sizeOf2, h]

/-- ST.rel waits for the posted writes of its element (R195; log 20). -/
theorem exec_stRel_waits {d a : Reg} {z : BitVec 2} {ps : List Piece}
    (h : plan s s.cur { aps := apsLoad s.cur, wr := true, natural := true } (A.reg a) (2 ^ z.toNat) = .ok ps)
    (hposted : s.postedOf s.cur ≠ []) : exec (.stRel d a z) s = stall s := by
  refine (withAct_of _ hA).trans ?_
  simp [sizeOf2, h, hposted]

theorem exec_stRel_performed {d a : Reg} {z : BitVec 2} {ps : List Piece}
    (h : plan s s.cur { aps := apsLoad s.cur, wr := true, natural := true } (A.reg a) (2 ^ z.toNat) = .ok ps)
    (hposted : s.postedOf s.cur = []) :
    exec (.stRel d a z) s = storeFrom s A { aps := apsLoad s.cur, wr := true, natural := true } (A.reg a) (2 ^ z.toNat) (A.reg d) 4 := by
  refine (withAct_of _ hA).trans ?_
  simp [sizeOf2, h, hposted]

end Instructions

/-! ### What `loadTo` and `storeFrom` answer -/

theorem loadTo_error {s t : State} {A : Act} {need : Need} {ea : Word} {n : Nat} {f : Flt} (d : Reg) (ext : Nat → Word) (len : Nat)
    (h : loadBytes s need ea n = (t, .error f)) : loadTo s A need ea n d ext len = .next (t.takeFault t.cur f) := by
  simp only [loadTo, h, finish_some]

theorem loadTo_ok {s t : State} {A : Act} {need : Need} {ea : Word} {n : Nat} {bs : List Byte} (d : Reg) (ext : Nat → Word) (len : Nat)
    (h : loadBytes s need ea n = (t, .ok bs)) :
    loadTo s A need ea n d ext len = .next (t.setAct ((A.setReg d (ext (leNat bs))).adv len)) := by
  simp only [loadTo, h, retire]

@[simp] theorem noteStopped_cur (s : State) (e : EId) (d : Need) (a : Word) (n : Nat) (f : Flt) : (noteStopped s e d a n f).cur = s.cur := by
  unfold noteStopped
  split
  · split <;> simp
  · rfl

@[simp] theorem write_cur (p : Piece) (s : State) (bs : List Byte) : (p.write s bs).cur = s.cur := by
  unfold Piece.write
  split
  · rfl
  · split <;> simp

theorem writePieces_cons_cases {s : State} {p : Piece} {ps : List Piece} {bs : List Byte} {done : Nat} {r : Res}
    (h : writePieces s (p :: ps) bs done = r) :
    (∃ f, r = (s, some f)) ∨ writePieces (p.write s (bs.take p.size)) ps (bs.drop p.size) (done + p.count) = r := by
  rw [writePieces] at h
  split at h
  · exact .inl ⟨_, h.symm⟩
  · exact .inr h

theorem writePieces_cur (s : State) (ps : List Piece) (bs : List Byte) (done : Nat) : (writePieces s ps bs done).1.cur = s.cur := by
  induction ps generalizing s bs done with
  | nil => rfl
  | cons p ps ih =>
    rcases writePieces_cons_cases (rfl : writePieces s (p :: ps) bs done = _) with ⟨f, h⟩ | h
    · rw [h]
    · rw [← h, ih, write_cur]

section Stores

variable {s t : State} {A : Act} {need : Need} {ea : Word} {n : Nat} {x : Word} {ps : List Piece} {f : Flt} (len : Nat)

/-- A store that the checks refuse takes their fault, and stores nothing. -/
theorem storeFrom_refused (h : plan s s.cur need ea (leBytes n x.toNat).length = .error f) :
    storeFrom s A need ea n x len =
      .next (((noteStopped s s.cur need ea (leBytes n x.toNat).length f).setAct A).takeFault s.cur f) := by
  simp only [storeFrom, storeBytes, h, finish_some, setAct_cur, noteStopped_cur]

/-- A store that a piece stops takes that piece's fault, the pieces below it stored. -/
theorem storeFrom_stopped (h : plan s s.cur need ea (leBytes n x.toNat).length = .ok ps)
    (hw : writePieces s ps (leBytes n x.toNat) 0 = (t, some f)) :
    storeFrom s A need ea n x len = .next (((notePieces t s.cur ps).setAct A).takeFault s.cur f) := by
  have hcur : t.cur = s.cur := by simpa only [hw] using writePieces_cur s ps (leBytes n x.toNat) 0
  simp only [storeFrom, storeBytes, h, hw, finish_some, setAct_cur, notePieces_cur, hcur]

theorem storeFrom_performed (h : plan s s.cur need ea (leBytes n x.toNat).length = .ok ps)
    (hw : writePieces s ps (leBytes n x.toNat) 0 = (t, none)) :
    storeFrom s A need ea n x len = .next ((notePieces t s.cur ps).setAct
      ({ A with digest := foldPieces s s.cur A.digest ps (leBytes n x.toNat) }.adv len)) := by
  simp only [storeFrom, storeBytes, h, hw, retire]

/-- A store that the checks refuse, or that a piece stops. -/
theorem exec_store_fails {j : Instr} {len : Nat} (hj : exec j s = storeFrom s A need ea n x len) :
    (∀ f, plan s s.cur need ea (leBytes n x.toNat).length = .error f →
      exec j s = .next (((noteStopped s s.cur need ea (leBytes n x.toNat).length f).setAct A).takeFault s.cur f)) ∧
    (∀ ps t f, plan s s.cur need ea (leBytes n x.toNat).length = .ok ps → writePieces s ps (leBytes n x.toNat) 0 = (t, some f) →
      exec j s = .next (((notePieces t s.cur ps).setAct A).takeFault s.cur f)) :=
  ⟨fun _ hp => hj.trans (storeFrom_refused len hp), fun _ _ _ hp hw => hj.trans (storeFrom_stopped len hp hw)⟩

end Stores

/-! ### Loads and stores of the own scratchpad -/

section Own

variable {s : State} {A : Act} {ea : Word} {p n : Nat} {need : Need}

theorem apsLoad_zero (e : EId) : (apsLoad e).contains 0 = true := by unfold apsLoad; split <;> rfl

theorem apsLocal_zero (e : EId) : (apsLocal e).contains 0 = true := by unfold apsLocal; split <;> rfl

theorem loadTo_own (hA : s.Runs A) (h : s.OwnAccess A ea p n [attrRD]) (haps : need.aps.contains 0 = true) (hpiece : need.piece = 0)
    (halign : need.align = 0) (hwr : need.wr = false) (d : Reg) (ext : Nat → Word) (len : Nat) :
    loadTo s A need ea n d ext len =
      .next (s.setAct ((A.setReg d (ext (leNat (memRead s.mem (scratchKey s.cur p) n)))).adv len)) :=
  loadTo_ok d ext len (h.loadBytes_eq hA haps hpiece halign hwr)

theorem storeFrom_own (hA : s.Runs A) (h : s.OwnAccess A ea p n [attrWR]) (haps : need.aps.contains 0 = true) (hpiece : need.piece = 0)
    (halign : need.align = 0) (hrd : need.rd = false) (x : Word) (len : Nat) :
    storeFrom s A need ea n x len = .next (State.setAct
      { s.dropOlds s.cur p n with mem := memWrite s.mem (scratchKey s.cur p) (leBytes n x.toNat) }
      ({ A with digest := foldStore A.digest (locOwn 65536) p (leBytes n x.toNat) }.adv len)) := by
  simp only [storeFrom, h.storeBytes_eq hA haps hpiece halign hrd (leBytes_length n x.toNat), retire]

end Own

end Sys2Proof.Machine
end

section
/-!
What a store leaves at each of its pieces, and where the address of a piece leads (R145, R160, R291, R295, R419).
-/
namespace Sys2Proof.Machine

/-! ### Runs of bytes (R4) -/

theorem memRead_congr {m m' : Memory} {k n : Nat} (h : ∀ j, k ≤ j → j < k + n → memGet m j = memGet m' j) :
    memRead m k n = memRead m' k n := by
  induction n generalizing k with
  | zero => rfl
  | succ n ih =>
    simp only [memRead]
    rw [h k (by omega) (by omega), ih (fun j hj hn => h j (by omega) (by omega))]

/-- A write of consecutive bytes leaves a run of bytes outside them. -/
theorem memRead_memWrite_other {m : Memory} {k k' n : Nat} {bs : List Byte} (hm : m.wf = true) (h : k + n ≤ k' ∨ k' + bs.length ≤ k) :
    memRead (memWrite m k' bs) k n = memRead m k n :=
  memRead_congr fun j hj hn => memGet_memWrite_other k' j bs hm (by omega)

/-! ### A store piece keeps the contexts, so what is barred -/

@[simp] theorem noteOlds_ctxs (s : State) (t : EId) (o n : Nat) : (s.noteOlds t o n).ctxs = s.ctxs := by
  dsimp only [State.noteOlds]
  split <;> simp

@[simp] theorem dropOlds_ctxs (s : State) (e : EId) (p n : Nat) : (s.dropOlds e p n).ctxs = s.ctxs := by
  unfold State.dropOlds
  split <;> simp

@[simp] theorem noteStore_ctxs (s : State) (w t : EId) (o n : Nat) : (s.noteStore w t o n).ctxs = s.ctxs := by
  unfold State.noteStore
  split
  · simp
  · split <;> simp

@[simp] theorem putPiece_ctxs (s : State) (pl : Place) (key : Nat) (bs : List Byte) : (s.putPiece pl key bs).ctxs = s.ctxs := by
  unfold State.putPiece
  split <;> simp

@[simp] theorem write_ctxs (p : Piece) (s : State) (bs : List Byte) : (p.write s bs).ctxs = s.ctxs := by
  unfold Piece.write
  split
  · rfl
  · split <;> simp

/-- What the HBM controllers bar to the executing element depends on it and on the contexts alone (R419). -/
theorem barred_write (p : Piece) (s : State) (bs : List Byte) (k n : Nat) :
    (p.write s bs).barred ((p.write s bs).keyOf (p.write s bs).cur) k n = s.barred (s.keyOf s.cur) k n := by
  simp only [State.barred, State.keyOf, State.ctxAt, State.ctxOf, write_ctxs, write_cur]

/-! ### What performed store pieces leave (R160) -/

theorem write_mem_barred {s : State} {p : Piece} {k : Nat} (bs : List Byte) (hk : p.key = .ok k)
    (hb : s.barred (s.keyOf s.cur) k p.size = true) : (p.write s bs).mem = s.mem := by
  simp [Piece.write, hk, hb]

theorem write_mem_performed {s : State} {p : Piece} {k : Nat} (bs : List Byte) (hk : p.key = .ok k)
    (hb : s.barred (s.keyOf s.cur) k p.size = false) : (p.write s bs).mem = memWrite s.mem k bs := by
  simp [Piece.write, hk, hb]

/-- The bytes of piece q lie outside the n bytes at key k. -/
def Piece.Avoids (q : Piece) (k n : Nat) : Prop := ∀ k', q.key = .ok k' → k + n ≤ k' ∨ k' + q.size ≤ k

theorem memRead_write_avoids {s : State} {q : Piece} {bs : List Byte} {k n : Nat} (hm : s.MemOk) (hq : q.Avoids k n)
    (hbs : bs.length ≤ q.size) : memRead (q.write s bs).mem k n = memRead s.mem k n := by
  rcases write_mem q s bs with h | ⟨k', hk', h⟩
  · rw [h]
  · rw [h]
    have := hq k' hk'
    exact memRead_memWrite_other hm (by omega)

theorem memRead_writePieces_avoid {s : State} {ps : List Piece} {bs : List Byte} {done k n : Nat} (hm : s.MemOk)
    (h : ∀ q ∈ ps, q.Avoids k n) : memRead (writePieces s ps bs done).1.mem k n = memRead s.mem k n := by
  induction ps generalizing s bs done with
  | nil => rfl
  | cons q ps ih =>
    obtain ⟨hq, hps⟩ := List.forall_mem_cons.mp h
    rcases writePieces_cons_cases (rfl : writePieces s (q :: ps) bs done = _) with ⟨f, hf⟩ | hw
    · rw [hf]
    · rw [← hw, ih (write_wf q _ hm) hps, memRead_write_avoids hm hq (List.length_take_le _ _)]

/-- After a store of all its pieces, the bytes of piece i stand at its key where no other piece reaches them, or, where the HBM
controllers bar it, what stood there before (R419). -/
theorem memRead_writePieces {s t : State} {ps : List Piece} {bs : List Byte} {done i k : Nat} {p : Piece} (hm : s.MemOk)
    (hw : writePieces s ps bs done = (t, none)) (hp : ps[i]? = some p) (hk : p.key = .ok k)
    (hothers : ∀ j q, j ≠ i → ps[j]? = some q → q.Avoids k p.size) :
    if s.barred (s.keyOf s.cur) k p.size = true then memRead t.mem k p.size = memRead s.mem k p.size
    else ((ps.take i).map Piece.size).sum + p.size ≤ bs.length →
      memRead t.mem k p.size = (bs.drop ((ps.take i).map Piece.size).sum).take p.size := by
  induction ps generalizing s bs done i with
  | nil => simp at hp
  | cons q ps ih =>
    have hrest : writePieces (q.write s (bs.take q.size)) ps (bs.drop q.size) (done + q.count) = (t, none) :=
      (writePieces_cons_cases hw).resolve_left (by rintro ⟨f, hf⟩; cases hf)
    have hm' : (q.write s (bs.take q.size)).MemOk := write_wf q _ hm
    cases i with
    | zero =>
      obtain rfl : q = p := by simpa using hp
      have hps : ∀ r ∈ ps, r.Avoids k q.size := by
        intro r hr
        obtain ⟨j, hj⟩ := List.mem_iff_getElem?.mp hr
        exact hothers (j + 1) r (by omega) (by simpa using hj)
      have ht : memRead t.mem k q.size = memRead (q.write s (bs.take q.size)).mem k q.size := by
        have := memRead_writePieces_avoid (bs := bs.drop q.size) (done := done + q.count) hm' hps
        rwa [hrest] at this
      split
      · next hb => rw [ht, write_mem_barred _ hk hb]
      · next hb =>
        intro hlen
        have hbs : (bs.take q.size).length = q.size := List.length_take_of_le (by simpa using hlen)
        have hread := memRead_memWrite_same k (bs.take q.size) hm
        rw [hbs] at hread
        rw [ht, write_mem_performed _ hk (eq_false_of_ne_true hb), hread]
        rfl
    | succ i =>
      have hq : q.Avoids k p.size := hothers 0 q (by omega) rfl
      have hstep := ih hm' hrest (by simpa using hp) (fun j r hj hr => hothers (j + 1) r (by omega) (by simpa using hr))
      rw [barred_write, memRead_write_avoids hm hq (List.length_take_le _ _)] at hstep
      simp only [List.take_succ_cons, List.map_cons, List.sum_cons]
      split
      · next hb => simpa only [hb, if_true] using hstep
      · next hb =>
        intro hlen
        rw [if_neg hb, List.drop_drop, List.length_drop] at hstep
        exact hstep (by omega)

/-! ### Where the address of a piece leads (R145, R291, R295) -/

/-- Every piece of a plan is the place that its address names, under the key of that place. -/
theorem mem_resolvePieces {s : State} {e : EId} {d : Need} {a : Word} {xs : List Part} {ps : List Piece} {p : Piece}
    (h : resolvePieces s e d a xs = .ok ps) (hp : p ∈ ps) :
    ∃ pl, resolve s e d.aps p.addr = .ok pl ∧ p.key = placeKey s e p.size pl := by
  induction xs generalizing ps with
  | nil => cases h; simp at hp
  | cons x xs ih =>
    simp only [resolvePieces] at h
    split at h
    · cases h
    · next pl hpl =>
      split at h
      · cases h
      · next qs hqs =>
        cases h
        rcases List.mem_cons.mp hp with rfl | hp
        · exact ⟨pl, hpl, rfl⟩
        · exact ih hqs hp

theorem mem_plan {s : State} {e : EId} {d : Need} {a : Word} {n : Nat} {ps : List Piece} {p : Piece}
    (h : plan s e d a n = .ok ps) (hp : p ∈ ps) : ∃ pl, resolve s e d.aps p.addr = .ok pl ∧ p.key = placeKey s e p.size pl := by
  unfold plan at h
  split at h
  · cases h
  · next qs hqs =>
    dsimp only at h
    generalize (if d.align ≠ 0 then d.align else if d.piece = 0 then n else d.piece) = unit at h
    split at h
    · cases h
    · split at h <;> cases h
      exact mem_resolvePieces hqs hp

theorem resolve_dev {s : State} {e : EId} {aps : List Nat} {a : Word} {pl : Place} (h : resolve s e aps a = .ok pl) (ha : apOf a = 8) :
    pl = .dev (fld a 51 0) := by
  simp only [resolve, ha] at h
  split at h
  · cases h
  · split at h <;> cases h
    rfl

theorem resolve_host {s : State} {e : EId} {aps : List Nat} {a : Word} {pl : Place} (h : resolve s e aps a = .ok pl) (ha : apOf a = 9) :
    pl = .host (fld a 55 0) := by
  simp only [resolve, ha] at h
  split at h
  · cases h
  · split at h <;> cases h
    rfl

theorem coords_mkE {die x y : Nat} (hx : x < 128) (hy : y < 64) : eDie (mkE die x y) = die ∧ eX (mkE die x y) = x ∧ eY (mkE die x y) = y := by
  simp only [eDie, eX, eY, mkE]
  omega

theorem mkE_coords (e : Nat) : mkE (eDie e) (eX e) (eY e) = e := by
  have h : e / 8192 * 8192 + e / 64 % 128 * 64 + e % 64 = e := by omega
  exact h

theorem sorusOf_eq (e : EId) : sorusOf e = 256 * eDie e + 16 * (eY e / 2) + eX e / 4 := rfl

theorem isCore_iff (e : EId) : isCore e = true ↔ eDie e < 2 ∧ eX e < 64 ∧ eY e < 32 := by
  simp [isCore, and_assoc]

/-- The coordinates of member m of a core's sorus (R12). -/
theorem coords_sorusMember {e : EId} {m : Nat} (he : isCore e = true) (hm : m < 8) :
    eDie (sorusMember (sorusOf e) m) = eDie e ∧ eX (sorusMember (sorusOf e) m) = 4 * (eX e / 4) + m % 4 ∧
    eY (sorusMember (sorusOf e) m) = 2 * (eY e / 2) + m / 4 := by
  obtain ⟨hd, hx, hy⟩ := (isCore_iff e).mp he
  have hdie : sorusOf e / 256 = eDie e := by unfold sorusOf; omega
  have hcol : sorusOf e % 16 = eX e / 4 := by unfold sorusOf; omega
  have hrow : sorusOf e % 256 / 16 = eY e / 2 := by unfold sorusOf; omega
  rw [sorusMember, hdie, hcol, hrow]
  exact coords_mkE (by omega) (by omega)

/-- The members of a core's sorus are cores of that sorus, each at its member index (R12). -/
theorem sorusMember_facts {e : EId} {m : Nat} (he : isCore e = true) (hm : m < 8) :
    isCore (sorusMember (sorusOf e) m) = true ∧ sorusOf (sorusMember (sorusOf e) m) = sorusOf e ∧
    memberOf (sorusMember (sorusOf e) m) = m := by
  obtain ⟨hd, hx, hy⟩ := (isCore_iff e).mp he
  obtain ⟨hd', hx', hy'⟩ := coords_sorusMember he hm
  have hcore : isCore (sorusMember (sorusOf e) m) = true := by
    rw [isCore_iff, hd', hx', hy']
    omega
  refine ⟨hcore, ?_, ?_⟩
  · rw [sorusOf_eq (sorusMember (sorusOf e) m), hd', hx', hy', sorusOf_eq e]
    omega
  · rw [memberOf, if_pos hcore, hx', hy']
    omega

/-- The coordinates of a core lie on the mesh and name it (R10). -/
theorem onMesh_core {t : EId} (ht : isCore t = true) : onMesh (eDie t, eX t, eY t) = some t := by
  obtain ⟨hd, hx, hy⟩ := (isCore_iff t).mp ht
  rw [onMesh, if_pos (by dsimp only; omega)]
  exact congrArg some (mkE_coords t)

/-- An address of aperture 1 names a member of the core's sorus (R145). -/
theorem resolve_sorus {s : State} {e : EId} {aps : List Nat} {a : Word} {pl : Place} (h : resolve s e aps a = .ok pl)
    (ha : apOf a = 1) (he : isCore e = true) :
    pl = .raw (sorusMember (sorusOf e) (fld a 34 32)) (fld a 15 0) := by
  have hm : fld a 34 32 < 8 := Nat.mod_lt _ (by decide)
  have ht : onMesh (targetOf e a) = some (sorusMember (sorusOf e) (fld a 34 32)) := by
    simp only [targetOf, ha]
    exact onMesh_core (sorusMember_facts he hm).1
  simp only [resolve, ha, ht] at h
  repeat' split at h
  all_goals cases h
  rfl

theorem key_of_raw {s : State} {e t : EId} {n o k : Nat} (h : placeKey s e n (.raw t o) = .ok k) : k = scratchKey t o := by
  simp only [placeKey] at h
  split at h <;> cases h
  rfl

theorem key_of_dev {s : State} {e : EId} {n va k : Nat} (h : placeKey s e n (.dev va) = .ok k) :
    ∃ tr, xlate s e va = .ok tr ∧ k = hbmKey (tr.phys va) := by
  simp only [placeKey] at h
  split at h <;> cases h
  exact ⟨_, ‹_›, rfl⟩

theorem key_of_host {s : State} {e : EId} {n i k : Nat} (h : placeKey s e n (.host i) = .ok k) : k = hostKey (s.hostOf e i) := by
  simp only [placeKey] at h
  split at h <;> cases h
  rfl

end Sys2Proof.Machine
end

section
/-!
The scalar loads and stores of the own scratchpad and of every aperture, and their faults (R4, R38, R145, R146, R158, R160–R163,
R195, R380, R419), put together from `loadTo`, `storeFrom` and the laws of pieces.
-/
namespace Sys2Proof.Machine

theorem leNat_memRead_lt (m : Memory) (k n : Nat) : leNat (memRead m k n) < 2 ^ (8 * n) := by
  simpa using leNat_lt (memRead m k n)

/-- Where the pieces of a plan lead: the sorus member, the page's HBM, or host memory (R145, R291, R295). -/
theorem plan_leads {s : State} {need : Need} {ea : Word} {n : Nat} {ps : List Piece} {p : Piece} {k : Nat}
    (h : plan s s.cur need ea n = .ok ps) (hp : p ∈ ps) (hk : p.key = .ok k) :
    (fld p.addr 63 60 = 1 → isCore s.cur = true → ∃ t, isCore t = true ∧ sorusOf t = sorusOf s.cur ∧ memberOf t = fld p.addr 34 32 ∧
      k = scratchKey t (fld p.addr 15 0)) ∧
    (fld p.addr 63 60 = 8 → ∃ tr, xlate s s.cur (fld p.addr 51 0) = .ok tr ∧ k = hbmKey (tr.phys (fld p.addr 51 0))) ∧
    (fld p.addr 63 60 = 9 → k = hostKey (s.hostOf s.cur (fld p.addr 55 0))) := by
  obtain ⟨pl, hpl, hkey⟩ := mem_plan h hp
  rw [hk] at hkey
  refine ⟨fun ha hcore => ?_, fun ha => ?_, fun ha => ?_⟩
  · obtain ⟨hcore', hsorus, hmember⟩ := sorusMember_facts hcore (show fld p.addr 34 32 < 8 from Nat.mod_lt _ (by decide))
    rw [resolve_sorus hpl ha hcore] at hkey
    exact ⟨_, hcore', hsorus, hmember, key_of_raw hkey.symm⟩
  · rw [resolve_dev hpl ha] at hkey
    exact key_of_dev hkey.symm
  · rw [resolve_host hpl ha] at hkey
    exact key_of_host hkey.symm

/-- Settles O24: own accesses by `loadTo_own` and `storeFrom_own`, every other answer of the checks and of the pieces by the
equations of `loadTo` and `storeFrom`, and the pieces by `memRead_writePieces` and `plan_leads`. -/
theorem ownAccesses : Obligations.OwnAccesses := by
  refine ⟨?_, ?_, ?_, ?_, ?_, ?_, ?_⟩
  · intro s A d a b z i p hA n v
    refine ⟨fun h => ⟨?_, ?_⟩, fun h => ?_, fun hb h => ?_, fun hb => ⟨exec_ldx_outOfBounds hA hb, exec_stx_outOfBounds hA hb⟩⟩
    · exact (exec_ld hA d z a i).trans (loadTo_own hA h (apsLoad_zero _) rfl rfl rfl _ _ _)
    · rw [← sextFrom_eq (leNat_memRead_lt s.mem (scratchKey s.cur p) n)]
      exact (exec_ldSigned hA d z a i).trans (loadTo_own hA h (apsLoad_zero _) rfl rfl rfl _ _ _)
    · exact (exec_ldAcq hA d a z).trans (loadTo_own hA h (apsLoad_zero _) rfl rfl rfl _ _ _)
    · exact (exec_ldx hA hb).trans (loadTo_own hA h (apsLocal_zero _) rfl rfl rfl _ _ _)
  · intro s A d a i p hA r ea
    refine ⟨fun h => ?_, fun h => ?_⟩
    · exact (exec_ldDC hA d a i).trans (loadTo_own hA h (apsLoad_zero _) rfl rfl rfl _ _ _)
    · exact (exec_stDC hA d a i).trans (storeFrom_own hA h (apsLoad_zero _) rfl rfl rfl _ _)
  · intro s A d a b z i p hA n bs t
    refine ⟨fun h => ?_, fun hb h => ?_, fun h hposted => ?_⟩
    · exact (exec_st hA d z a i).trans (storeFrom_own hA h (apsLoad_zero _) rfl rfl rfl _ _)
    · exact (exec_stx hA hb).trans (storeFrom_own hA h (apsLocal_zero _) rfl rfl rfl _ _)
    · have hplan := h.plan_eq hA (d := { aps := apsLoad s.cur, wr := true, natural := true }) (apsLoad_zero _) rfl rfl (by simp) (by simp)
      exact (exec_stRel_performed hA hplan hposted).trans (storeFrom_own hA h (apsLoad_zero _) rfl rfl rfl _ _)
  · intro s t A d a z i hA n ea
    refine ⟨fun f h => ⟨?_, ?_⟩, fun bs h => ?_⟩
    · exact (exec_ld hA d z a i).trans (loadTo_error _ _ _ h)
    · exact (exec_ldSigned hA d z a i).trans (loadTo_error _ _ _ h)
    · exact (exec_ld hA d z a i).trans (loadTo_ok _ _ _ h)
  · intro s A d a b z i hA n aps bs fails succeeds
    have hlen : bs.length = n := leBytes_length _ _
    refine ⟨fun ps t hp hw => ?_, fun hb ps t hp hw => ?_, fun hposted ps t hp hw => ?_, fun ps hp hposted => ?_,
      fun c m k ps t hp hw => ?_, ?_, fun hb => ?_, fun f hp => ?_, fun hposted ps t f hp hw => ?_, fun c m k => ?_⟩
    · exact (exec_st hA d z a i).trans (storeFrom_performed _ hp hw)
    · exact (exec_stx hA hb).trans (storeFrom_performed _ hp hw)
    · exact (exec_stRel_performed hA (hlen ▸ hp) hposted).trans (storeFrom_performed _ hp hw)
    · exact exec_stRel_waits hA hp hposted
    · exact (exec_stDC hA c m k).trans (storeFrom_performed _ hp hw)
    · exact exec_store_fails (exec_st hA d z a i)
    · exact exec_store_fails (exec_stx hA hb)
    · rw [exec_stRel_refused hA hp, finish_some, noteStopped_cur]
    · exact (exec_store_fails (exec_stRel_performed hA hp hposted)).2 ps t f (hlen ▸ hp) hw
    · exact exec_store_fails (exec_stDC hA c m k)
  · intro s t ps bs i p k hm hw hp hk hothers
    exact memRead_writePieces hm hw hp hk (fun j q hj hq k' => hothers j q k' hj hq)
  · intro s need ea n ps p k hplan hp hk
    exact plan_leads hplan hp hk

end Sys2Proof.Machine
end

section
/-!
What a fault leaves: the packet's fields, who receives it, and the frozen element (R7, R366–R369).
-/
namespace Sys2Proof.Machine

/-! ### The words of a packet (R367) -/

theorem vget_words8 (l : List Word) {i : Nat} (h : i < 8) : vget 0 (words8 l) i = l.getD i 0 := by
  simp [vget, words8, h]

/-- The frond field of a packet's first word lies in its bits from 48 up. -/
def Packet.frondBits (p : Packet) : Nat := match p.frond with | some (l, m) => 1 + l * 2 + m * 16 | none => 0

theorem Packet.head_eq (p : Packet) (ctx time : Nat) :
    (p.words ctx time).getD 0 0 = BitVec.ofNat 64 (p.code + p.kind * 2 ^ 8 + ctx * 2 ^ 16 + p.chan * 2 ^ 24
      + (if p.cont then 1 else 0) * 2 ^ 28 + p.coord * 2 ^ 32 + p.frondBits * 2 ^ 48) := by
  have hc : (if p.cont then 2 ^ 28 else 0) = (if p.cont then 1 else 0) * 2 ^ 28 := by split <;> rfl
  have hf : (match p.frond with | some (l, m) => 2 ^ 48 + l * 2 ^ 49 + m * 2 ^ 52 | none => 0) = p.frondBits * 2 ^ 48 := by
    unfold Packet.frondBits
    split <;> omega
  rw [← hc, ← hf]
  rfl

/-- The fields of a word that holds, from bit 0 up, CODE, KIND, a context, a channel, CONT, COORD and the frond field. -/
theorem fld_head (code kind ctx chan cont coord frond : Nat) (hcode : code < 256) (hkind : kind < 4) (hchan : chan < 16) (hcont : cont < 2) :
    let w := BitVec.ofNat 64 (code + kind * 2 ^ 8 + ctx * 2 ^ 16 + chan * 2 ^ 24 + cont * 2 ^ 28 + coord * 2 ^ 32 + frond * 2 ^ 48)
    fld w 9 8 = kind ∧ (ctx < 64 → coord < 2 ^ 16 → fld w 7 0 = code ∧ fld w 23 16 = ctx ∧ fld w 27 24 = chan ∧ fld w 47 32 = coord) := by
  simp only [fld, BitVec.toNat_ofNat]
  refine ⟨by omega, fun hctx hcoord => ⟨?_, ?_, ?_, ?_⟩⟩ <;> omega

/-- KIND, and CODE, the context, the channel and COORD where they fit their fields. -/
theorem Packet.head_fields (p : Packet) (ctx time : Nat) (hcode : p.code < 256) (hkind : p.kind < 4) (hchan : p.chan < 16) :
    let w := (p.words ctx time).getD 0 0
    fld w 9 8 = p.kind ∧ (ctx < 64 → p.coord < 2 ^ 16 → fld w 7 0 = p.code ∧ fld w 23 16 = ctx ∧ fld w 27 24 = p.chan ∧
      fld w 47 32 = p.coord) := by
  rw [p.head_eq]
  exact fld_head _ _ _ _ _ _ _ hcode hkind hchan (by split <;> decide)

/-- The packet of KIND 0 that element e sends of fault f in activation A: CODE, KIND, the context, the channel, COORD, PC, WP, the
fault address, the extra word, TIME and PSEQ (R367). -/
def State.FaultPacket (s : State) (e : EId) (A : Act) (f : Flt) (ctx : Nat) (w : Words8) : Prop :=
  fld (vget 0 w 0) 9 8 = 0 ∧ vget 0 w 1 = A.pc ∧ vget 0 w 2 = A.wp ∧ vget 0 w 3 = f.faddr ∧ vget 0 w 4 = f.extra ∧
  vget 0 w 5 = BitVec.ofNat 64 s.time ∧ vget 0 w 7 = ((s.elem e).pseq + 1).setWidth 64 ∧
  (ctx < 64 → e < 2 ^ 16 → fld (vget 0 w 0) 7 0 = f.code ∧ fld (vget 0 w 0) 23 16 = ctx ∧
    fld (vget 0 w 0) 27 24 = A.chan.toNat ∧ fld (vget 0 w 0) 47 32 = e)

/-- The words that `takeFault` sends. -/
def State.faultWords (s : State) (e : EId) (A : Act) (f : Flt) (ctx : Nat) : List Word :=
  (s.packetOf e A f.code 0 f.faddr f.extra ((s.elem e).pseq + 1).toNat).words ctx s.time

theorem faultPacket_faultWords (s : State) (e : EId) (A : Act) (f : Flt) (ctx : Nat) (hcode : f.code < 256) :
    s.FaultPacket e A f ctx (words8 (s.faultWords e A f ctx)) := by
  have hh := (s.packetOf e A f.code 0 f.faddr f.extra ((s.elem e).pseq + 1).toNat).head_fields ctx s.time hcode
    (by decide : 0 < 4) A.chan.isLt
  unfold State.FaultPacket
  rw [vget_words8 _ (by decide : 0 < 8)]
  obtain ⟨hkind, hrest⟩ := hh
  refine ⟨hkind, ?_, ?_, ?_, ?_, ?_, ?_, hrest⟩ <;> rw [vget_words8 _ (by decide)]
  case refine_6 => exact BitVec.ofNat_toNat 64 _
  all_goals rfl

/-! ### Who receives a packet (R366, R368) -/

theorem isFenced_updElem (s : State) (e x : EId) (g : Elem → Elem) (h : (s.elem e).mode ≠ .fenced) (h' : (g (s.elem e)).mode ≠ .fenced) :
    (s.updElem e g).isFenced x = s.isFenced x := by
  have hm : ∀ y, decide (((s.updElem e g).elem y).mode = .fenced) = decide ((s.elem y).mode = .fenced) := by
    intro y
    rw [elem_updElem]
    split
    · next hy => subst hy; simp [h, h']
    · rfl
  simp only [State.isFenced, hm, updElem_fronds]

/-- A supervisor that is not fenced receives the packet of another element on its q15. -/
theorem sendPacket_sup {s : State} {ctx : Nat} {C : Ctx} {e sup : EId} (hC : tget s.ctxs ctx = some C) (hsup : C.sup = some sup)
    (hne : sup ≠ e) (hf : s.isFenced sup = false) (own : Bool) (ws : List Word) :
    s.sendPacket ctx e own ws =
      s.inject ctx e (some sup) (.msg 15 { plainMsg ws with kind := .packet } { credit := none, notice := none, cmd := none }) := by
  simp [State.sendPacket, State.supOk, hC, hsup, hf, hne]

/-- The host receives an element's own packet where the element is the supervisor, or the supervisor is fenced or there is none. -/
theorem sendPacket_host {s : State} {ctx : Nat} {C : Ctx} {e : EId} (hC : tget s.ctxs ctx = some C)
    (hsup : ∀ sup, C.sup = some sup → sup = e ∨ s.isFenced sup = true) (ws : List Word) :
    s.sendPacket ctx e true ws = s.escalate ctx ws := by
  cases h : C.sup with
  | none => simp [State.sendPacket, State.supOk, hC, h]
  | some sup =>
    by_cases hf : s.isFenced sup = true
    · simp [State.sendPacket, State.supOk, hC, h, hf]
    · obtain rfl : sup = e := (hsup sup h).resolve_right hf
      simp [State.sendPacket, State.supOk, hC, h, hf]

theorem sent_inject (s : State) (ctx : Nat) (src : EId) (dst : Option EId) (b : Body) : (s.inject ctx src dst b).Sent src dst b := by
  refine ⟨{ id := s.nextId, ctx := ctx, src := src, dst := dst, body := b, after := s.afterOf src dst b }, ?_, rfl, rfl, rfl⟩
  simp [State.inject]

theorem tget_updCtx_same {s : State} {ctx : Nat} {C : Ctx} (g : Ctx → Ctx) (hC : tget s.ctxs ctx = some C) :
    tget (s.updCtx ctx g).ctxs ctx = some (g C) := by
  simp [State.updCtx, hC]

/-- An escalation is held as a completion entry of KIND 4 whose second half is the packet (R368, R414). -/
theorem escalate_held {s : State} {ctx : Nat} {C : Ctx} (ws : List Word) (hC : tget s.ctxs ctx = some C) :
    ∃ (D : Ctx) (entry : List Word), tget (s.escalate ctx ws).ctxs ctx = some D ∧ D.held = C.held ++ [entry] ∧
      fld (entry.getD 0 0) 7 0 = 4 ∧ words8 (entry.drop 8) = words8 ws := by
  refine ⟨_, _, tget_updCtx_same _ hC, rfl, ?_, ?_⟩
  · have ht : (bitsAt (((s.free 4).setWidth 32).toNat) 32).toNat % 2 ^ 8 = 0 := by
      simp only [bitsAt, BitVec.toNat_ofNat]
      omega
    simp only [List.cons_append, List.getD_cons_zero, fld, BitVec.toNat_or, Nat.pow_zero, Nat.div_one, Nat.or_mod_two_pow, ht]
    rfl
  · apply Vector.ext
    intro i hi
    simp [words8]

/-- The element as `takeFault` freezes it, before its packet is sent. -/
def State.freeze (s : State) (e : EId) (f : Flt) : State :=
  s.updElem e (fun E => { E with
    mode := .frozen, stalled := false, stepReq := false, pseq := (s.elem e).pseq + 1, lastFault := BitVec.ofNat 8 f.code
    hostTimeout := E.hostTimeout && f.code != 0x1C })

theorem takeFault_eq {s : State} {e : EId} {A : Act} (f : Flt) {ctx : Nat} (hact : (s.elem e).act = some A) (hctx : s.ctxOf e = some ctx) :
    s.takeFault e f =
      (((s.freeze e f).sendPacket ctx e true (s.faultWords e A f ctx)).traceNote e 3 f.code (some A)).abandonShares e := by
  simp only [State.takeFault, hact, hctx, Option.getD_some]
  rfl

/-- Freezing an element fences none and ends no fence. -/
theorem isFenced_freeze {s : State} {e : EId} (f : Flt) (x : EId) (h : (s.elem e).mode ≠ .fenced) :
    (s.freeze e f).isFenced x = s.isFenced x :=
  isFenced_updElem s e x _ h (by simp)

theorem takeFault_sent {s : State} {e sup : EId} {A : Act} {C : Ctx} (f : Flt) {ctx : Nat} (hact : (s.elem e).act = some A)
    (hmode : (s.elem e).mode ≠ .fenced) (hctx : s.ctxOf e = some ctx) (hC : tget s.ctxs ctx = some C) (hsup : C.sup = some sup)
    (hne : sup ≠ e) (hf : s.isFenced sup = false) :
    ∃ (m : Msg) (r : Ret), (s.takeFault e f).Sent e (some sup) (.msg 15 m r) ∧ m.words = words8 (s.faultWords e A f ctx) := by
  have hC' : tget (s.freeze e f).ctxs ctx = some C := hC
  refine ⟨{ plainMsg (s.faultWords e A f ctx) with kind := .packet },
    { credit := none, notice := none, cmd := none }, ?_, rfl⟩
  rw [takeFault_eq f hact hctx, sendPacket_sup hC' hsup hne (by rw [isFenced_freeze f sup hmode, hf])]
  simpa only [State.Sent, abandonShares_fabric, traceNote_fabric] using sent_inject _ _ _ _ _

theorem takeFault_escalates {s : State} {e : EId} {A : Act} {C : Ctx} (f : Flt) {ctx : Nat} (hact : (s.elem e).act = some A)
    (hmode : (s.elem e).mode ≠ .fenced) (hctx : s.ctxOf e = some ctx) (hC : tget s.ctxs ctx = some C)
    (hsup : ∀ sup, C.sup = some sup → sup = e ∨ s.isFenced sup = true) :
    ∃ (D : Ctx) (entry : List Word), tget (s.takeFault e f).ctxs ctx = some D ∧ D.held = C.held ++ [entry] ∧
      fld (entry.getD 0 0) 7 0 = 4 ∧ words8 (entry.drop 8) = words8 (s.faultWords e A f ctx) := by
  have hC' : tget (s.freeze e f).ctxs ctx = some C := hC
  rw [takeFault_eq f hact hctx, sendPacket_host hC' (by simpa only [isFenced_freeze f _ hmode] using hsup)]
  simpa only [abandonShares_ctxs, traceNote_ctxs] using escalate_held _ hC'

/-- What a fault changes in no element: the registers, channels, regions and COMBO; of the others, activation and mode too. -/
theorem takeFault_frame {s : State} {e : EId} {A : Act} (f : Flt) (hact : (s.elem e).act = some A) (x : EId) :
    ((s.takeFault e f).elem x).v = (s.elem x).v ∧ ((s.takeFault e f).elem x).k = (s.elem x).k ∧
    ((s.takeFault e f).elem x).chans = (s.elem x).chans ∧ ((s.takeFault e f).elem x).regions = (s.elem x).regions ∧
    ((s.takeFault e f).elem x).combo = (s.elem x).combo ∧
    (x ≠ e → ((s.takeFault e f).elem x).act = (s.elem x).act ∧ ((s.takeFault e f).elem x).mode = (s.elem x).mode) := by
  obtain ⟨q, n, m, h⟩ := takeFault_elem s e x f A hact
  rw [h]
  split
  · next hx => subst hx; simp
  · simp

/-- Settles O53: the frozen element and the frame from `takeFault_elem`, the packet by who receives it. -/
theorem faultTaken : Obligations.FaultTaken := by
  intro s e A f ctx C hact hmode hctx hC t packet hcode
  have hpacket : packet (words8 (s.faultWords e A f ctx)) := faultPacket_faultWords s e A f ctx hcode
  obtain ⟨q, n, m, hself⟩ := takeFault_elem s e e f A hact
  rw [if_pos rfl] at hself
  refine ⟨?_, ?_, ?_, ?_, ?_, takeFault_mem s e f, takeFault_tags s e f, takeFault_time s e f, takeFault_frame f hact, ?_, ?_⟩
  · rw [hself]; exact hact
  · rw [hself]
  · rw [hself]
  · rw [hself]
  · rw [hself]
  · intro sup hsup hne hf
    obtain ⟨msg, r, hsent, hwords⟩ := takeFault_sent f hact hmode hctx hC hsup hne hf
    exact ⟨msg, r, hsent, hwords ▸ hpacket⟩
  · intro hsup
    obtain ⟨D, entry, hD, hheld, hkind, hwords⟩ := takeFault_escalates f hact hmode hctx hC hsup
    exact ⟨D, entry, hD, hheld, hkind, hwords ▸ hpacket⟩

end Sys2Proof.Machine
end
